-- ==== Sys2Proof/Word.lean ====
section
/-!
DEFINITION. Sys2Proof/Word.lean: the 32-bit word, the byte, and the codeword every store of this machine keeps (a word
with its 8-bit check code, spec R69, R132).
-/

namespace Sys2Proof

/-- A 32-bit instruction or data word (spec R74, R126). -/
abbrev Word := BitVec 32

/-- A byte of memory, and also an 8-bit check code (spec R69). -/
abbrev Byte := BitVec 8

/-- A codeword: 32 bits of data and the LCC that travels with them (spec R69, R132). -/
structure CW where
  data : Word
  code : Byte
deriving DecidableEq, Repr, Inhabited

/-- The codeword of a zero word: zero data with code 0x00 (spec R73, R127). -/
def CW.zero : CW := ⟨0, 0⟩

end Sys2Proof
end

