-- ==== Sys2Proof/Machine/Exact.lean ====
section
/-!
DEFINITION. Sys2Proof/Machine/Exact.lean: exact values and their rounding. A floating-point operation computes its exact
value as a fraction and rounds once (spec R42, R44, R51); the rounding is one function for every format.
-/

namespace Sys2Proof.Machine

/-- The rounding modes of R44, resolved. -/
inductive RMode where
  | rne | rtz | rup | rdn | rna
deriving DecidableEq, Repr, Inhabited

/-- An exact value with IEEE specials. `fin neg num den` is (-1)^neg · num / den with num and den positive. -/
inductive FVal where
  | nan
  | inf (neg : Bool)
  | zero (neg : Bool)
  | fin (neg : Bool) (num den : Nat)
deriving DecidableEq, Repr, Inhabited

/-- The largest r with r² ≤ n, one bit of r at a time from bit `k - 1` downward. -/
def isqrtFrom (n : Nat) : Nat → Nat → Nat
  | 0, r => r
  | k + 1, r =>
    let t := r + 2 ^ k
    if t * t ≤ n then isqrtFrom n k t else isqrtFrom n k r

/-- The integer square root. -/
def isqrt (n : Nat) : Nat := isqrtFrom n (n.log2 / 2 + 1) 0

/-- n · 2^k, where a negative k multiplies the other side of a fraction: the pair (n, d) of n · 2^k / d. -/
def shiftFrac (n d : Nat) (k : Int) : Nat × Nat :=
  match k with
  | .ofNat j => (n * 2 ^ j, d)
  | .negSucc j => (n, d * 2 ^ (j + 1))

/-- ⌊log₂ (n / d)⌋ for positive n and d. -/
def floorLog2 (n d : Nat) : Int :=
  let k : Int := (n.log2 : Int) - (d.log2 : Int)
  let (a, b) := shiftFrac n d (-k)
  if b ≤ a then k else k - 1

/-- Whether rounding moves the quotient q with remainder r over divisor d away from zero. -/
def roundsUp (m : RMode) (neg : Bool) (q r d : Nat) : Bool :=
  match m with
  | .rne => decide (d < 2 * r) || (decide (2 * r = d) && q % 2 == 1)
  | .rtz => false
  | .rup => decide (r ≠ 0) && !neg
  | .rdn => decide (r ≠ 0) && neg
  | .rna => decide (d ≤ 2 * r)

/-- Round num / den to an integer in a mode. -/
def roundQuot (m : RMode) (neg : Bool) (num den : Nat) : Nat :=
  let q := num / den
  if roundsUp m neg q (num % den) den then q + 1 else q

/-- Round a positive fraction to `p` significant bits with no quantum below 2^`qmin`: the significand and its quantum's exponent. -/
def roundMag (m : RMode) (p : Nat) (qmin : Int) (neg : Bool) (num den : Nat) : Nat × Int :=
  let e := max (floorLog2 num den - (p - 1 : Int)) qmin
  let (a, b) := shiftFrac num den (-e)
  (roundQuot m neg a b, e)

/-- Signed fraction of a finite value; specials give zero. -/
def FVal.frac : FVal → Int × Nat
  | .fin neg n d => (if neg then -(n : Int) else (n : Int), d)
  | _ => (0, 1)

/-- The value of a signed fraction; a zero takes the sign given. -/
def FVal.ofFrac (zneg : Bool) (n : Int) (d : Nat) : FVal :=
  if n = 0 then .zero zneg else .fin (decide (n < 0)) n.natAbs d

def FVal.isNaN : FVal → Bool
  | .nan => true
  | _ => false

def FVal.isInf : FVal → Bool
  | .inf _ => true
  | _ => false

def FVal.isZero : FVal → Bool
  | .zero _ => true
  | _ => false

/-- The sign of a value; a NaN counts as positive. -/
def FVal.sign : FVal → Bool
  | .nan => false
  | .inf n => n
  | .zero n => n
  | .fin n _ _ => n

def FVal.neg : FVal → FVal
  | .nan => .nan
  | .inf n => .inf !n
  | .zero n => .zero !n
  | .fin n a b => .fin (!n) a b

def FVal.abs : FVal → FVal
  | .nan => .nan
  | .inf _ => .inf false
  | .zero _ => .zero false
  | .fin _ a b => .fin false a b

/-- The exact sum; an exact zero has the sign of R208: both addends' sign where they agree, else −0 in RDN and +0 otherwise. -/
def FVal.add (m : RMode) (x y : FVal) : FVal :=
  match x, y with
  | .nan, _ => .nan
  | _, .nan => .nan
  | .inf a, .inf b => if a == b then .inf a else .nan
  | .inf a, _ => .inf a
  | _, .inf b => .inf b
  | .zero a, .zero b => .zero (if a == b then a else m == .rdn)
  | .zero _, y => y
  | x, .zero _ => x
  | x, y =>
    let (n, d) := x.frac
    let (n', d') := y.frac
    .ofFrac (m == .rdn) (n * d' + n' * d) (d * d')

/-- The exact product. -/
def FVal.mul (x y : FVal) : FVal :=
  match x, y with
  | .nan, _ => .nan
  | _, .nan => .nan
  | .inf _, .zero _ => .nan
  | .zero _, .inf _ => .nan
  | .inf a, y => .inf (a != y.sign)
  | x, .inf b => .inf (x.sign != b)
  | .zero a, y => .zero (a != y.sign)
  | x, .zero b => .zero (x.sign != b)
  | .fin a n d, .fin b n' d' => .fin (a != b) (n * n') (d * d')

/-- The exact quotient. -/
def FVal.div (x y : FVal) : FVal :=
  match x, y with
  | .nan, _ => .nan
  | _, .nan => .nan
  | .inf _, .inf _ => .nan
  | .zero _, .zero _ => .nan
  | .inf a, y => .inf (a != y.sign)
  | x, .inf b => .zero (x.sign != b)
  | .zero a, y => .zero (a != y.sign)
  | x, .zero b => .inf (x.sign != b)
  | .fin a n d, .fin b n' d' => .fin (a != b) (n * d') (d * n')

/-- √(n/d) to `bits` significant bits and more, with half a unit added where it is not exact: rounding it to fewer than
`bits` - 1 bits gives what rounding the exact root gives. -/
def sqrtFrac (bits : Nat) (n d : Nat) : Nat × Nat :=
  let k : Nat := (bits + 1 + (max 0 (-(floorLog2 n d)) / 2).toNat)
  let v := n * 4 ^ k
  let s := isqrt (v / d)
  if s * s * d = v then (s, 2 ^ k) else (2 * s + 1, 2 ^ (k + 1))

/-- The square root (R212); `bits` is more than the destination's precision by 4. -/
def FVal.sqrt (bits : Nat) : FVal → FVal
  | .nan => .nan
  | .inf true => .nan
  | .inf false => .inf false
  | .zero s => .zero s
  | .fin true _ _ => .nan
  | .fin false n d => let (a, b) := sqrtFrac bits n d; .fin false a b

/-- 1/√x (R212). -/
def FVal.rsqrt (bits : Nat) : FVal → FVal
  | .nan => .nan
  | .inf true => .nan
  | .inf false => .zero false
  | .zero s => .inf s
  | .fin true _ _ => .nan
  | .fin false n d => let (a, b) := sqrtFrac bits d n; .fin false a b

/-- Order of two values that are no NaN, −0 equal to +0. -/
def FVal.lt (x y : FVal) : Bool :=
  match x, y with
  | .nan, _ => false
  | _, .nan => false
  | .inf a, .inf b => a && !b
  | .inf a, _ => a
  | _, .inf b => !b
  | x, y =>
    let (n, d) := x.frac
    let (n', d') := y.frac
    decide (n * d' < n' * d)

/-- Equality of two values that are no NaN, −0 equal to +0. -/
def FVal.eq (x y : FVal) : Bool :=
  !x.isNaN && !y.isNaN && !x.lt y && !y.lt x

/-- An integer as a value. -/
def FVal.ofInt (n : Int) : FVal := .ofFrac false n 1

/-- Round to an integer that saturates at [lo, hi]; NaN gives 0 (R46). -/
def FVal.toInt (m : RMode) (lo hi : Int) : FVal → Int
  | .nan => 0
  | .inf true => lo
  | .inf false => hi
  | .zero _ => 0
  | .fin neg n d =>
    let q : Int := roundQuot m neg n d
    max lo (min hi (if neg then -q else q))

end Sys2Proof.Machine
end

