-- ==== Sys2Proof/Machine/Float.lean ====
section
/-!
DEFINITION. Sys2Proof/Machine/Float.lean: the IEEE formats (spec R40 to R43), the NF formats and scale bytes (R47 to R56), and
the arithmetic on encodings that the floating-point instructions and the matrix engine share. Encodings are natural numbers.
-/

namespace Sys2Proof.Machine

/-- A binary interchange format (R40). -/
structure IFmt where
  ebits : Nat
  mbits : Nat
deriving DecidableEq, Repr

def IFmt.fp64 : IFmt := ⟨11, 52⟩
def IFmt.fp32 : IFmt := ⟨8, 23⟩
def IFmt.bf16 : IFmt := ⟨8, 7⟩
def IFmt.fp16 : IFmt := ⟨5, 10⟩

namespace IFmt

def width (f : IFmt) : Nat := f.ebits + f.mbits + 1
def bias (f : IFmt) : Nat := 2 ^ (f.ebits - 1) - 1
/-- Infinity's encoding without a sign. -/
def infBits (f : IFmt) : Nat := (2 ^ f.ebits - 1) * 2 ^ f.mbits
/-- The canonical NaN (R41). -/
def nanBits (f : IFmt) : Nat := f.infBits + 2 ^ (f.mbits - 1)
def signBit (f : IFmt) : Nat := 2 ^ (f.ebits + f.mbits)
/-- The exponent of the subnormal quantum. -/
def qmin (f : IFmt) : Int := 1 - (f.bias : Int) - f.mbits

/-- The value of an encoding (R40). -/
def decode (f : IFmt) (b : Nat) : FVal :=
  let neg := b / f.signBit % 2 == 1
  let mag := b % f.signBit
  let e := mag / 2 ^ f.mbits
  let m := mag % 2 ^ f.mbits
  if f.infBits < mag then .nan
  else if mag = f.infBits then .inf neg
  else if mag = 0 then .zero neg
  else
    let (sig, x) : Nat × Int := if e = 0 then (m, f.qmin) else (m + 2 ^ f.mbits, f.qmin + e - 1)
    let (n, d) := shiftFrac sig 1 x
    .fin neg n d

/-- Overflow's result in a mode: infinity, or the largest finite magnitude (R42). -/
def overflowBits (f : IFmt) (m : RMode) (neg : Bool) : Nat :=
  match m with
  | .rne | .rna => f.infBits
  | .rtz => f.infBits - 1
  | .rup => if neg then f.infBits - 1 else f.infBits
  | .rdn => if neg then f.infBits else f.infBits - 1

/-- Round a value to the format once and encode it (R42). -/
def encode (f : IFmt) (m : RMode) : FVal → Nat
  | .nan => f.nanBits
  | .inf neg => f.infBits + (if neg then f.signBit else 0)
  | .zero neg => if neg then f.signBit else 0
  | .fin neg n d =>
    let (sig, e) := roundMag m (f.mbits + 1) f.qmin neg n d
    let mag := (e - f.qmin).toNat * 2 ^ f.mbits + sig
    (if f.infBits ≤ mag then f.overflowBits m neg else mag) + (if neg then f.signBit else 0)

def isSubnormal (f : IFmt) (b : Nat) : Bool :=
  let mag := b % f.signBit
  decide (mag ≠ 0) && decide (mag < 2 ^ f.mbits)

/-- Flush a subnormal encoding to the zero of its sign where `ftz` holds (R43). -/
def flush (f : IFmt) (ftz : Bool) (b : Nat) : Nat :=
  if ftz && f.isSubnormal b then b - b % f.signBit else b

/-- An arithmetic result: rounded, then flushed (R42, R43). -/
def result (f : IFmt) (m : RMode) (ftz : Bool) (v : FVal) : Nat := f.flush ftz (f.encode m v)

/-- An arithmetic source: flushed, then decoded. -/
def source (f : IFmt) (ftz : Bool) (b : Nat) : FVal := f.decode (f.flush ftz b)

end IFmt

/-- The arithmetic environment of an instruction: its rounding mode and FTZ. -/
structure FEnv where
  rm : RMode
  ftz : Bool
deriving DecidableEq, Repr

/-! The arithmetic of R208, R209 and R212 on encodings. -/

def fAdd (f : IFmt) (e : FEnv) (a b : Nat) : Nat :=
  f.result e.rm e.ftz (.add e.rm (f.source e.ftz a) (f.source e.ftz b))

def fSub (f : IFmt) (e : FEnv) (a b : Nat) : Nat :=
  f.result e.rm e.ftz (.add e.rm (f.source e.ftz a) (f.source e.ftz b).neg)

def fMul (f : IFmt) (e : FEnv) (a b : Nat) : Nat :=
  f.result e.rm e.ftz (.mul (f.source e.ftz a) (f.source e.ftz b))

def fFma (f : IFmt) (e : FEnv) (a b c : Nat) : Nat :=
  f.result e.rm e.ftz (.add e.rm (.mul (f.source e.ftz a) (f.source e.ftz b)) (f.source e.ftz c))

def fDiv (f : IFmt) (e : FEnv) (a b : Nat) : Nat :=
  f.result e.rm e.ftz (.div (f.source e.ftz a) (f.source e.ftz b))

def fSqrt (f : IFmt) (e : FEnv) (a : Nat) : Nat :=
  f.result e.rm e.ftz (.sqrt (f.mbits + 5) (f.source e.ftz a))

def fRcp (f : IFmt) (e : FEnv) (a : Nat) : Nat :=
  f.result e.rm e.ftz (.div (.fin false 1 1) (f.source e.ftz a))

def fRsq (f : IFmt) (e : FEnv) (a : Nat) : Nat :=
  f.result e.rm e.ftz (.rsqrt (f.mbits + 5) (f.source e.ftz a))

/-- −0 orders below +0 here, and nowhere else (R209). -/
def FVal.ltSigned (x y : FVal) : Bool :=
  match x, y with
  | .zero a, .zero b => a && !b
  | x, y => x.lt y

/-- `fmin`, `fmax`: an input, flushed; the other operand of a NaN; the canonical NaN of two (R209). -/
def fMinMax (f : IFmt) (wantMax : Bool) (ftz : Bool) (a b : Nat) : Nat :=
  let a' := f.flush ftz a
  let b' := f.flush ftz b
  let x := f.decode a'
  let y := f.decode b'
  match x.isNaN, y.isNaN with
  | true, true => f.nanBits
  | true, false => b'
  | false, true => a'
  | false, false => if x.ltSigned y then (if wantMax then b' else a') else (if wantMax then a' else b')

/-- `fneg`: the sign bit inverted (R208). -/
def fNeg (f : IFmt) (a : Nat) : Nat := if a / f.signBit % 2 = 1 then a - f.signBit else a + f.signBit

/-- `fabs`: the sign bit cleared (R208). -/
def fAbs (f : IFmt) (a : Nat) : Nat := a % f.signBit

/-- The conditions of R210: eq, ne, lt, le, gt, ge, un. -/
def fCmp (f : IFmt) (cond : Nat) (ftz : Bool) (a b : Nat) : Bool :=
  let x := f.source ftz a
  let y := f.source ftz b
  let un := x.isNaN || y.isNaN
  match cond with
  | 0 => !un && x.eq y
  | 1 => un || !x.eq y
  | 2 => !un && x.lt y
  | 3 => !un && (x.lt y || x.eq y)
  | 4 => !un && y.lt x
  | 5 => !un && (y.lt x || x.eq y)
  | _ => un

/-- The class mask of R211. -/
def fClass (f : IFmt) (a : Nat) : Nat :=
  let neg := a / f.signBit % 2 == 1
  let mag := a % f.signBit
  if f.infBits < mag then (if mag / 2 ^ (f.mbits - 1) % 2 = 1 then 2 ^ 9 else 2 ^ 8)
  else if mag = f.infBits then (if neg then 2 ^ 0 else 2 ^ 7)
  else if mag = 0 then (if neg then 2 ^ 3 else 2 ^ 4)
  else if mag < 2 ^ f.mbits then (if neg then 2 ^ 2 else 2 ^ 5)
  else (if neg then 2 ^ 1 else 2 ^ 6)

/-! NF formats (R47 to R51). -/

/-- The specials policy SPEC (R47, R50). -/
inductive NfPolicy where
  | ieee | oneNaN | saturating | invalid
deriving DecidableEq, Repr

/-- A format register's fields (R47). -/
structure NfFmt where
  bias : Int
  policy : NfPolicy
  sgn : Bool
  ebits : Nat
  mbits : Nat
deriving DecidableEq, Repr

/-- The fields of a format register's value (R47). -/
def NfFmt.ofWord (w : Word) : NfFmt where
  bias := (w.extractLsb' 16 8).toInt
  policy := match (w.extractLsb' 14 2).toNat with
    | 0 => .ieee
    | 1 => .oneNaN
    | 2 => .saturating
    | _ => .invalid
  sgn := w.getLsbD 13
  ebits := (w.extractLsb' 4 4).toNat
  mbits := (w.extractLsb' 0 4).toNat

namespace NfFmt

/-- Valid for an element width (R48). -/
def validFor (f : NfFmt) (w : Nat) : Bool :=
  f.policy != .invalid && decide (1 ≤ f.ebits) && decide (f.sgn.toNat + f.ebits + f.mbits = w) &&
    (f.policy != .ieee || (decide (2 ≤ f.ebits) && decide (1 ≤ f.mbits)))

def magBits (f : NfFmt) : Nat := f.ebits + f.mbits
def qmin (f : NfFmt) : Int := 1 - f.bias - f.mbits

/-- The largest magnitude encoding that is finite under the policy (R50). -/
def maxBits (f : NfFmt) : Nat :=
  match f.policy with
  | .ieee => (2 ^ f.ebits - 1) * 2 ^ f.mbits - 1
  | .oneNaN => 2 ^ f.magBits - 2
  | _ => 2 ^ f.magBits - 1

/-- The value of an element's magnitude bits as a finite number (R49). -/
def finValue (f : NfFmt) (neg : Bool) (mag : Nat) : FVal :=
  let e := mag / 2 ^ f.mbits
  let m := mag % 2 ^ f.mbits
  if mag = 0 then .zero neg
  else
    let (sig, x) : Nat × Int := if e = 0 then (m, f.qmin) else (m + 2 ^ f.mbits, f.qmin + e - 1)
    let (n, d) := shiftFrac sig 1 x
    .fin neg n d

/-- The value of an element (R49, R50). -/
def decode (f : NfFmt) (b : Nat) : FVal :=
  let mag := b % 2 ^ f.magBits
  let neg := f.sgn && b / 2 ^ f.magBits % 2 == 1
  match f.policy with
  | .ieee =>
    if mag / 2 ^ f.mbits = 2 ^ f.ebits - 1 then (if mag % 2 ^ f.mbits = 0 then .inf neg else .nan) else f.finValue neg mag
  | .oneNaN => if mag = 2 ^ f.magBits - 1 then .nan else f.finValue neg mag
  | _ => f.finValue neg mag

/-- The encoding of NaN (R50). -/
def nanBits (f : NfFmt) : Nat :=
  match f.policy with
  | .ieee => (2 ^ f.ebits - 1) * 2 ^ f.mbits + 2 ^ (f.mbits - 1)
  | .oneNaN => 2 ^ f.magBits - 1
  | _ => 0

/-- The encoding of a sign and a magnitude; an unsigned format has no negative value (R51 step 3). -/
def withSign (f : NfFmt) (neg : Bool) (mag : Nat) : Nat :=
  if f.sgn then mag + (if neg then 2 ^ f.magBits else 0) else if neg then 0 else mag

/-- Encode a value (R50, R51); `toZero` is RTZ, otherwise RNE (R45). -/
def encode (f : NfFmt) (toZero : Bool) : FVal → Nat
  | .nan => f.nanBits
  | .inf neg => f.withSign neg (if f.policy == .ieee then (2 ^ f.ebits - 1) * 2 ^ f.mbits else f.maxBits)
  | .zero neg => f.withSign neg 0
  | .fin neg n d =>
    let (sig, e) := roundMag (if toZero then .rtz else .rne) (f.mbits + 1) f.qmin neg n d
    let mag := (e - f.qmin).toNat * 2 ^ f.mbits + sig
    f.withSign neg
      (if f.maxBits < mag then (if f.policy == .ieee && !toZero then (2 ^ f.ebits - 1) * 2 ^ f.mbits else f.maxBits) else mag)

end NfFmt

/-- The value of a scale byte (R53). -/
def scaleValue (b : Nat) : FVal :=
  let g := b / 4 % 64
  let h := b % 4
  if b = 0xFF then .nan
  else if b = 0 then .zero false
  else if g = 0 then .fin false h (2 ^ 32)
  else let (n, d) := shiftFrac (4 + h) 4 ((g : Int) - 31); .fin false n d

/-- The least scale code from 0x01 to 0xFE whose value is at least x (R220), from `b` upward. -/
def leastScale (x : FVal) : Nat → Nat → Nat
  | 0, _ => 0xFE
  | fuel + 1, b => if (scaleValue b).lt x then leastScale x fuel (b + 1) else b

end Sys2Proof.Machine
end

