-- ==== Sys2Proof/Agents.lean ====
section
/-!
DEFINITION. Sys2Proof/Agents.lean: the plain data that instructions and events name: a prefix word's fields, the agents
that issue instructions, and the operands the outside world supplies with an event.
-/

namespace Sys2Proof

/-- The payload of a prefix word, field by field (spec R85). Bit 0 is not held: it must be 0 (`Decode`). -/
structure Prefix where
  /-- K: the mask register k0 to k7. -/
  k : BitVec 3
  /-- Z: masked-off lanes' destination is written with zero. -/
  z : Bool
  /-- RM: the rounding mode of R44. -/
  rm : BitVec 3
  /-- C: the fourth operand's 7-bit name. -/
  c : BitVec 7
  /-- HOLD. -/
  hold : BitVec 2
  /-- COV: the covariance mode of R59. -/
  cov : BitVec 2
  /-- FMT: the format register. -/
  fmt : BitVec 3
  /-- SEL: the scale byte. -/
  sel : BitVec 2
deriving DecidableEq, Repr, Inhabited

/-- What stands beside the operands of a coded instruction: the switch marker S and the prefix (spec R74, R85, R86). -/
structure Mods where
  sw : Bool
  pfx : Option Prefix
deriving DecidableEq, Repr, Inhabited

/-- Who issues instructions: a resident beam of a workgroup (the workgroup's key in `State.wgs` and the beam's number in it),
or a lantern core running a section (spec R14, R27, R28). -/
inductive Agent where
  | beam (wg number : Nat)
  | lantern (core : Nat)
deriving DecidableEq, Repr, Inhabited

/-- What the reset sequence and the self-test find, which the outside world decides: whether the boot ROM verifies, and which units fail
their test (spec R488, R493). -/
structure ResetFindings where
  romOk : Bool
  failed : List Nat
deriving DecidableEq, Repr, Inhabited

/-- A section request of another module that reaches this one over the fabric (spec R486, R487): its module, its sender's context, launch
identity, workgroup identity, thread and core there, the entry, the lock's virtual address and its system address, the arguments, the slot
its result goes to (8 for `ship.w`), and whether it was sent again. -/
structure ForeignReq where
  fromModule : Nat
  ctx : Nat
  lid : Nat
  wg : Nat
  thread : Nat
  core : Nat
  entry : Nat
  lock : Nat
  addr : Nat
  args : List CW
  slot : Nat
  resent : Bool
deriving DecidableEq, Repr, Inhabited

/-- A memory request of another module that reaches this one over the fabric (spec R484): the module that sent it, the
physical address within this module, its length in bytes, and for a write its words. -/
structure FabricReq where
  fromModule : Nat
  addr : Nat
  bytes : Nat
  write : Option (List CW)
deriving DecidableEq, Repr, Inhabited

end Sys2Proof
end

