-- ==== Sys2Proof/Syntax.lean ====
section
/-!
DEFINITION. Sys2Proof/Syntax.lean: the instruction set, one constructor for each row of spec/opcode_table.json.

The 297 coded rows carry `m`, the switch marker and the optional prefix word (spec R74, R85), and the operand fields of
their encoding, each at its encoded width (spec R76, R106 to R115). The 75 event rows have no encoding (spec R475 to
R499 and the rules named in 95_what_each_step_holds.md); their operands are what the outside world, or the agent that
chooses among simultaneous events, supplies.
-/

namespace Sys2Proof

/-- One constructor per row of the opcode table; the comment gives the rule of spec/ that fixes its effect. -/
inductive Instr where
  /-- POWER_ON, R488. -/
  | powerOn (f : ResetFindings)
  /-- PCIE_HOT_RESET, R488. -/
  | pcieHotReset (f : ResetFindings)
  /-- LINK_DOWN, R488. -/
  | linkDown (f : ResetFindings)
  /-- FUNCTION_LEVEL_RESET, R475. -/
  | functionLevelReset (f : ResetFindings)
  /-- SERVICE_FUNCTION_LEVEL_RESET, R475. -/
  | serviceFunctionLevelReset
  /-- RESETCTL_RST, R477. -/
  | resetctlRst (f : ResetFindings)
  /-- REGISTER_WRITE, R475. -/
  | registerWrite (svc : Bool) (off : Nat) (size : Nat) (val : Nat)
  /-- LQCFG_WRITE, R364. -/
  | lqcfgWrite (q : Nat) (val : Nat)
  /-- LQBASE_WRITE, R364. -/
  | lqbaseWrite (q : Nat) (high : Bool) (val : Nat)
  /-- LQTAIL_WRITE, R365. -/
  | lqtailWrite (q : Nat) (val : Nat)
  /-- MBTAIL_WRITE, R386. -/
  | mbtailWrite (svc : Bool) (val : Nat)
  /-- MBCFG_WRITE, R478. -/
  | mbcfgWrite (svc : Bool) (val : Nat)
  /-- MSIX_UNMASK, R482. -/
  | msixUnmask (svc : Bool) (vec : Nat)
  /-- HOST_BAR2_WRITE, R481. -/
  | hostBar2Write (off : Nat) (size : Nat) (val : Nat)
  /-- HOST_BAR2_READ, R481. -/
  | hostBar2Read (off : Nat) (size : Nat)
  /-- STATUS, R479. -/
  | status (svc : Bool)
  /-- ATTEST, R492. -/
  | attest (svc : Bool)
  /-- FWLOAD, R490. -/
  | fwload (svc : Bool)
  /-- MEASEXT, R491. -/
  | measext (svc : Bool)
  /-- DOMAIN, R483. -/
  | domain (svc : Bool)
  /-- CTXTABLE, R479. -/
  | ctxtable (svc : Bool)
  /-- CTXRELOAD, R440. -/
  | ctxreload (svc : Bool)
  /-- SVCDONE, R385. -/
  | svcdone (svc : Bool)
  /-- TLBINV, R260. -/
  | tlbinv (svc : Bool)
  /-- LODESTAR, R436. -/
  | lodestar (svc : Bool)
  /-- LODESTAR_UPDATE, R436. -/
  | lodestarUpdate
  /-- PMCSEL, R467. -/
  | pmcsel (svc : Bool)
  /-- ERRREPORT, R470. -/
  | errreport (svc : Bool)
  /-- ERRCLEAR, R470. -/
  | errclear (svc : Bool)
  /-- ERRTHRESH, R470. -/
  | errthresh (svc : Bool)
  /-- WICK, R471. -/
  | wick (svc : Bool)
  /-- WATCHDOG, R472. -/
  | watchdog (svc : Bool)
  /-- QOS, R388. -/
  | qos (svc : Bool)
  /-- QUIESCE, R494. -/
  | quiesce (svc : Bool) (failed : List Nat)
  /-- POWERCAP, R498. -/
  | powercap (svc : Bool)
  /-- PATROL, R495. -/
  | patrol (svc : Bool)
  /-- PATROL_READ, R495. -/
  | patrolRead (cell : Nat)
  /-- THERMAL_STOP, R498. -/
  | thermalStop (island : Nat)
  /-- OPERATING_POINT_CHANGE, R498. -/
  | operatingPointChange (island : Nat) (point : Nat)
  /-- AGEING_MONITOR_REPORT, R493. -/
  | ageingMonitorReport (unit : Nat)
  /-- SYSTEM_ACCESS_TIMEOUT, R485. -/
  | systemAccessTimeout (a : Agent) (lanes : Nat)
  /-- LAUNCH_RECORD_TAKE, R367. -/
  | launchRecordTake
  /-- WORKGROUP_DISPATCH, R374. -/
  | workgroupDispatch
  /-- WORKGROUP_START, R243. -/
  | workgroupStart (wg : Nat)
  /-- PREEMPTION_DEADLINE, R172. -/
  | preemptionDeadline (wg : Nat)
  /-- SAVE_RECORD_WRITE, R171. -/
  | saveRecordWrite (wg : Nat)
  /-- LAUNCH_COMPLETE, R371. -/
  | launchComplete (uid : Nat)
  /-- RESULT_WRITEBACK, R80. -/
  | resultWriteback (a : Agent) (idx : Nat)
  /-- SPLIT_GATHER_ARRIVAL, R315. -/
  | splitGatherArrival (a : Agent) (entry : Nat) (lane : Nat)
  /-- SECTION_REQUEST_ARRIVAL, R380. -/
  | sectionRequestArrival (msg : Nat)
  /-- SECTION_RETRY_ARRIVAL, R380. -/
  | sectionRetryArrival (msg : Nat)
  /-- CANCEL_ARRIVAL, R381. -/
  | cancelArrival (msg : Nat)
  /-- SECTION_START, R399. -/
  | sectionStart (lantern : Nat)
  /-- SECTION_STEP_LIMIT, R404. -/
  | sectionStepLimit (lantern : Nat)
  /-- SECTION_RESULT_ARRIVAL, R137. -/
  | sectionResultArrival (msg : Nat)
  /-- NACK_ARRIVAL, R381. -/
  | nackArrival (msg : Nat)
  /-- NACK_RETRY_TIMER, R381. -/
  | nackRetryTimer (msg : Nat)
  /-- WAKE_ARRIVAL, R380. -/
  | wakeArrival (msg : Nat)
  /-- MATRIX_STEP, R344. -/
  | matrixStep (core : Nat)
  /-- COPY_COMMAND_RUN, R413. -/
  | copyCommandRun (core : Nat) (quarter : Nat) (words : Nat)
  /-- ENGINE_FAULT_DELIVERY, R163. -/
  | engineFaultDelivery (a : Agent)
  /-- WICK_REFILL_WINDOW, R471. -/
  | wickRefillWindow (island : Nat)
  /-- QOS_BUDGET_WINDOW, R388. -/
  | qosBudgetWindow (port : Nat)
  /-- STALL_HINT_RAISE, R390. -/
  | stallHintRaise (input : Nat)
  /-- STALL_HINT_CLEAR, R390. -/
  | stallHintClear (input : Nat)
  /-- PAUSE_EXPIRY, R378. -/
  | pauseExpiry (a : Agent)
  /-- REG_WAIT_EXPIRY, R472. -/
  | regWaitExpiry (a : Agent)
  /-- BARRIER_STALL_EXPIRY, R472. -/
  | barrierStallExpiry (a : Agent) (entry : Nat)
  /-- PAUSE_LOOP_EXPIRY, R472. -/
  | pauseLoopExpiry (a : Agent)
  /-- FAULT_RECORD_FLUSH, R383. -/
  | faultRecordFlush (ctx : Nat)
  /-- ILLEGAL_INSTRUCTION, R101. -/
  | illegalInstruction
  /-- ADD_32, R181. -/
  | add32 (m : Mods) (d : BitVec 7) (a : BitVec 7) (b : BitVec 7)
  /-- SUB_32, R181. -/
  | sub32 (m : Mods) (d : BitVec 7) (a : BitVec 7) (b : BitVec 7)
  /-- MUL_32, R181. -/
  | mul32 (m : Mods) (d : BitVec 7) (a : BitVec 7) (b : BitVec 7)
  /-- MAD_32, R181. -/
  | mad32 (m : Mods) (d : BitVec 7) (a : BitVec 7) (b : BitVec 7)
  /-- MULHI_S_32, R181. -/
  | mulhiS32 (m : Mods) (d : BitVec 7) (a : BitVec 7) (b : BitVec 7)
  /-- MULHI_Z_32, R181. -/
  | mulhiZ32 (m : Mods) (d : BitVec 7) (a : BitVec 7) (b : BitVec 7)
  /-- ABS_32, R181. -/
  | abs32 (m : Mods) (d : BitVec 7) (a : BitVec 7)
  /-- NEG_32, R181. -/
  | neg32 (m : Mods) (d : BitVec 7) (a : BitVec 7)
  /-- ADD_64, R181. -/
  | add64 (m : Mods) (d : BitVec 7) (a : BitVec 7) (b : BitVec 7)
  /-- SUB_64, R181. -/
  | sub64 (m : Mods) (d : BitVec 7) (a : BitVec 7) (b : BitVec 7)
  /-- MUL_64, R181. -/
  | mul64 (m : Mods) (d : BitVec 7) (a : BitVec 7) (b : BitVec 7)
  /-- MAD_64, R181. -/
  | mad64 (m : Mods) (d : BitVec 7) (a : BitVec 7) (b : BitVec 7)
  /-- MULHI_S_64, R181. -/
  | mulhiS64 (m : Mods) (d : BitVec 7) (a : BitVec 7) (b : BitVec 7)
  /-- MULHI_Z_64, R181. -/
  | mulhiZ64 (m : Mods) (d : BitVec 7) (a : BitVec 7) (b : BitVec 7)
  /-- ABS_64, R181. -/
  | abs64 (m : Mods) (d : BitVec 7) (a : BitVec 7)
  /-- NEG_64, R181. -/
  | neg64 (m : Mods) (d : BitVec 7) (a : BitVec 7)
  /-- ADD_SC, R181. -/
  | addSc (m : Mods) (d : BitVec 7) (a : BitVec 7) (b : BitVec 7)
  /-- SUB_SC, R181. -/
  | subSc (m : Mods) (d : BitVec 7) (a : BitVec 7) (b : BitVec 7)
  /-- MUL_SC, R181. -/
  | mulSc (m : Mods) (d : BitVec 7) (a : BitVec 7) (b : BitVec 7)
  /-- MAD_SC, R181. -/
  | madSc (m : Mods) (d : BitVec 7) (a : BitVec 7) (b : BitVec 7)
  /-- MULHI_S_SC, R181. -/
  | mulhiSSc (m : Mods) (d : BitVec 7) (a : BitVec 7) (b : BitVec 7)
  /-- MULHI_Z_SC, R181. -/
  | mulhiZSc (m : Mods) (d : BitVec 7) (a : BitVec 7) (b : BitVec 7)
  /-- ABS_SC, R181. -/
  | absSc (m : Mods) (d : BitVec 7) (a : BitVec 7)
  /-- NEG_SC, R181. -/
  | negSc (m : Mods) (d : BitVec 7) (a : BitVec 7)
  /-- MIN_S_32, R181. -/
  | minS32 (m : Mods) (d : BitVec 7) (a : BitVec 7) (b : BitVec 7)
  /-- MIN_Z_32, R181. -/
  | minZ32 (m : Mods) (d : BitVec 7) (a : BitVec 7) (b : BitVec 7)
  /-- MAX_S_32, R181. -/
  | maxS32 (m : Mods) (d : BitVec 7) (a : BitVec 7) (b : BitVec 7)
  /-- MAX_Z_32, R181. -/
  | maxZ32 (m : Mods) (d : BitVec 7) (a : BitVec 7) (b : BitVec 7)
  /-- DIV_S_32, R181. -/
  | divS32 (m : Mods) (d : BitVec 7) (a : BitVec 7) (b : BitVec 7)
  /-- DIV_Z_32, R181. -/
  | divZ32 (m : Mods) (d : BitVec 7) (a : BitVec 7) (b : BitVec 7)
  /-- REM_S_32, R181. -/
  | remS32 (m : Mods) (d : BitVec 7) (a : BitVec 7) (b : BitVec 7)
  /-- REM_Z_32, R181. -/
  | remZ32 (m : Mods) (d : BitVec 7) (a : BitVec 7) (b : BitVec 7)
  /-- MIN_S_64, R181. -/
  | minS64 (m : Mods) (d : BitVec 7) (a : BitVec 7) (b : BitVec 7)
  /-- MIN_Z_64, R181. -/
  | minZ64 (m : Mods) (d : BitVec 7) (a : BitVec 7) (b : BitVec 7)
  /-- MAX_S_64, R181. -/
  | maxS64 (m : Mods) (d : BitVec 7) (a : BitVec 7) (b : BitVec 7)
  /-- MAX_Z_64, R181. -/
  | maxZ64 (m : Mods) (d : BitVec 7) (a : BitVec 7) (b : BitVec 7)
  /-- DIV_S_64, R181. -/
  | divS64 (m : Mods) (d : BitVec 7) (a : BitVec 7) (b : BitVec 7)
  /-- DIV_Z_64, R181. -/
  | divZ64 (m : Mods) (d : BitVec 7) (a : BitVec 7) (b : BitVec 7)
  /-- REM_S_64, R181. -/
  | remS64 (m : Mods) (d : BitVec 7) (a : BitVec 7) (b : BitVec 7)
  /-- REM_Z_64, R181. -/
  | remZ64 (m : Mods) (d : BitVec 7) (a : BitVec 7) (b : BitVec 7)
  /-- MIN_S_SC, R181. -/
  | minSSc (m : Mods) (d : BitVec 7) (a : BitVec 7) (b : BitVec 7)
  /-- MIN_Z_SC, R181. -/
  | minZSc (m : Mods) (d : BitVec 7) (a : BitVec 7) (b : BitVec 7)
  /-- MAX_S_SC, R181. -/
  | maxSSc (m : Mods) (d : BitVec 7) (a : BitVec 7) (b : BitVec 7)
  /-- MAX_Z_SC, R181. -/
  | maxZSc (m : Mods) (d : BitVec 7) (a : BitVec 7) (b : BitVec 7)
  /-- DIV_S_SC, R181. -/
  | divSSc (m : Mods) (d : BitVec 7) (a : BitVec 7) (b : BitVec 7)
  /-- DIV_Z_SC, R181. -/
  | divZSc (m : Mods) (d : BitVec 7) (a : BitVec 7) (b : BitVec 7)
  /-- REM_S_SC, R181. -/
  | remSSc (m : Mods) (d : BitVec 7) (a : BitVec 7) (b : BitVec 7)
  /-- REM_Z_SC, R181. -/
  | remZSc (m : Mods) (d : BitVec 7) (a : BitVec 7) (b : BitVec 7)
  /-- AND_32, R181. -/
  | and32 (m : Mods) (d : BitVec 7) (a : BitVec 7) (b : BitVec 7)
  /-- OR_32, R181. -/
  | or32 (m : Mods) (d : BitVec 7) (a : BitVec 7) (b : BitVec 7)
  /-- XOR_32, R181. -/
  | xor32 (m : Mods) (d : BitVec 7) (a : BitVec 7) (b : BitVec 7)
  /-- NOT_32, R181. -/
  | not32 (m : Mods) (d : BitVec 7) (a : BitVec 7)
  /-- POPC_32, R181. -/
  | popc32 (m : Mods) (d : BitVec 7) (a : BitVec 7)
  /-- CLZ_32, R181. -/
  | clz32 (m : Mods) (d : BitVec 7) (a : BitVec 7)
  /-- CTZ_32, R181. -/
  | ctz32 (m : Mods) (d : BitVec 7) (a : BitVec 7)
  /-- BREV_32, R181. -/
  | brev32 (m : Mods) (d : BitVec 7) (a : BitVec 7)
  /-- AND_64, R181. -/
  | and64 (m : Mods) (d : BitVec 7) (a : BitVec 7) (b : BitVec 7)
  /-- OR_64, R181. -/
  | or64 (m : Mods) (d : BitVec 7) (a : BitVec 7) (b : BitVec 7)
  /-- XOR_64, R181. -/
  | xor64 (m : Mods) (d : BitVec 7) (a : BitVec 7) (b : BitVec 7)
  /-- NOT_64, R181. -/
  | not64 (m : Mods) (d : BitVec 7) (a : BitVec 7)
  /-- POPC_64, R181. -/
  | popc64 (m : Mods) (d : BitVec 7) (a : BitVec 7)
  /-- CLZ_64, R181. -/
  | clz64 (m : Mods) (d : BitVec 7) (a : BitVec 7)
  /-- CTZ_64, R181. -/
  | ctz64 (m : Mods) (d : BitVec 7) (a : BitVec 7)
  /-- BREV_64, R181. -/
  | brev64 (m : Mods) (d : BitVec 7) (a : BitVec 7)
  /-- AND_SC, R181. -/
  | andSc (m : Mods) (d : BitVec 7) (a : BitVec 7) (b : BitVec 7)
  /-- OR_SC, R181. -/
  | orSc (m : Mods) (d : BitVec 7) (a : BitVec 7) (b : BitVec 7)
  /-- XOR_SC, R181. -/
  | xorSc (m : Mods) (d : BitVec 7) (a : BitVec 7) (b : BitVec 7)
  /-- NOT_SC, R181. -/
  | notSc (m : Mods) (d : BitVec 7) (a : BitVec 7)
  /-- POPC_SC, R181. -/
  | popcSc (m : Mods) (d : BitVec 7) (a : BitVec 7)
  /-- CLZ_SC, R181. -/
  | clzSc (m : Mods) (d : BitVec 7) (a : BitVec 7)
  /-- CTZ_SC, R181. -/
  | ctzSc (m : Mods) (d : BitVec 7) (a : BitVec 7)
  /-- BREV_SC, R181. -/
  | brevSc (m : Mods) (d : BitVec 7) (a : BitVec 7)
  /-- SHL_32, R181. -/
  | shl32 (m : Mods) (d : BitVec 7) (a : BitVec 7) (b : BitVec 7)
  /-- SHR_32, R181. -/
  | shr32 (m : Mods) (d : BitVec 7) (a : BitVec 7) (b : BitVec 7)
  /-- SAR_32, R181. -/
  | sar32 (m : Mods) (d : BitVec 7) (a : BitVec 7) (b : BitVec 7)
  /-- ROTL_32, R181. -/
  | rotl32 (m : Mods) (d : BitVec 7) (a : BitVec 7) (b : BitVec 7)
  /-- BFX_S_32, R182. -/
  | bfxS32 (m : Mods) (d : BitVec 7) (a : BitVec 7) (b : BitVec 7)
  /-- BFX_Z_32, R182. -/
  | bfxZ32 (m : Mods) (d : BitVec 7) (a : BitVec 7) (b : BitVec 7)
  /-- BFI_32, R182. -/
  | bfi32 (m : Mods) (d : BitVec 7) (a : BitVec 7) (b : BitVec 7)
  /-- SHL_64, R181. -/
  | shl64 (m : Mods) (d : BitVec 7) (a : BitVec 7) (b : BitVec 7)
  /-- SHR_64, R181. -/
  | shr64 (m : Mods) (d : BitVec 7) (a : BitVec 7) (b : BitVec 7)
  /-- SAR_64, R181. -/
  | sar64 (m : Mods) (d : BitVec 7) (a : BitVec 7) (b : BitVec 7)
  /-- ROTL_64, R181. -/
  | rotl64 (m : Mods) (d : BitVec 7) (a : BitVec 7) (b : BitVec 7)
  /-- BFX_S_64, R182. -/
  | bfxS64 (m : Mods) (d : BitVec 7) (a : BitVec 7) (b : BitVec 7)
  /-- BFX_Z_64, R182. -/
  | bfxZ64 (m : Mods) (d : BitVec 7) (a : BitVec 7) (b : BitVec 7)
  /-- BFI_64, R182. -/
  | bfi64 (m : Mods) (d : BitVec 7) (a : BitVec 7) (b : BitVec 7)
  /-- SHL_SC, R181. -/
  | shlSc (m : Mods) (d : BitVec 7) (a : BitVec 7) (b : BitVec 7)
  /-- SHR_SC, R181. -/
  | shrSc (m : Mods) (d : BitVec 7) (a : BitVec 7) (b : BitVec 7)
  /-- SAR_SC, R181. -/
  | sarSc (m : Mods) (d : BitVec 7) (a : BitVec 7) (b : BitVec 7)
  /-- ROTL_SC, R181. -/
  | rotlSc (m : Mods) (d : BitVec 7) (a : BitVec 7) (b : BitVec 7)
  /-- BFX_S_SC, R182. -/
  | bfxSSc (m : Mods) (d : BitVec 7) (a : BitVec 7) (b : BitVec 7)
  /-- BFX_Z_SC, R182. -/
  | bfxZSc (m : Mods) (d : BitVec 7) (a : BitVec 7) (b : BitVec 7)
  /-- BFI_SC, R182. -/
  | bfiSc (m : Mods) (d : BitVec 7) (a : BitVec 7) (b : BitVec 7)
  /-- CMP_EQ_32, R183. -/
  | cmpEq32 (m : Mods) (d : BitVec 3) (a : BitVec 7) (b : BitVec 7)
  /-- CMP_NE_32, R183. -/
  | cmpNe32 (m : Mods) (d : BitVec 3) (a : BitVec 7) (b : BitVec 7)
  /-- CMP_LT_S_32, R183. -/
  | cmpLtS32 (m : Mods) (d : BitVec 3) (a : BitVec 7) (b : BitVec 7)
  /-- CMP_GE_S_32, R183. -/
  | cmpGeS32 (m : Mods) (d : BitVec 3) (a : BitVec 7) (b : BitVec 7)
  /-- CMP_LT_Z_32, R183. -/
  | cmpLtZ32 (m : Mods) (d : BitVec 3) (a : BitVec 7) (b : BitVec 7)
  /-- CMP_GE_Z_32, R183. -/
  | cmpGeZ32 (m : Mods) (d : BitVec 3) (a : BitVec 7) (b : BitVec 7)
  /-- CMP_TST_32, R183. -/
  | cmpTst32 (m : Mods) (d : BitVec 3) (a : BitVec 7) (b : BitVec 7)
  /-- CMP_EQ_64, R183. -/
  | cmpEq64 (m : Mods) (d : BitVec 3) (a : BitVec 7) (b : BitVec 7)
  /-- CMP_NE_64, R183. -/
  | cmpNe64 (m : Mods) (d : BitVec 3) (a : BitVec 7) (b : BitVec 7)
  /-- CMP_LT_S_64, R183. -/
  | cmpLtS64 (m : Mods) (d : BitVec 3) (a : BitVec 7) (b : BitVec 7)
  /-- CMP_GE_S_64, R183. -/
  | cmpGeS64 (m : Mods) (d : BitVec 3) (a : BitVec 7) (b : BitVec 7)
  /-- CMP_LT_Z_64, R183. -/
  | cmpLtZ64 (m : Mods) (d : BitVec 3) (a : BitVec 7) (b : BitVec 7)
  /-- CMP_GE_Z_64, R183. -/
  | cmpGeZ64 (m : Mods) (d : BitVec 3) (a : BitVec 7) (b : BitVec 7)
  /-- CMP_TST_64, R183. -/
  | cmpTst64 (m : Mods) (d : BitVec 3) (a : BitVec 7) (b : BitVec 7)
  /-- CMP_EQ_SC, R183. -/
  | cmpEqSc (m : Mods) (d : BitVec 3) (a : BitVec 7) (b : BitVec 7)
  /-- CMP_NE_SC, R183. -/
  | cmpNeSc (m : Mods) (d : BitVec 3) (a : BitVec 7) (b : BitVec 7)
  /-- CMP_LT_S_SC, R183. -/
  | cmpLtSSc (m : Mods) (d : BitVec 3) (a : BitVec 7) (b : BitVec 7)
  /-- CMP_GE_S_SC, R183. -/
  | cmpGeSSc (m : Mods) (d : BitVec 3) (a : BitVec 7) (b : BitVec 7)
  /-- CMP_LT_Z_SC, R183. -/
  | cmpLtZSc (m : Mods) (d : BitVec 3) (a : BitVec 7) (b : BitVec 7)
  /-- CMP_GE_Z_SC, R183. -/
  | cmpGeZSc (m : Mods) (d : BitVec 3) (a : BitVec 7) (b : BitVec 7)
  /-- CMP_TST_SC, R183. -/
  | cmpTstSc (m : Mods) (d : BitVec 3) (a : BitVec 7) (b : BitVec 7)
  /-- MOV_VV, R184. -/
  | movVv (m : Mods) (d : BitVec 7) (a : BitVec 7)
  /-- MOV_VS, R184. -/
  | movVs (m : Mods) (d : BitVec 7) (a : BitVec 7)
  /-- MOV_SV, R184. -/
  | movSv (m : Mods) (d : BitVec 7) (a : BitVec 7)
  /-- MOV_SS, R184. -/
  | movSs (m : Mods) (d : BitVec 7) (a : BitVec 7)
  /-- AADD, R188. -/
  | aadd (m : Mods) (d : BitVec 6) (a : BitVec 6) (b : BitVec 6)
  /-- SLID, R189. -/
  | slid (m : Mods) (d : BitVec 7) (a : BitVec 7) (b : BitVec 7)
  /-- SEL, R186. -/
  | sel (m : Mods) (d : BitVec 7) (a : BitVec 3) (b : BitVec 7)
  /-- VSHFL, R192. -/
  | vshfl (m : Mods) (d : BitVec 7) (a : BitVec 7) (b : BitVec 7)
  /-- VBCAST, R192. -/
  | vbcast (m : Mods) (d : BitVec 7) (a : BitVec 7) (b : BitVec 7)
  /-- VROT, R192. -/
  | vrot (m : Mods) (d : BitVec 7) (a : BitVec 7) (b : BitVec 7)
  /-- VCONF, R194. -/
  | vconf (m : Mods) (d : BitVec 7) (a : BitVec 7)
  /-- VMATCH, R195. -/
  | vmatch (m : Mods) (d : BitVec 7) (a : BitVec 7)
  /-- VCOMPACT, R196. -/
  | vcompact (m : Mods) (d : BitVec 7) (a : BitVec 7)
  /-- VBALLOT, R193. -/
  | vballot (m : Mods) (d : BitVec 7) (a : BitVec 7)
  /-- VSCAN, R197. -/
  | vscan (m : Mods) (f : BitVec 3) (d : BitVec 7) (a : BitVec 7) (b : BitVec 7)
  /-- VRED, R197. -/
  | vred (m : Mods) (f : BitVec 3) (d : BitVec 7) (a : BitVec 7)
  /-- VCOMB, R197. -/
  | vcomb (m : Mods) (f : BitVec 3) (d : BitVec 7) (a : BitVec 7) (b : BitVec 7)
  /-- MOVI_V, R185. -/
  | moviV (m : Mods) (d : BitVec 7) (i : BitVec 17)
  /-- MOVI_S, R185. -/
  | moviS (m : Mods) (d : BitVec 7) (i : BitVec 17)
  /-- MOVI_HI, R185. -/
  | moviHi (m : Mods) (d : BitVec 7) (i : BitVec 17)
  /-- CVT, R187. -/
  | cvt (m : Mods) (d : BitVec 7) (a : BitVec 7) (t : BitVec 5) (u : BitVec 5)
  /-- LEA, R188. -/
  | lea (m : Mods) (d : BitVec 6) (a : BitVec 6) (i : BitVec 10)
  /-- RGET_X, R199. -/
  | rgetX (m : Mods) (d : BitVec 7) (a : BitVec 2) (i : BitVec 10)
  /-- RPUT_X, R199. -/
  | rputX (m : Mods) (d : BitVec 7) (a : BitVec 2) (i : BitVec 10)
  /-- XADD, R200. -/
  | xadd (m : Mods) (d : BitVec 2) (a : BitVec 2) (i : BitVec 10)
  /-- XSET, R200. -/
  | xset (m : Mods) (d : BitVec 2) (i : BitVec 17)
  /-- RDID, R190. -/
  | rdid (m : Mods) (d : BitVec 7) (n : BitVec 3)
  /-- WBASE, R198. -/
  | wbase (m : Mods) (a : BitVec 7)
  /-- EXT_ACQ, R201. -/
  | extAcq (m : Mods) (n : BitVec 3)
  /-- EXT_REL, R202. -/
  | extRel (m : Mods)
  /-- FADD_F64, R208. -/
  | faddF64 (m : Mods) (d : BitVec 7) (a : BitVec 7) (b : BitVec 7)
  /-- FSUB_F64, R208. -/
  | fsubF64 (m : Mods) (d : BitVec 7) (a : BitVec 7) (b : BitVec 7)
  /-- FMUL_F64, R208. -/
  | fmulF64 (m : Mods) (d : BitVec 7) (a : BitVec 7) (b : BitVec 7)
  /-- FMA_F64, R208. -/
  | fmaF64 (m : Mods) (d : BitVec 7) (a : BitVec 7) (b : BitVec 7)
  /-- FMIN_F64, R209. -/
  | fminF64 (m : Mods) (d : BitVec 7) (a : BitVec 7) (b : BitVec 7)
  /-- FMAX_F64, R209. -/
  | fmaxF64 (m : Mods) (d : BitVec 7) (a : BitVec 7) (b : BitVec 7)
  /-- FNEG_F64, R208. -/
  | fnegF64 (m : Mods) (d : BitVec 7) (a : BitVec 7)
  /-- FABS_F64, R208. -/
  | fabsF64 (m : Mods) (d : BitVec 7) (a : BitVec 7)
  /-- FADD_F32, R208. -/
  | faddF32 (m : Mods) (d : BitVec 7) (a : BitVec 7) (b : BitVec 7)
  /-- FSUB_F32, R208. -/
  | fsubF32 (m : Mods) (d : BitVec 7) (a : BitVec 7) (b : BitVec 7)
  /-- FMUL_F32, R208. -/
  | fmulF32 (m : Mods) (d : BitVec 7) (a : BitVec 7) (b : BitVec 7)
  /-- FMA_F32, R208. -/
  | fmaF32 (m : Mods) (d : BitVec 7) (a : BitVec 7) (b : BitVec 7)
  /-- FMIN_F32, R209. -/
  | fminF32 (m : Mods) (d : BitVec 7) (a : BitVec 7) (b : BitVec 7)
  /-- FMAX_F32, R209. -/
  | fmaxF32 (m : Mods) (d : BitVec 7) (a : BitVec 7) (b : BitVec 7)
  /-- FNEG_F32, R208. -/
  | fnegF32 (m : Mods) (d : BitVec 7) (a : BitVec 7)
  /-- FABS_F32, R208. -/
  | fabsF32 (m : Mods) (d : BitVec 7) (a : BitVec 7)
  /-- FADD_BF16, R208. -/
  | faddBf16 (m : Mods) (d : BitVec 7) (a : BitVec 7) (b : BitVec 7)
  /-- FSUB_BF16, R208. -/
  | fsubBf16 (m : Mods) (d : BitVec 7) (a : BitVec 7) (b : BitVec 7)
  /-- FMUL_BF16, R208. -/
  | fmulBf16 (m : Mods) (d : BitVec 7) (a : BitVec 7) (b : BitVec 7)
  /-- FMA_BF16, R208. -/
  | fmaBf16 (m : Mods) (d : BitVec 7) (a : BitVec 7) (b : BitVec 7)
  /-- FMIN_BF16, R209. -/
  | fminBf16 (m : Mods) (d : BitVec 7) (a : BitVec 7) (b : BitVec 7)
  /-- FMAX_BF16, R209. -/
  | fmaxBf16 (m : Mods) (d : BitVec 7) (a : BitVec 7) (b : BitVec 7)
  /-- FNEG_BF16, R208. -/
  | fnegBf16 (m : Mods) (d : BitVec 7) (a : BitVec 7)
  /-- FABS_BF16, R208. -/
  | fabsBf16 (m : Mods) (d : BitVec 7) (a : BitVec 7)
  /-- FADD_F16, R208. -/
  | faddF16 (m : Mods) (d : BitVec 7) (a : BitVec 7) (b : BitVec 7)
  /-- FSUB_F16, R208. -/
  | fsubF16 (m : Mods) (d : BitVec 7) (a : BitVec 7) (b : BitVec 7)
  /-- FMUL_F16, R208. -/
  | fmulF16 (m : Mods) (d : BitVec 7) (a : BitVec 7) (b : BitVec 7)
  /-- FMA_F16, R208. -/
  | fmaF16 (m : Mods) (d : BitVec 7) (a : BitVec 7) (b : BitVec 7)
  /-- FMIN_F16, R209. -/
  | fminF16 (m : Mods) (d : BitVec 7) (a : BitVec 7) (b : BitVec 7)
  /-- FMAX_F16, R209. -/
  | fmaxF16 (m : Mods) (d : BitVec 7) (a : BitVec 7) (b : BitVec 7)
  /-- FNEG_F16, R208. -/
  | fnegF16 (m : Mods) (d : BitVec 7) (a : BitVec 7)
  /-- FABS_F16, R208. -/
  | fabsF16 (m : Mods) (d : BitVec 7) (a : BitVec 7)
  /-- FCMP_F64, R210. -/
  | fcmpF64 (m : Mods) (f : BitVec 3) (d : BitVec 3) (a : BitVec 7) (b : BitVec 7)
  /-- FCMP_F32, R210. -/
  | fcmpF32 (m : Mods) (f : BitVec 3) (d : BitVec 3) (a : BitVec 7) (b : BitVec 7)
  /-- FCMP_BF16, R210. -/
  | fcmpBf16 (m : Mods) (f : BitVec 3) (d : BitVec 3) (a : BitVec 7) (b : BitVec 7)
  /-- FCMP_F16, R210. -/
  | fcmpF16 (m : Mods) (f : BitVec 3) (d : BitVec 3) (a : BitVec 7) (b : BitVec 7)
  /-- FCLASS, R211. -/
  | fclass (m : Mods) (f : BitVec 3) (d : BitVec 7) (a : BitVec 7)
  /-- VNZMASK, R221. -/
  | vnzmask (m : Mods) (f : BitVec 3) (d : BitVec 7) (a : BitVec 7)
  /-- FDIV_F32, R212. -/
  | fdivF32 (m : Mods) (d : BitVec 7) (a : BitVec 7) (b : BitVec 7)
  /-- FSQRT_F32, R212. -/
  | fsqrtF32 (m : Mods) (d : BitVec 7) (a : BitVec 7)
  /-- FRCP_F32, R212. -/
  | frcpF32 (m : Mods) (d : BitVec 7) (a : BitVec 7)
  /-- FRSQ_F32, R212. -/
  | frsqF32 (m : Mods) (d : BitVec 7) (a : BitVec 7)
  /-- FEX2_F32, R213. -/
  | fex2F32 (m : Mods) (d : BitVec 7) (a : BitVec 7)
  /-- FLG2_F32, R213. -/
  | flg2F32 (m : Mods) (d : BitVec 7) (a : BitVec 7)
  /-- FSIN_F32, R213. -/
  | fsinF32 (m : Mods) (d : BitVec 7) (a : BitVec 7)
  /-- FCOS_F32, R213. -/
  | fcosF32 (m : Mods) (d : BitVec 7) (a : BitVec 7)
  /-- FDIV_F64, R212. -/
  | fdivF64 (m : Mods) (d : BitVec 7) (a : BitVec 7) (b : BitVec 7)
  /-- FSQRT_F64, R212. -/
  | fsqrtF64 (m : Mods) (d : BitVec 7) (a : BitVec 7)
  /-- FRCP_F64, R212. -/
  | frcpF64 (m : Mods) (d : BitVec 7) (a : BitVec 7)
  /-- FRSQ_F64, R212. -/
  | frsqF64 (m : Mods) (d : BitVec 7) (a : BitVec 7)
  /-- FERF_F32, R213. -/
  | ferfF32 (m : Mods) (d : BitVec 7) (a : BitVec 7)
  /-- FCVT, R216. -/
  | fcvt (m : Mods) (d : BitVec 7) (a : BitVec 7) (t : BitVec 5) (u : BitVec 5)
  /-- FPACK, R218. -/
  | fpack (m : Mods) (f : BitVec 3) (d : BitVec 7) (a : BitVec 7) (b : BitVec 7)
  /-- FUNPK, R219. -/
  | funpk (m : Mods) (f : BitVec 3) (d : BitVec 7) (a : BitVec 7) (b : BitVec 7)
  /-- FSCALE, R220. -/
  | fscale (m : Mods) (f : BitVec 3) (d : BitVec 7) (a : BitVec 7) (b : BitVec 7)
  /-- MADD, R231. -/
  | madd (m : Mods) (d : BitVec 5) (a : BitVec 5) (b : BitVec 5)
  /-- MSUB, R231. -/
  | msub (m : Mods) (d : BitVec 5) (a : BitVec 5) (b : BitVec 5)
  /-- MMUL, R231. -/
  | mmul (m : Mods) (d : BitVec 5) (a : BitVec 5) (b : BitVec 5)
  /-- MSCALE, R231. -/
  | mscale (m : Mods) (d : BitVec 5) (a : BitVec 5) (b : BitVec 7)
  /-- MRELU, R232. -/
  | mrelu (m : Mods) (d : BitVec 5) (a : BitVec 5)
  /-- MEXP, R232. -/
  | mexp (m : Mods) (d : BitVec 5) (a : BitVec 5)
  /-- MSIGM, R232. -/
  | msigm (m : Mods) (d : BitVec 5) (a : BitVec 5)
  /-- MRCP, R232. -/
  | mrcp (m : Mods) (d : BitVec 5) (a : BitVec 5)
  /-- MLD, R237. -/
  | mld (m : Mods) (d : BitVec 5) (a : BitVec 6) (f : BitVec 1) (p : BitVec 9)
  /-- MST, R237. -/
  | mst (m : Mods) (d : BitVec 5) (a : BitVec 6) (f : BitVec 1) (p : BitVec 9)
  /-- MSET, R234. -/
  | mset (m : Mods) (d : BitVec 5) (a : BitVec 7) (b : BitVec 7)
  /-- MMOV, R234. -/
  | mmov (m : Mods) (d : BitVec 5) (a : BitVec 5)
  /-- MCVT_MOM_MB16, R235. -/
  | mcvtMomMb16 (m : Mods) (d : BitVec 5) (a : BitVec 7)
  /-- MCVT_MB16_MOM, R235. -/
  | mcvtMb16Mom (m : Mods) (d : BitVec 7) (a : BitVec 5)
  /-- MCOL_MEAN, R238. -/
  | mcolMean (m : Mods) (d : BitVec 7) (a : BitVec 5)
  /-- MCOL_VAR, R238. -/
  | mcolVar (m : Mods) (d : BitVec 7) (a : BitVec 5)
  /-- MCOL_SD, R238. -/
  | mcolSd (m : Mods) (d : BitVec 7) (a : BitVec 5)
  /-- MCOL_SMP, R238. -/
  | mcolSmp (m : Mods) (d : BitVec 7) (a : BitVec 5) (b : BitVec 7)
  /-- LD, R307. -/
  | ld (m : Mods) (d : BitVec 7) (a : BitVec 6) (r : BitVec 1) (w : BitVec 3) (p : BitVec 6)
  /-- ST, R307. -/
  | st (m : Mods) (d : BitVec 7) (a : BitVec 6) (r : BitVec 1) (w : BitVec 3) (p : BitVec 6)
  /-- LD_INDEXED, R307. -/
  | ldIndexed (m : Mods) (w : BitVec 3) (d : BitVec 7) (a : BitVec 6) (b : BitVec 7)
  /-- ST_INDEXED, R307. -/
  | stIndexed (m : Mods) (w : BitVec 3) (d : BitVec 7) (a : BitVec 6) (b : BitVec 7)
  /-- LDS, R310. -/
  | lds (m : Mods) (d : BitVec 7) (a : BitVec 6) (w : BitVec 3) (p : BitVec 6)
  /-- STS, R310. -/
  | sts (m : Mods) (d : BitVec 7) (a : BitVec 6) (w : BitVec 3) (p : BitVec 6)
  /-- LDP, R311. -/
  | ldp (m : Mods) (d : BitVec 6) (a : BitVec 6) (w : BitVec 3) (p : BitVec 6)
  /-- STP, R311. -/
  | stp (m : Mods) (d : BitVec 6) (a : BitVec 6) (w : BitVec 3) (p : BitVec 6)
  /-- LD_A72, R312. -/
  | ldA72 (m : Mods) (d : BitVec 6) (a : BitVec 6) (p : BitVec 6)
  /-- ST_A72, R312. -/
  | stA72 (m : Mods) (d : BitVec 6) (a : BitVec 6) (p : BitVec 6)
  /-- LD_ACQ, R314. -/
  | ldAcq (m : Mods) (d : BitVec 7) (a : BitVec 6) (c : BitVec 3) (w : BitVec 2) (p : BitVec 5)
  /-- ST_REL, R314. -/
  | stRel (m : Mods) (d : BitVec 7) (a : BitVec 6) (c : BitVec 3) (w : BitVec 2) (p : BitVec 5)
  /-- STF, R318. -/
  | stf (m : Mods) (f : BitVec 3) (d : BitVec 7) (a : BitVec 6) (b : BitVec 6)
  /-- FENCE, R322. -/
  | fence (m : Mods) (b : BitVec 3)
  /-- XFENCE, R323. -/
  | xfence (m : Mods) (p : BitVec 2) (q : BitVec 2)
  /-- CINV, R324. -/
  | cinv (m : Mods) (a : BitVec 7) (m : BitVec 1)
  /-- CFLUSH, R324. -/
  | cflush (m : Mods) (a : BitVec 7) (m : BitVec 2)
  /-- PREF, R325. -/
  | pref (m : Mods) (l : BitVec 4) (a : BitVec 6) (b : BitVec 7)
  /-- CCHK, R326. -/
  | cchk (m : Mods) (d : BitVec 7) (a : BitVec 6) (b : BitVec 7)
  /-- CINJ, R327. -/
  | cinj (m : Mods) (a : BitVec 6) (b : BitVec 7)
  /-- NZCNT, R328. -/
  | nzcnt (m : Mods) (f : BitVec 3) (d : BitVec 7) (a : BitVec 6) (b : BitVec 7)
  /-- LDG_SPLIT, R315. -/
  | ldgSplit (m : Mods) (w : BitVec 3) (d : BitVec 7) (a : BitVec 6) (b : BitVec 7)
  /-- ATOMB_ADD, R321. -/
  | atombAdd (m : Mods) (f : BitVec 3) (d : BitVec 7) (a : BitVec 7) (o : BitVec 3) (b : BitVec 4)
  /-- ATOM_ADD, R320. -/
  | atomAdd (m : Mods) (t : BitVec 3) (d : BitVec 7) (a : BitVec 7) (o : BitVec 3) (b : BitVec 4)
  /-- ATOM_MIN, R320. -/
  | atomMin (m : Mods) (t : BitVec 3) (d : BitVec 7) (a : BitVec 7) (o : BitVec 3) (b : BitVec 4)
  /-- ATOM_MAX, R320. -/
  | atomMax (m : Mods) (t : BitVec 3) (d : BitVec 7) (a : BitVec 7) (o : BitVec 3) (b : BitVec 4)
  /-- ATOM_AND, R320. -/
  | atomAnd (m : Mods) (t : BitVec 3) (d : BitVec 7) (a : BitVec 7) (o : BitVec 3) (b : BitVec 4)
  /-- ATOM_OR, R320. -/
  | atomOr (m : Mods) (t : BitVec 3) (d : BitVec 7) (a : BitVec 7) (o : BitVec 3) (b : BitVec 4)
  /-- ATOM_XOR, R320. -/
  | atomXor (m : Mods) (t : BitVec 3) (d : BitVec 7) (a : BitVec 7) (o : BitVec 3) (b : BitVec 4)
  /-- ATOM_EXCH, R320. -/
  | atomExch (m : Mods) (t : BitVec 3) (d : BitVec 7) (a : BitVec 7) (o : BitVec 3) (b : BitVec 4)
  /-- ATOM_CAS, R320. -/
  | atomCas (m : Mods) (t : BitVec 3) (d : BitVec 7) (a : BitVec 7) (o : BitVec 3) (b : BitVec 4)
  /-- MM, R344. -/
  | mm (m : Mods) (h : BitVec 5) (t : BitVec 5) (a : BitVec 7) (b : BitVec 7)
  /-- MMLOOP, R346. -/
  | mmloop (m : Mods) (h : BitVec 5) (t : BitVec 5) (a : BitVec 7) (b : BitVec 7)
  /-- MMSP, R347. -/
  | mmsp (m : Mods) (h : BitVec 5) (t : BitVec 5) (a : BitVec 7) (b : BitVec 7)
  /-- MMGAT, R349. -/
  | mmgat (m : Mods) (h : BitVec 5) (t : BitVec 5) (a : BitVec 7) (b : BitVec 7)
  /-- MMA_MOM, R350: its V fields a7 and b7 (R113). -/
  | mmaMom (m : Mods) (h : BitVec 5) (t : BitVec 5) (ab : BitVec 7 × BitVec 7)
  /-- ACCZ, R352. -/
  | accz (m : Mods) (t : BitVec 5)
  /-- ACCLD, R353. -/
  | accld (m : Mods) (t : BitVec 5) (a : BitVec 6) (b : BitVec 6)
  /-- ACCST, R353. -/
  | accst (m : Mods) (t : BitVec 5) (a : BitVec 6) (b : BitVec 6)
  /-- ACCRD, R354. -/
  | accrd (m : Mods) (t : BitVec 5) (a : BitVec 7)
  /-- ACCWR, R354. -/
  | accwr (m : Mods) (t : BitVec 5) (a : BitVec 7)
  /-- SHIP_W, R397. -/
  | shipW (m : Mods) (d : BitVec 7) (a : BitVec 6) (e : BitVec 1) (n : BitVec 3)
  /-- SHIP_T, R395. -/
  | shipT (m : Mods) (d : BitVec 7) (a : BitVec 6) (e : BitVec 1) (n : BitVec 3) (k : BitVec 3)
  /-- SRET, R402. -/
  | sret (m : Mods) (d : BitVec 7) (n : BitVec 3)
  /-- TKWAIT, R407. -/
  | tkwait (m : Mods) (d : BitVec 7) (t : BitVec 3)
  /-- TKTEST, R408. -/
  | tktest (m : Mods) (d : BitVec 3) (t : BitVec 3)
  /-- LAUNCH, R410. -/
  | launch (m : Mods) (a : BitVec 6) (q : BitVec 6)
  /-- TRIG, R411. -/
  | trig (m : Mods)
  /-- CPY, R412. -/
  | cpy (m : Mods) (d : BitVec 6) (a : BitVec 6) (b : BitVec 6)
  /-- CPY2D, R412. -/
  | cpy2d (m : Mods) (d : BitVec 6) (a : BitVec 6) (b : BitVec 6)
  /-- GNODE, R414. -/
  | gnode (m : Mods) (d : BitVec 6) (a : BitVec 6)
  /-- GDEP, R415. -/
  | gdep (m : Mods) (a : BitVec 6) (b : BitVec 6)
  /-- GSIG, R415. -/
  | gsig (m : Mods) (a : BitVec 6)
  /-- PFARRIVE, R418. -/
  | pfarrive (m : Mods) (a : BitVec 6)
  /-- PFWAIT, R419. -/
  | pfwait (m : Mods) (a : BitVec 6)
  /-- PFTEST, R419. -/
  | pftest (m : Mods) (d : BitVec 3) (a : BitVec 6)
  /-- PAUSE, R420. -/
  | pause (m : Mods) (i : BitVec 16)
  /-- YIELD_SAVE, R421. -/
  | yieldSave (m : Mods)
  /-- BRA, R448. -/
  | bra (m : Mods) (c : BitVec 3) (o : BitVec 21)
  /-- CALL, R448. -/
  | call (m : Mods) (c : BitVec 3) (o : BitVec 21)
  /-- BRX, R449. -/
  | brx (m : Mods) (a : BitVec 6) (b : BitVec 7)
  /-- RET, R450. -/
  | ret (m : Mods)
  /-- EXIT, R451. -/
  | exit (m : Mods)
  /-- JOIN, R452. -/
  | join (m : Mods)
  /-- PRI, R447. -/
  | pri (m : Mods) (p : BitVec 16)
  /-- BAR_WG, R454. -/
  | barWg (m : Mods)
  /-- BAR_CON, R455. -/
  | barCon (m : Mods) (a : BitVec 6)
  /-- REGROUP, R457. -/
  | regroup (m : Mods) (a : BitVec 7)
  /-- REGROUP_FLUSH, R458. -/
  | regroupFlush (m : Mods)
  /-- TKT_TAKE, R460. -/
  | tktTake (m : Mods) (n : BitVec 3)
  /-- TKT_WAIT, R460. -/
  | tktWait (m : Mods) (n : BitVec 3)
  /-- TRAP, R168. -/
  | trap (m : Mods) (n : BitVec 7)
  /-- TRET_RETRY, R166. -/
  | tretRetry (m : Mods)
  /-- TRET_SKIP, R166. -/
  | tretSkip (m : Mods)
  /-- BRK, R168. -/
  | brk (m : Mods)
  /-- NOP, R168. -/
  | nop (m : Mods)
  /-- EXIT_FAULT, R168. -/
  | exitFault (m : Mods)
  /-- RDCTL, R168. -/
  | rdctl (m : Mods) (d : BitVec 7) (i : BitVec 10)
  /-- WRCTL, R168. -/
  | wrctl (m : Mods) (a : BitVec 7) (i : BitVec 10)
  /-- RDCNT, R463. -/
  | rdcnt (m : Mods) (d : BitVec 7) (i : BitVec 10)
  /-- POWER_REMOVED, R499. -/
  | powerRemoved
  /-- WRITE_PERFORMED, R270. -/
  | writePerformed (core : Nat) (which : Nat)
  /-- FABRIC_MEMORY_REQUEST, R484. -/
  | fabricMemoryRequest (r : FabricReq)
  /-- MAILBOX_UNKNOWN, R478. -/
  | mailboxUnknown (svc : Bool)
deriving DecidableEq, Repr

end Sys2Proof
end

