-- ==== Sys2Proof/WellFormed.lean ====
section
/-!
DEFINITION. Sys2Proof/WellFormed.lean: what the decoder checks of an instruction beyond its opcode and fn: operand
classes and literals (step 1 of spec R91; R92, R93, R95, R101, R103 to R115) and the prefix payload (step 2; R44, R45, R87,
R206, R225, R305, R335, R393, R445).
-/

namespace Sys2Proof

/-- An even name, of a 64-bit pair (R92, R103). -/
def pairName (n : BitVec 7) : Bool := n.toNat % 2 == 0

/-- A multiple of 4, of four consecutive registers (R103). -/
def quadName (n : BitVec 7) : Bool := n.toNat % 4 == 0

/-- An S-class name as a source: 0 to 78 (R93). -/
def scalarSource (n : BitVec 7) : Bool := decide (n.toNat ≤ 78)

/-- An S-class name as a destination: 0 to 76; `tid` and `vlane` are sources only (R93). -/
def scalarDest (n : BitVec 7) : Bool := decide (n.toNat ≤ 76)

/-- The address register of `cinv` and `cflush`: s0 to s63, or `zero` in the forms for all lines (R301, R324). -/
def addressName (all : Bool) (n : BitVec 7) : Bool := if all then n == 76 else decide (n.toNat ≤ 63)

/-- An S-class name of x0 to x3 (R93, R103). -/
def indexName (n : BitVec 7) : Bool := decide (72 ≤ n.toNat) && decide (n.toNat ≤ 75)

/-- The V-class name of a data operand of memory width code `w`: one word, a pair for w64, four words for w128 (R111). -/
def dataName (d : BitVec 7) (w : BitVec 3) : Bool :=
  if w == 3 then pairName d else if w == 4 then quadName d else true

/-- Width codes 0 to 4, the relaxed bit only with w32 or w64 (R104, R111). -/
def memForm (d : BitVec 7) (r : BitVec 1) (w : BitVec 3) : Bool :=
  decide (w.toNat ≤ 4) && (r == 0 || w == 2 || w == 3) && dataName d w

/-- Whether conversion type code `t` is 64 bits wide: s64, z64, f64 (R105). -/
def wideType (t : BitVec 5) : Bool := t == 4 || t == 9 || t == 10

/-- Whether conversion type code `t` is nf8 or nf4 (R105). -/
def nfType (t : BitVec 5) : Bool := t == 14 || t == 15

/-- The types of `cvt`: both integer, and different (R107). -/
def cvtTypes (t u : BitVec 5) : Bool := decide (t.toNat ≤ 9) && decide (u.toNat ≤ 9) && t != u

/-- The types of `fcvt`: both assigned, different, at least one floating, no integer with an NF type (R108). -/
def fcvtTypes (t u : BitVec 5) : Bool :=
  decide (t.toNat ≤ 15) && decide (u.toNat ≤ 15) && t != u && (decide (10 ≤ t.toNat) || decide (10 ≤ u.toNat)) &&
    !(nfType t && decide (u.toNat ≤ 9)) && !(nfType u && decide (t.toNat ≤ 9))

/-- A conversion's operand name: a pair where its type is 64 bits wide (R107, R108). -/
def convName (t : BitVec 5) (n : BitVec 7) : Bool := !wideType t || pairName n

/-- The literal of `xset`, sign-extended, fits 16 signed bits (R107, R200). -/
def xsetRange (i : BitVec 17) : Bool := decide (-32768 ≤ i.toInt) && decide (i.toInt ≤ 32767)

/-- The control register numbers of R139. -/
def controlNumber (i : BitVec 10) : Bool := decide (i.toNat ≤ 11) || (decide (16 ≤ i.toNat) && decide (i.toNat ≤ 23))

/-- The counter numbers of R463. -/
def counterNumber (i : BitVec 10) : Bool :=
  decide (i.toNat ≤ 1) || (decide (8 ≤ i.toNat) && decide (i.toNat ≤ 34)) || i == 40

/-- The class of a fourth operand (R89, R91 step 2). -/
inductive FourthClass where
  | v | pair | scalar
deriving DecidableEq, Repr

/-- Which rounding modes a prefix may name (R45, R87). -/
inductive RmUse where
  | none | nearestOrZero | any
deriving DecidableEq, Repr

/-- What an instruction accepts in a prefix: K, Z, RM, the class of C, HOLD for a and b, COV, FMT and SEL. `anyAtAll` is false
where any prefix at all is refused. -/
structure PfxUse where
  anyAtAll : Bool := true
  k : Bool := false
  z : Bool := false
  rm : RmUse := .none
  c : Option FourthClass := none
  holdA : Bool := false
  holdB : Bool := false
  cov : Bool := false
  fmt : Bool := false
  sel : Bool := false
deriving DecidableEq, Repr

/-- `bra`, `brx`, `call` and `exit`: K only (R445). -/
def PfxUse.branch : PfxUse := { k := true }

/-- An instruction of opcodes 0x68 to 0x7D outside R87's table: no prefix at all. -/
def PfxUse.never : PfxUse := { anyAtAll := false }


/-- Step 1 of R91: every operand field names an element of its class, and every literal lies in its range.
The three-bit K, two-bit X and five-bit M fields cannot name anything else. -/
def Instr.operandsOk : Instr → Bool
  | .add64 _ d a b => pairName d && pairName a && pairName b
  | .sub64 _ d a b => pairName d && pairName a && pairName b
  | .mul64 _ d a b => pairName d && pairName a && pairName b
  | .mad64 _ d a b => pairName d && pairName a && pairName b
  | .mulhiS64 _ d a b => pairName d && pairName a && pairName b
  | .mulhiZ64 _ d a b => pairName d && pairName a && pairName b
  | .abs64 _ d a => pairName d && pairName a
  | .neg64 _ d a => pairName d && pairName a
  | .addSc _ d a b => scalarDest d && scalarSource a && scalarSource b
  | .subSc _ d a b => scalarDest d && scalarSource a && scalarSource b
  | .mulSc _ d a b => scalarDest d && scalarSource a && scalarSource b
  | .madSc _ d a b => scalarDest d && scalarSource a && scalarSource b
  | .mulhiSSc _ d a b => scalarDest d && scalarSource a && scalarSource b
  | .mulhiZSc _ d a b => scalarDest d && scalarSource a && scalarSource b
  | .absSc _ d a => scalarDest d && scalarSource a
  | .negSc _ d a => scalarDest d && scalarSource a
  | .minS64 _ d a b => pairName d && pairName a && pairName b
  | .minZ64 _ d a b => pairName d && pairName a && pairName b
  | .maxS64 _ d a b => pairName d && pairName a && pairName b
  | .maxZ64 _ d a b => pairName d && pairName a && pairName b
  | .divS64 _ d a b => pairName d && pairName a && pairName b
  | .divZ64 _ d a b => pairName d && pairName a && pairName b
  | .remS64 _ d a b => pairName d && pairName a && pairName b
  | .remZ64 _ d a b => pairName d && pairName a && pairName b
  | .minSSc _ d a b => scalarDest d && scalarSource a && scalarSource b
  | .minZSc _ d a b => scalarDest d && scalarSource a && scalarSource b
  | .maxSSc _ d a b => scalarDest d && scalarSource a && scalarSource b
  | .maxZSc _ d a b => scalarDest d && scalarSource a && scalarSource b
  | .divSSc _ d a b => scalarDest d && scalarSource a && scalarSource b
  | .divZSc _ d a b => scalarDest d && scalarSource a && scalarSource b
  | .remSSc _ d a b => scalarDest d && scalarSource a && scalarSource b
  | .remZSc _ d a b => scalarDest d && scalarSource a && scalarSource b
  | .and64 _ d a b => pairName d && pairName a && pairName b
  | .or64 _ d a b => pairName d && pairName a && pairName b
  | .xor64 _ d a b => pairName d && pairName a && pairName b
  | .not64 _ d a => pairName d && pairName a
  | .popc64 _ d a => pairName d && pairName a
  | .clz64 _ d a => pairName d && pairName a
  | .ctz64 _ d a => pairName d && pairName a
  | .brev64 _ d a => pairName d && pairName a
  | .andSc _ d a b => scalarDest d && scalarSource a && scalarSource b
  | .orSc _ d a b => scalarDest d && scalarSource a && scalarSource b
  | .xorSc _ d a b => scalarDest d && scalarSource a && scalarSource b
  | .notSc _ d a => scalarDest d && scalarSource a
  | .popcSc _ d a => scalarDest d && scalarSource a
  | .clzSc _ d a => scalarDest d && scalarSource a
  | .ctzSc _ d a => scalarDest d && scalarSource a
  | .brevSc _ d a => scalarDest d && scalarSource a
  | .shl64 _ d a b => pairName d && pairName a && pairName b
  | .shr64 _ d a b => pairName d && pairName a && pairName b
  | .sar64 _ d a b => pairName d && pairName a && pairName b
  | .rotl64 _ d a b => pairName d && pairName a && pairName b
  | .bfxS64 _ d a b => pairName d && pairName a && pairName b
  | .bfxZ64 _ d a b => pairName d && pairName a && pairName b
  | .bfi64 _ d a b => pairName d && pairName a && pairName b
  | .shlSc _ d a b => scalarDest d && scalarSource a && scalarSource b
  | .shrSc _ d a b => scalarDest d && scalarSource a && scalarSource b
  | .sarSc _ d a b => scalarDest d && scalarSource a && scalarSource b
  | .rotlSc _ d a b => scalarDest d && scalarSource a && scalarSource b
  | .bfxSSc _ d a b => scalarDest d && scalarSource a && scalarSource b
  | .bfxZSc _ d a b => scalarDest d && scalarSource a && scalarSource b
  | .bfiSc _ d a b => scalarDest d && scalarSource a && scalarSource b
  | .cmpEq64 _ _ a b => pairName a && pairName b
  | .cmpNe64 _ _ a b => pairName a && pairName b
  | .cmpLtS64 _ _ a b => pairName a && pairName b
  | .cmpGeS64 _ _ a b => pairName a && pairName b
  | .cmpLtZ64 _ _ a b => pairName a && pairName b
  | .cmpGeZ64 _ _ a b => pairName a && pairName b
  | .cmpTst64 _ _ a b => pairName a && pairName b
  | .cmpEqSc _ _ a b => scalarSource a && scalarSource b
  | .cmpNeSc _ _ a b => scalarSource a && scalarSource b
  | .cmpLtSSc _ _ a b => scalarSource a && scalarSource b
  | .cmpGeSSc _ _ a b => scalarSource a && scalarSource b
  | .cmpLtZSc _ _ a b => scalarSource a && scalarSource b
  | .cmpGeZSc _ _ a b => scalarSource a && scalarSource b
  | .cmpTstSc _ _ a b => scalarSource a && scalarSource b
  | .movVs _ _ a => scalarSource a
  | .movSv _ d _ => scalarDest d
  | .movSs _ d a => scalarDest d && scalarSource a
  | .slid _ _ a _ => scalarSource a
  | .vbcast _ _ _ b => scalarSource b
  | .vrot _ _ _ b => scalarSource b
  | .vballot _ d _ => scalarDest d && !indexName d
  | .moviS _ d _ => scalarDest d
  | .cvt _ d a t u => cvtTypes t u && convName t d && convName u a
  | .xset _ _ i => xsetRange i
  | .wbase _ a => scalarSource a
  | .extAcq _ n => n != 0
  | .faddF64 _ d a b => pairName d && pairName a && pairName b
  | .fsubF64 _ d a b => pairName d && pairName a && pairName b
  | .fmulF64 _ d a b => pairName d && pairName a && pairName b
  | .fmaF64 _ d a b => pairName d && pairName a && pairName b
  | .fminF64 _ d a b => pairName d && pairName a && pairName b
  | .fmaxF64 _ d a b => pairName d && pairName a && pairName b
  | .fnegF64 _ d a => pairName d && pairName a
  | .fabsF64 _ d a => pairName d && pairName a
  | .fcmpF64 _ f _ a b => pairName a && pairName b && decide (f.toNat ≤ 6)
  | .fcmpF32 _ f _ _ _ => decide (f.toNat ≤ 6)
  | .fcmpBf16 _ f _ _ _ => decide (f.toNat ≤ 6)
  | .fcmpF16 _ f _ _ _ => decide (f.toNat ≤ 6)
  | .fclass _ f _ a => decide (f.toNat ≤ 3) && (f != 0 || pairName a)
  | .vnzmask _ f _ a => decide (f.toNat ≤ 4) && (f != 4 || pairName a)
  | .fdivF64 _ d a b => pairName d && pairName a && pairName b
  | .fsqrtF64 _ d a => pairName d && pairName a
  | .frcpF64 _ d a => pairName d && pairName a
  | .frsqF64 _ d a => pairName d && pairName a
  | .fcvt _ d a t u => fcvtTypes t u && convName t d && convName u a
  | .fpack _ f _ _ _ => decide (f.toNat ≤ 3)
  | .funpk _ f _ _ _ => decide (f.toNat ≤ 3)
  | .fscale _ f _ _ _ => decide (f.toNat ≤ 1)
  | .ld _ d _ r w _ => memForm d r w
  | .st _ d _ r w _ => memForm d r w
  | .ldIndexed _ w d _ _ => memForm d 0#1 w
  | .stIndexed _ w d _ _ => memForm d 0#1 w
  | .lds _ d _ w _ => memForm d 0#1 w
  | .sts _ d _ w _ => memForm d 0#1 w
  | .ldp _ _ _ w _ => decide (w.toNat ≤ 3)
  | .stp _ _ _ w _ => decide (w.toNat ≤ 3)
  | .ldAcq _ d _ c w _ => decide (c.toNat ≤ 4) && decide (w.toNat ≤ 1) && (w == 0 || pairName d)
  | .stRel _ d _ c w _ => decide (c.toNat ≤ 4) && decide (w.toNat ≤ 1) && (w == 0 || pairName d)
  | .stf _ f _ _ _ => decide (1 ≤ f.toNat) && decide (f.toNat ≤ 4)
  | .fence _ b => decide (b.toNat ≤ 4)
  | .xfence _ p q => p != q
  | .cinv _ a m_ => scalarSource a && addressName (m_ == 1) a
  | .cflush _ a m_ => scalarSource a && decide (m_.toNat ≤ 2) && addressName (m_ == 2) a
  | .cinj _ _ b => scalarSource b
  | .nzcnt _ f _ _ _ => decide (2 ≤ f.toNat) && decide (f.toNat ≤ 5)
  | .ldgSplit _ w d _ _ => memForm d 0#1 w
  | .atombAdd _ f _ _ o _ => (f == 0 || f == 2) && decide (o.toNat ≤ 4)
  | .atomAdd _ t d _ o _ => decide (t.toNat ≤ 5) && decide (o.toNat ≤ 4) && (decide (t.toNat ≤ 2) || pairName d)
  | .atomMin _ t d _ o _ => decide (t.toNat ≤ 5) && decide (o.toNat ≤ 4) && (decide (t.toNat ≤ 2) || pairName d)
  | .atomMax _ t d _ o _ => decide (t.toNat ≤ 5) && decide (o.toNat ≤ 4) && (decide (t.toNat ≤ 2) || pairName d)
  | .atomAnd _ t d _ o _ => decide (6 ≤ t.toNat) && decide (o.toNat ≤ 4) && (t == 6 || pairName d)
  | .atomOr _ t d _ o _ => decide (6 ≤ t.toNat) && decide (o.toNat ≤ 4) && (t == 6 || pairName d)
  | .atomXor _ t d _ o _ => decide (6 ≤ t.toNat) && decide (o.toNat ≤ 4) && (t == 6 || pairName d)
  | .atomExch _ t d _ o _ => decide (6 ≤ t.toNat) && decide (o.toNat ≤ 4) && (t == 6 || pairName d)
  | .atomCas _ t d _ o _ => decide (6 ≤ t.toNat) && decide (o.toNat ≤ 4) && (t == 6 || pairName d)
  | .shipW _ _ a _ _ => decide (a.toNat ≤ 62)
  | .shipT _ _ a _ _ _ => decide (a.toNat ≤ 62)
  | .sret _ d n => decide (n.toNat ≤ 4) && (n != 0 || d == 0)
  | .cpy2d _ _ _ b => decide (b.toNat ≤ 62)
  | .gnode _ _ a => decide (a.toNat ≤ 62)
  | .pause _ i => i != 0
  | .rdctl _ d i => scalarDest d && controlNumber i
  | .wrctl _ a i => scalarSource a && controlNumber i
  | .rdcnt _ d i => scalarDest d && counterNumber i
  | _ => true

/-- What each instruction accepts in its prefix, by the tables of R87, R206, R225, R305, R335, R393 and R445. -/
def Instr.prefixUse : Instr → PfxUse
  | .mad32 _ _ _ _ | .bfi32 _ _ _ _ => { k := true, z := true, c := some .v, holdA := true, holdB := true }
  | .abs32 _ _ _ | .neg32 _ _ _ | .abs64 _ _ _ | .neg64 _ _ _ | .not32 _ _ _ | .popc32 _ _ _ | .clz32 _ _ _
  | .ctz32 _ _ _ | .brev32 _ _ _ | .not64 _ _ _ | .popc64 _ _ _ | .clz64 _ _ _ | .ctz64 _ _ _ | .brev64 _ _ _
  | .movVv _ _ _ | .vbcast _ _ _ _ | .vrot _ _ _ _ | .vconf _ _ _ | .vmatch _ _ _ | .vcompact _ _ _
  | .vred _ _ _ _ | .cvt _ _ _ _ _ | .fnegF64 _ _ _ | .fabsF64 _ _ _ | .fnegF32 _ _ _ | .fabsF32 _ _ _
  | .fnegBf16 _ _ _ | .fabsBf16 _ _ _ | .fnegF16 _ _ _ | .fabsF16 _ _ _ | .fclass _ _ _ _ | .mcvtMomMb16 _ _ _
  | .atombAdd _ _ _ _ _ _ | .atomAdd _ _ _ _ _ _ | .atomMin _ _ _ _ _ _ | .atomMax _ _ _ _ _ _
  | .atomAnd _ _ _ _ _ _ | .atomOr _ _ _ _ _ _ | .atomXor _ _ _ _ _ _ | .atomExch _ _ _ _ _ _ => { k := true, z := true, holdA := true }
  | .mad64 _ _ _ _ | .bfi64 _ _ _ _ => { k := true, z := true, c := some .pair, holdA := true, holdB := true }
  | .addSc _ d _ _ | .subSc _ d _ _ | .mulSc _ d _ _ | .mulhiSSc _ d _ _ | .mulhiZSc _ d _ _ | .absSc _ d _
  | .negSc _ d _ | .minSSc _ d _ _ | .minZSc _ d _ _ | .maxSSc _ d _ _ | .maxZSc _ d _ _ | .divSSc _ d _ _
  | .divZSc _ d _ _ | .remSSc _ d _ _ | .remZSc _ d _ _ | .andSc _ d _ _ | .orSc _ d _ _ | .xorSc _ d _ _
  | .notSc _ d _ | .popcSc _ d _ | .clzSc _ d _ | .ctzSc _ d _ | .brevSc _ d _ | .shlSc _ d _ _ | .shrSc _ d _ _
  | .sarSc _ d _ _ | .rotlSc _ d _ _ | .bfxSSc _ d _ _ | .bfxZSc _ d _ _ | .movSs _ d _ | .moviS _ d _ => { k := true, z := indexName d }
  | .madSc _ d _ _ | .bfiSc _ d _ _ => { k := true, z := indexName d, c := some .scalar }
  | .cmpEq32 _ _ _ _ | .cmpNe32 _ _ _ _ | .cmpLtS32 _ _ _ _ | .cmpGeS32 _ _ _ _ | .cmpLtZ32 _ _ _ _
  | .cmpGeZ32 _ _ _ _ | .cmpTst32 _ _ _ _ | .cmpEq64 _ _ _ _ | .cmpNe64 _ _ _ _ | .cmpLtS64 _ _ _ _
  | .cmpGeS64 _ _ _ _ | .cmpLtZ64 _ _ _ _ | .cmpGeZ64 _ _ _ _ | .cmpTst64 _ _ _ _ | .fcmpF64 _ _ _ _ _
  | .fcmpF32 _ _ _ _ _ | .fcmpBf16 _ _ _ _ _ | .fcmpF16 _ _ _ _ _ => { k := true, holdA := true, holdB := true }
  | .cmpEqSc _ _ _ _ | .cmpNeSc _ _ _ _ | .cmpLtSSc _ _ _ _ | .cmpGeSSc _ _ _ _ | .cmpLtZSc _ _ _ _
  | .cmpGeZSc _ _ _ _ | .cmpTstSc _ _ _ _ | .aadd _ _ _ _ | .lea _ _ _ _ | .rputX _ _ _ _ | .wbase _ _
  | .extAcq _ _ | .extRel _ | .mst _ _ _ _ _ | .st _ _ _ _ _ _ | .sts _ _ _ _ _ | .ldp _ _ _ _ _ | .stp _ _ _ _ _
  | .ldA72 _ _ _ _ | .stA72 _ _ _ _ | .stRel _ _ _ _ _ _ | .stf _ _ _ _ _ | .fence _ _ | .xfence _ _ _
  | .cinv _ _ _ | .cflush _ _ _ | .cinj _ _ _ | .accz _ _ | .accld _ _ _ _ | .accst _ _ _ _ | .accwr _ _ _
  | .shipT _ _ _ _ _ _ | .tktest _ _ _ | .launch _ _ _ | .trig _ | .cpy _ _ _ _ | .cpy2d _ _ _ _ | .gnode _ _ _
  | .gdep _ _ _ | .gsig _ _ | .pfarrive _ _ | .pfwait _ _ | .pftest _ _ _ => { k := true }
  | .movVs _ _ _ | .moviV _ _ _ | .moviHi _ _ _ | .rgetX _ _ _ _ | .xadd _ _ _ _ | .xset _ _ _ | .rdid _ _ _
  | .mrelu _ _ _ | .mexp _ _ _ | .msigm _ _ _ | .mrcp _ _ _ | .mld _ _ _ _ _ | .mmov _ _ _ | .mcvtMb16Mom _ _ _
  | .mcolMean _ _ _ | .mcolVar _ _ _ | .mcolSd _ _ _ | .ld _ _ _ _ _ _ | .lds _ _ _ _ _ | .ldAcq _ _ _ _ _ _
  | .accrd _ _ _ | .shipW _ _ _ _ _ | .tkwait _ _ _ => { k := true, z := true }
  | .movSv _ d _ => { k := true, z := indexName d, holdA := true }
  | .slid _ _ _ _ | .mscale _ _ _ _ | .mcolSmp _ _ _ _ | .ldIndexed _ _ _ _ _ | .cchk _ _ _ _
  | .ldgSplit _ _ _ _ _ => { k := true, z := true, holdB := true }
  | .sel _ _ _ _ => { k := true, z := true, c := some .v, holdB := true }
  | .vballot _ _ _ | .mmaMom _ _ _ _ => { k := true, holdA := true }
  | .faddF64 _ _ _ _ | .fsubF64 _ _ _ _ | .fmulF64 _ _ _ _ | .faddF32 _ _ _ _ | .fsubF32 _ _ _ _
  | .fmulF32 _ _ _ _ | .faddBf16 _ _ _ _ | .fsubBf16 _ _ _ _ | .fmulBf16 _ _ _ _ | .faddF16 _ _ _ _
  | .fsubF16 _ _ _ _ | .fmulF16 _ _ _ _ | .fdivF32 _ _ _ _ | .fdivF64 _ _ _ _ => { k := true, z := true, rm := .any, holdA := true, holdB := true }
  | .fmaF64 _ _ _ _ => { k := true, z := true, rm := .any, c := some .pair, holdA := true, holdB := true }
  | .fmaF32 _ _ _ _ | .fmaBf16 _ _ _ _ | .fmaF16 _ _ _ _ => { k := true, z := true, rm := .any, c := some .v, holdA := true, holdB := true }
  | .vnzmask _ _ _ _ => { k := true, z := true, holdA := true, fmt := true }
  | .fsqrtF32 _ _ _ | .frcpF32 _ _ _ | .frsqF32 _ _ _ | .fex2F32 _ _ _ | .flg2F32 _ _ _ | .fsinF32 _ _ _
  | .fcosF32 _ _ _ | .fsqrtF64 _ _ _ | .frcpF64 _ _ _ | .frsqF64 _ _ _ | .ferfF32 _ _ _ => { k := true, z := true, rm := .any, holdA := true }
  | .fcvt _ _ _ t u => { k := true, z := true, rm := if nfType t then .nearestOrZero else .any, holdA := true, fmt := nfType t || nfType u }
  | .fpack _ _ _ _ _ => { k := true, z := true, rm := .nearestOrZero, c := some .v, holdA := true, holdB := true, fmt := true, sel := true }
  | .funpk _ _ _ _ _ => { k := true, z := true, rm := .any, holdA := true, holdB := true, fmt := true, sel := true }
  | .fscale _ _ _ _ _ => { k := true, z := true, holdA := true, holdB := true, fmt := true, sel := true }
  | .madd _ _ _ _ | .msub _ _ _ _ | .mmul _ _ _ _ => { k := true, z := true, cov := true }
  | .stIndexed _ _ _ _ _ | .pref _ _ _ _ => { k := true, holdB := true }
  | .nzcnt _ _ _ _ _ => { k := true, z := true, holdB := true, fmt := true }
  | .atomCas _ t _ _ _ _ => { k := true, z := true, c := some (if t == 6 then .v else .pair), holdA := true }
  | .mm _ _ _ _ _ | .mmloop _ _ _ _ _ | .mmsp _ _ _ _ _ | .mmgat _ _ _ _ _ => { k := true, holdA := true, holdB := true, fmt := true, sel := true }
  | .sret _ _ _ | .pause _ _ | .yieldSave _ => {}
  | .bra _ _ _ | .call _ _ _ | .brx _ _ _ | .exit _ => PfxUse.branch
  | .ret _ | .join _ | .pri _ _ | .barWg _ | .barCon _ _ | .regroup _ _ | .regroupFlush _ | .tktTake _ _
  | .tktWait _ _ | .trap _ _ | .tretRetry _ | .tretSkip _ | .brk _ | .nop _ | .exitFault _ | .rdctl _ _ _
  | .wrctl _ _ _ | .rdcnt _ _ _ => PfxUse.never
  | _ => { k := true, z := true, holdA := true, holdB := true }

/-- Whether a fourth operand's name lies in its class (R91 step 2). -/
def FourthClass.nameOk : FourthClass → BitVec 7 → Bool
  | .v, _ => true
  | .pair, n => pairName n
  | .scalar, n => scalarSource n

/-- The class of the fourth operand under this prefix: `madd`, `msub` and `mmul` read a V register with `cov=cov` only (R225). -/
def PfxUse.fourth (u : PfxUse) (p : Prefix) : Option FourthClass :=
  if u.cov then (if p.cov == 3 then some .v else none) else u.c

/-- The rounding field of a prefix (R44, R45, R87). -/
def RmUse.ok (u : RmUse) (rm : BitVec 3) : Bool :=
  match u with
  | .none => rm == 0
  | .nearestOrZero => decide (rm.toNat ≤ 2)
  | .any => decide (rm.toNat ≤ 5)

/-- The HOLD field: the held position must be a V-class source, and `hold=c` needs C to apply (R87). -/
def PfxUse.holdOk (u : PfxUse) (p : Prefix) : Bool :=
  match p.hold.toNat with
  | 0 => true
  | 1 => u.holdA
  | 2 => u.holdB
  | _ => match u.fourth p with
    | some .v | some .pair => true
    | _ => false

/-- Step 2 of R91: the payload of a prefix. -/
def PfxUse.ok (u : PfxUse) (p : Prefix) : Bool :=
  u.anyAtAll && (u.k || p.k == 0) && (u.z || !p.z) && u.rm.ok p.rm &&
    (match u.fourth p with
      | some c => c.nameOk p.c
      | none => p.c == 0) &&
    u.holdOk p && (u.cov || p.cov == 0) && (u.fmt || p.fmt == 0) && (u.sel || p.sel == 0)

/-- The modifiers of a coded instruction; an event has none. -/
def Instr.prefixOk (i : Instr) (m : Mods) : Bool :=
  match m.pfx with
  | none => true
  | some p => i.prefixUse.ok p


end Sys2Proof
end

