-- ==== Sys2Proof/Decode.lean ====
section
/-!
DEFINITION. Sys2Proof/Decode.lean: the decoder, total on any words, and after it the encoder, both read off ONE table of the
encodings of spec/ (R76, R85, R106 to R115): for each row its fields and fixed bits from bit 0 upward.
-/

namespace Sys2Proof

/-- One run of bits of a word: fixed at a value, or an operand or literal field. -/
inductive Seg where
  | fix (width value : Nat)
  | fld (width : Nat)
deriving DecidableEq, Repr

/-- One row of the opcode map: the bits of its word from bit 0 to bit 30, and the instruction its field values name. -/
structure Row where
  segs : List Seg
  build : Mods → List Nat → Option Instr

/-- Read a word against a row's segments: the field values, or nothing where a fixed bit differs. -/
def readSegs : List Seg → Nat → Option (List Nat)
  | [], _ => some []
  | .fix n v :: rest, w => if w % 2 ^ n = v then readSegs rest (w / 2 ^ n) else none
  | .fld n :: rest, w => (readSegs rest (w / 2 ^ n)).map (w % 2 ^ n :: ·)

/-- Lay field values into a row's segments. -/
def packSegs : List Seg → List Nat → Nat
  | [], _ => 0
  | .fix n v :: rest, vs => v + 2 ^ n * packSegs rest vs
  | .fld n :: rest, v :: vs => v + 2 ^ n * packSegs rest vs
  | .fld n :: rest, [] => 2 ^ n * packSegs rest []

/-! Builders: a constructor applied to field values listed from bit 0 upward. -/

def build0 (c : Mods → Instr) (m : Mods) : List Nat → Option Instr
  | [] => some (c m)
  | _ => none

def build1 {x : Nat} (c : Mods → BitVec x → Instr) (m : Mods) : List Nat → Option Instr
  | [a] => some (c m (.ofNat x a))
  | _ => none

def build2 {x y : Nat} (c : Mods → BitVec x → BitVec y → Instr) (m : Mods) : List Nat → Option Instr
  | [b, a] => some (c m (.ofNat x a) (.ofNat y b))
  | _ => none

def build3 {x y z : Nat} (c : Mods → BitVec x → BitVec y → BitVec z → Instr) (m : Mods) : List Nat → Option Instr
  | [e, b, a] => some (c m (.ofNat x a) (.ofNat y b) (.ofNat z e))
  | _ => none

def build4 {x y z t : Nat} (c : Mods → BitVec x → BitVec y → BitVec z → BitVec t → Instr) (m : Mods) :
    List Nat → Option Instr
  | [f, e, b, a] => some (c m (.ofNat x a) (.ofNat y b) (.ofNat z e) (.ofNat t f))
  | _ => none

def build5 {x y z t u : Nat} (c : Mods → BitVec x → BitVec y → BitVec z → BitVec t → BitVec u → Instr) (m : Mods) :
    List Nat → Option Instr
  | [g, f, e, b, a] => some (c m (.ofNat x a) (.ofNat y b) (.ofNat z e) (.ofNat t f) (.ofNat u g))
  | _ => none


/-! The compiler of this Lean gives a data constructor after the 244th no run-time tag, so what builds an `Instr` is compiled
for the kernel alone: the section below is noncomputable for that reason only. The kernel evaluates it. -/

noncomputable section

/-! The rows, one definition per opcode. Within an opcode a row with more fixed bits stands first. -/

def rows01 : List Row := [
  ⟨[.fix 7 0, .fld 7, .fld 7, .fix 3 6, .fix 7 1], build2 .abs32⟩,
  ⟨[.fix 7 0, .fld 7, .fld 7, .fix 3 7, .fix 7 1], build2 .neg32⟩,
  ⟨[.fld 7, .fld 7, .fld 7, .fix 3 0, .fix 7 1], build3 .add32⟩,
  ⟨[.fld 7, .fld 7, .fld 7, .fix 3 1, .fix 7 1], build3 .sub32⟩,
  ⟨[.fld 7, .fld 7, .fld 7, .fix 3 2, .fix 7 1], build3 .mul32⟩,
  ⟨[.fld 7, .fld 7, .fld 7, .fix 3 3, .fix 7 1], build3 .mad32⟩,
  ⟨[.fld 7, .fld 7, .fld 7, .fix 3 4, .fix 7 1], build3 .mulhiS32⟩,
  ⟨[.fld 7, .fld 7, .fld 7, .fix 3 5, .fix 7 1], build3 .mulhiZ32⟩]

def rows02 : List Row := [
  ⟨[.fld 7, .fld 7, .fld 7, .fix 3 0, .fix 7 2], build3 .minS32⟩,
  ⟨[.fld 7, .fld 7, .fld 7, .fix 3 1, .fix 7 2], build3 .minZ32⟩,
  ⟨[.fld 7, .fld 7, .fld 7, .fix 3 2, .fix 7 2], build3 .maxS32⟩,
  ⟨[.fld 7, .fld 7, .fld 7, .fix 3 3, .fix 7 2], build3 .maxZ32⟩,
  ⟨[.fld 7, .fld 7, .fld 7, .fix 3 4, .fix 7 2], build3 .divS32⟩,
  ⟨[.fld 7, .fld 7, .fld 7, .fix 3 5, .fix 7 2], build3 .divZ32⟩,
  ⟨[.fld 7, .fld 7, .fld 7, .fix 3 6, .fix 7 2], build3 .remS32⟩,
  ⟨[.fld 7, .fld 7, .fld 7, .fix 3 7, .fix 7 2], build3 .remZ32⟩]

def rows03 : List Row := [
  ⟨[.fix 7 0, .fld 7, .fld 7, .fix 3 3, .fix 7 3], build2 .not32⟩,
  ⟨[.fix 7 0, .fld 7, .fld 7, .fix 3 4, .fix 7 3], build2 .popc32⟩,
  ⟨[.fix 7 0, .fld 7, .fld 7, .fix 3 5, .fix 7 3], build2 .clz32⟩,
  ⟨[.fix 7 0, .fld 7, .fld 7, .fix 3 6, .fix 7 3], build2 .ctz32⟩,
  ⟨[.fix 7 0, .fld 7, .fld 7, .fix 3 7, .fix 7 3], build2 .brev32⟩,
  ⟨[.fld 7, .fld 7, .fld 7, .fix 3 0, .fix 7 3], build3 .and32⟩,
  ⟨[.fld 7, .fld 7, .fld 7, .fix 3 1, .fix 7 3], build3 .or32⟩,
  ⟨[.fld 7, .fld 7, .fld 7, .fix 3 2, .fix 7 3], build3 .xor32⟩]

def rows04 : List Row := [
  ⟨[.fld 7, .fld 7, .fld 7, .fix 3 0, .fix 7 4], build3 .shl32⟩,
  ⟨[.fld 7, .fld 7, .fld 7, .fix 3 1, .fix 7 4], build3 .shr32⟩,
  ⟨[.fld 7, .fld 7, .fld 7, .fix 3 2, .fix 7 4], build3 .sar32⟩,
  ⟨[.fld 7, .fld 7, .fld 7, .fix 3 3, .fix 7 4], build3 .rotl32⟩,
  ⟨[.fld 7, .fld 7, .fld 7, .fix 3 4, .fix 7 4], build3 .bfxS32⟩,
  ⟨[.fld 7, .fld 7, .fld 7, .fix 3 5, .fix 7 4], build3 .bfxZ32⟩,
  ⟨[.fld 7, .fld 7, .fld 7, .fix 3 6, .fix 7 4], build3 .bfi32⟩]

def rows05 : List Row := [
  ⟨[.fld 7, .fld 7, .fld 3, .fix 4 8, .fix 3 0, .fix 7 5], build3 .cmpEq32⟩,
  ⟨[.fld 7, .fld 7, .fld 3, .fix 4 8, .fix 3 1, .fix 7 5], build3 .cmpNe32⟩,
  ⟨[.fld 7, .fld 7, .fld 3, .fix 4 8, .fix 3 2, .fix 7 5], build3 .cmpLtS32⟩,
  ⟨[.fld 7, .fld 7, .fld 3, .fix 4 8, .fix 3 3, .fix 7 5], build3 .cmpGeS32⟩,
  ⟨[.fld 7, .fld 7, .fld 3, .fix 4 8, .fix 3 4, .fix 7 5], build3 .cmpLtZ32⟩,
  ⟨[.fld 7, .fld 7, .fld 3, .fix 4 8, .fix 3 5, .fix 7 5], build3 .cmpGeZ32⟩,
  ⟨[.fld 7, .fld 7, .fld 3, .fix 4 8, .fix 3 6, .fix 7 5], build3 .cmpTst32⟩]

def rows06 : List Row := [
  ⟨[.fix 7 0, .fld 7, .fld 7, .fix 3 6, .fix 7 6], build2 .abs64⟩,
  ⟨[.fix 7 0, .fld 7, .fld 7, .fix 3 7, .fix 7 6], build2 .neg64⟩,
  ⟨[.fld 7, .fld 7, .fld 7, .fix 3 0, .fix 7 6], build3 .add64⟩,
  ⟨[.fld 7, .fld 7, .fld 7, .fix 3 1, .fix 7 6], build3 .sub64⟩,
  ⟨[.fld 7, .fld 7, .fld 7, .fix 3 2, .fix 7 6], build3 .mul64⟩,
  ⟨[.fld 7, .fld 7, .fld 7, .fix 3 3, .fix 7 6], build3 .mad64⟩,
  ⟨[.fld 7, .fld 7, .fld 7, .fix 3 4, .fix 7 6], build3 .mulhiS64⟩,
  ⟨[.fld 7, .fld 7, .fld 7, .fix 3 5, .fix 7 6], build3 .mulhiZ64⟩]

def rows07 : List Row := [
  ⟨[.fld 7, .fld 7, .fld 7, .fix 3 0, .fix 7 7], build3 .minS64⟩,
  ⟨[.fld 7, .fld 7, .fld 7, .fix 3 1, .fix 7 7], build3 .minZ64⟩,
  ⟨[.fld 7, .fld 7, .fld 7, .fix 3 2, .fix 7 7], build3 .maxS64⟩,
  ⟨[.fld 7, .fld 7, .fld 7, .fix 3 3, .fix 7 7], build3 .maxZ64⟩,
  ⟨[.fld 7, .fld 7, .fld 7, .fix 3 4, .fix 7 7], build3 .divS64⟩,
  ⟨[.fld 7, .fld 7, .fld 7, .fix 3 5, .fix 7 7], build3 .divZ64⟩,
  ⟨[.fld 7, .fld 7, .fld 7, .fix 3 6, .fix 7 7], build3 .remS64⟩,
  ⟨[.fld 7, .fld 7, .fld 7, .fix 3 7, .fix 7 7], build3 .remZ64⟩]

def rows08 : List Row := [
  ⟨[.fix 7 0, .fld 7, .fld 7, .fix 3 3, .fix 7 8], build2 .not64⟩,
  ⟨[.fix 7 0, .fld 7, .fld 7, .fix 3 4, .fix 7 8], build2 .popc64⟩,
  ⟨[.fix 7 0, .fld 7, .fld 7, .fix 3 5, .fix 7 8], build2 .clz64⟩,
  ⟨[.fix 7 0, .fld 7, .fld 7, .fix 3 6, .fix 7 8], build2 .ctz64⟩,
  ⟨[.fix 7 0, .fld 7, .fld 7, .fix 3 7, .fix 7 8], build2 .brev64⟩,
  ⟨[.fld 7, .fld 7, .fld 7, .fix 3 0, .fix 7 8], build3 .and64⟩,
  ⟨[.fld 7, .fld 7, .fld 7, .fix 3 1, .fix 7 8], build3 .or64⟩,
  ⟨[.fld 7, .fld 7, .fld 7, .fix 3 2, .fix 7 8], build3 .xor64⟩]

def rows09 : List Row := [
  ⟨[.fld 7, .fld 7, .fld 7, .fix 3 0, .fix 7 9], build3 .shl64⟩,
  ⟨[.fld 7, .fld 7, .fld 7, .fix 3 1, .fix 7 9], build3 .shr64⟩,
  ⟨[.fld 7, .fld 7, .fld 7, .fix 3 2, .fix 7 9], build3 .sar64⟩,
  ⟨[.fld 7, .fld 7, .fld 7, .fix 3 3, .fix 7 9], build3 .rotl64⟩,
  ⟨[.fld 7, .fld 7, .fld 7, .fix 3 4, .fix 7 9], build3 .bfxS64⟩,
  ⟨[.fld 7, .fld 7, .fld 7, .fix 3 5, .fix 7 9], build3 .bfxZ64⟩,
  ⟨[.fld 7, .fld 7, .fld 7, .fix 3 6, .fix 7 9], build3 .bfi64⟩]

def rows0A : List Row := [
  ⟨[.fld 7, .fld 7, .fld 3, .fix 4 8, .fix 3 0, .fix 7 10], build3 .cmpEq64⟩,
  ⟨[.fld 7, .fld 7, .fld 3, .fix 4 8, .fix 3 1, .fix 7 10], build3 .cmpNe64⟩,
  ⟨[.fld 7, .fld 7, .fld 3, .fix 4 8, .fix 3 2, .fix 7 10], build3 .cmpLtS64⟩,
  ⟨[.fld 7, .fld 7, .fld 3, .fix 4 8, .fix 3 3, .fix 7 10], build3 .cmpGeS64⟩,
  ⟨[.fld 7, .fld 7, .fld 3, .fix 4 8, .fix 3 4, .fix 7 10], build3 .cmpLtZ64⟩,
  ⟨[.fld 7, .fld 7, .fld 3, .fix 4 8, .fix 3 5, .fix 7 10], build3 .cmpGeZ64⟩,
  ⟨[.fld 7, .fld 7, .fld 3, .fix 4 8, .fix 3 6, .fix 7 10], build3 .cmpTst64⟩]

def rows0B : List Row := [
  ⟨[.fix 7 0, .fld 7, .fld 7, .fix 3 6, .fix 7 11], build2 .absSc⟩,
  ⟨[.fix 7 0, .fld 7, .fld 7, .fix 3 7, .fix 7 11], build2 .negSc⟩,
  ⟨[.fld 7, .fld 7, .fld 7, .fix 3 0, .fix 7 11], build3 .addSc⟩,
  ⟨[.fld 7, .fld 7, .fld 7, .fix 3 1, .fix 7 11], build3 .subSc⟩,
  ⟨[.fld 7, .fld 7, .fld 7, .fix 3 2, .fix 7 11], build3 .mulSc⟩,
  ⟨[.fld 7, .fld 7, .fld 7, .fix 3 3, .fix 7 11], build3 .madSc⟩,
  ⟨[.fld 7, .fld 7, .fld 7, .fix 3 4, .fix 7 11], build3 .mulhiSSc⟩,
  ⟨[.fld 7, .fld 7, .fld 7, .fix 3 5, .fix 7 11], build3 .mulhiZSc⟩]

def rows0C : List Row := [
  ⟨[.fld 7, .fld 7, .fld 7, .fix 3 0, .fix 7 12], build3 .minSSc⟩,
  ⟨[.fld 7, .fld 7, .fld 7, .fix 3 1, .fix 7 12], build3 .minZSc⟩,
  ⟨[.fld 7, .fld 7, .fld 7, .fix 3 2, .fix 7 12], build3 .maxSSc⟩,
  ⟨[.fld 7, .fld 7, .fld 7, .fix 3 3, .fix 7 12], build3 .maxZSc⟩,
  ⟨[.fld 7, .fld 7, .fld 7, .fix 3 4, .fix 7 12], build3 .divSSc⟩,
  ⟨[.fld 7, .fld 7, .fld 7, .fix 3 5, .fix 7 12], build3 .divZSc⟩,
  ⟨[.fld 7, .fld 7, .fld 7, .fix 3 6, .fix 7 12], build3 .remSSc⟩,
  ⟨[.fld 7, .fld 7, .fld 7, .fix 3 7, .fix 7 12], build3 .remZSc⟩]

def rows0D : List Row := [
  ⟨[.fix 7 0, .fld 7, .fld 7, .fix 3 3, .fix 7 13], build2 .notSc⟩,
  ⟨[.fix 7 0, .fld 7, .fld 7, .fix 3 4, .fix 7 13], build2 .popcSc⟩,
  ⟨[.fix 7 0, .fld 7, .fld 7, .fix 3 5, .fix 7 13], build2 .clzSc⟩,
  ⟨[.fix 7 0, .fld 7, .fld 7, .fix 3 6, .fix 7 13], build2 .ctzSc⟩,
  ⟨[.fix 7 0, .fld 7, .fld 7, .fix 3 7, .fix 7 13], build2 .brevSc⟩,
  ⟨[.fld 7, .fld 7, .fld 7, .fix 3 0, .fix 7 13], build3 .andSc⟩,
  ⟨[.fld 7, .fld 7, .fld 7, .fix 3 1, .fix 7 13], build3 .orSc⟩,
  ⟨[.fld 7, .fld 7, .fld 7, .fix 3 2, .fix 7 13], build3 .xorSc⟩]

def rows0E : List Row := [
  ⟨[.fld 7, .fld 7, .fld 7, .fix 3 0, .fix 7 14], build3 .shlSc⟩,
  ⟨[.fld 7, .fld 7, .fld 7, .fix 3 1, .fix 7 14], build3 .shrSc⟩,
  ⟨[.fld 7, .fld 7, .fld 7, .fix 3 2, .fix 7 14], build3 .sarSc⟩,
  ⟨[.fld 7, .fld 7, .fld 7, .fix 3 3, .fix 7 14], build3 .rotlSc⟩,
  ⟨[.fld 7, .fld 7, .fld 7, .fix 3 4, .fix 7 14], build3 .bfxSSc⟩,
  ⟨[.fld 7, .fld 7, .fld 7, .fix 3 5, .fix 7 14], build3 .bfxZSc⟩,
  ⟨[.fld 7, .fld 7, .fld 7, .fix 3 6, .fix 7 14], build3 .bfiSc⟩]

def rows0F : List Row := [
  ⟨[.fld 7, .fld 7, .fld 3, .fix 4 8, .fix 3 0, .fix 7 15], build3 .cmpEqSc⟩,
  ⟨[.fld 7, .fld 7, .fld 3, .fix 4 8, .fix 3 1, .fix 7 15], build3 .cmpNeSc⟩,
  ⟨[.fld 7, .fld 7, .fld 3, .fix 4 8, .fix 3 2, .fix 7 15], build3 .cmpLtSSc⟩,
  ⟨[.fld 7, .fld 7, .fld 3, .fix 4 8, .fix 3 3, .fix 7 15], build3 .cmpGeSSc⟩,
  ⟨[.fld 7, .fld 7, .fld 3, .fix 4 8, .fix 3 4, .fix 7 15], build3 .cmpLtZSc⟩,
  ⟨[.fld 7, .fld 7, .fld 3, .fix 4 8, .fix 3 5, .fix 7 15], build3 .cmpGeZSc⟩,
  ⟨[.fld 7, .fld 7, .fld 3, .fix 4 8, .fix 3 6, .fix 7 15], build3 .cmpTstSc⟩]

def rows10 : List Row := [
  ⟨[.fix 7 0, .fld 7, .fld 7, .fix 3 0, .fix 7 16], build2 .movVv⟩,
  ⟨[.fix 7 0, .fld 7, .fld 7, .fix 3 1, .fix 7 16], build2 .movVs⟩,
  ⟨[.fix 7 0, .fld 7, .fld 7, .fix 3 2, .fix 7 16], build2 .movSv⟩,
  ⟨[.fix 7 0, .fld 7, .fld 7, .fix 3 3, .fix 7 16], build2 .movSs⟩,
  ⟨[.fld 7, .fld 3, .fix 4 8, .fld 7, .fix 3 6, .fix 7 16], build3 .sel⟩,
  ⟨[.fld 6, .fix 1 0, .fld 6, .fix 1 0, .fld 6, .fix 1 0, .fix 3 4, .fix 7 16], build3 .aadd⟩,
  ⟨[.fld 7, .fld 7, .fld 7, .fix 3 5, .fix 7 16], build3 .slid⟩]

def rows11 : List Row := [
  ⟨[.fix 7 0, .fld 7, .fld 7, .fix 3 3, .fix 7 17], build2 .vconf⟩,
  ⟨[.fix 7 0, .fld 7, .fld 7, .fix 3 4, .fix 7 17], build2 .vmatch⟩,
  ⟨[.fix 7 0, .fld 7, .fld 7, .fix 3 5, .fix 7 17], build2 .vcompact⟩,
  ⟨[.fix 7 0, .fld 7, .fld 7, .fix 3 6, .fix 7 17], build2 .vballot⟩,
  ⟨[.fld 7, .fld 7, .fld 7, .fix 3 0, .fix 7 17], build3 .vshfl⟩,
  ⟨[.fld 7, .fld 7, .fld 7, .fix 3 1, .fix 7 17], build3 .vbcast⟩,
  ⟨[.fld 7, .fld 7, .fld 7, .fix 3 2, .fix 7 17], build3 .vrot⟩]

def rows12 : List Row := [
  ⟨[.fld 7, .fld 7, .fld 7, .fld 3, .fix 7 18], build4 .vscan⟩]

def rows13 : List Row := [
  ⟨[.fix 7 0, .fld 7, .fld 7, .fld 3, .fix 7 19], build3 .vred⟩]

def rows14 : List Row := [
  ⟨[.fld 7, .fld 7, .fld 7, .fld 3, .fix 7 20], build4 .vcomb⟩]

def rows15 : List Row := [
  ⟨[.fld 17, .fld 7, .fix 7 21], build2 .moviV⟩]

def rows16 : List Row := [
  ⟨[.fld 17, .fld 7, .fix 7 22], build2 .moviS⟩]

def rows17 : List Row := [
  ⟨[.fld 17, .fld 7, .fix 7 23], build2 .moviHi⟩]

def rows18 : List Row := [
  ⟨[.fld 5, .fld 5, .fld 7, .fld 7, .fix 7 24], build4 .cvt⟩]

def rows19 : List Row := [
  ⟨[.fld 10, .fld 6, .fix 1 0, .fld 6, .fix 1 0, .fix 7 25], build3 .lea⟩]

def rows1A : List Row := [
  ⟨[.fld 10, .fld 2, .fix 5 18, .fld 7, .fix 7 26], build3 .rgetX⟩]

def rows1B : List Row := [
  ⟨[.fld 10, .fld 2, .fix 5 18, .fld 7, .fix 7 27], build3 .rputX⟩]

def rows1C : List Row := [
  ⟨[.fld 10, .fld 2, .fix 5 18, .fld 2, .fix 2 2, .fix 3 4, .fix 7 28], build3 .xadd⟩]

def rows1D : List Row := [
  ⟨[.fld 17, .fld 2, .fix 2 2, .fix 3 4, .fix 7 29], build2 .xset⟩]

def rows1E : List Row := [
  ⟨[.fld 3, .fix 14 0, .fld 7, .fix 7 30], build2 .rdid⟩]

def rows1F : List Row := [
  ⟨[.fix 21 0, .fix 3 2, .fix 7 31], build0 .extRel⟩,
  ⟨[.fld 3, .fix 18 0, .fix 3 1, .fix 7 31], build1 .extAcq⟩,
  ⟨[.fix 7 0, .fld 7, .fix 7 0, .fix 3 0, .fix 7 31], build1 .wbase⟩]

def rows20 : List Row := [
  ⟨[.fix 7 0, .fld 7, .fld 7, .fix 3 6, .fix 7 32], build2 .fnegF64⟩,
  ⟨[.fix 7 0, .fld 7, .fld 7, .fix 3 7, .fix 7 32], build2 .fabsF64⟩,
  ⟨[.fld 7, .fld 7, .fld 7, .fix 3 0, .fix 7 32], build3 .faddF64⟩,
  ⟨[.fld 7, .fld 7, .fld 7, .fix 3 1, .fix 7 32], build3 .fsubF64⟩,
  ⟨[.fld 7, .fld 7, .fld 7, .fix 3 2, .fix 7 32], build3 .fmulF64⟩,
  ⟨[.fld 7, .fld 7, .fld 7, .fix 3 3, .fix 7 32], build3 .fmaF64⟩,
  ⟨[.fld 7, .fld 7, .fld 7, .fix 3 4, .fix 7 32], build3 .fminF64⟩,
  ⟨[.fld 7, .fld 7, .fld 7, .fix 3 5, .fix 7 32], build3 .fmaxF64⟩]

def rows21 : List Row := [
  ⟨[.fix 7 0, .fld 7, .fld 7, .fix 3 6, .fix 7 33], build2 .fnegF32⟩,
  ⟨[.fix 7 0, .fld 7, .fld 7, .fix 3 7, .fix 7 33], build2 .fabsF32⟩,
  ⟨[.fld 7, .fld 7, .fld 7, .fix 3 0, .fix 7 33], build3 .faddF32⟩,
  ⟨[.fld 7, .fld 7, .fld 7, .fix 3 1, .fix 7 33], build3 .fsubF32⟩,
  ⟨[.fld 7, .fld 7, .fld 7, .fix 3 2, .fix 7 33], build3 .fmulF32⟩,
  ⟨[.fld 7, .fld 7, .fld 7, .fix 3 3, .fix 7 33], build3 .fmaF32⟩,
  ⟨[.fld 7, .fld 7, .fld 7, .fix 3 4, .fix 7 33], build3 .fminF32⟩,
  ⟨[.fld 7, .fld 7, .fld 7, .fix 3 5, .fix 7 33], build3 .fmaxF32⟩]

def rows22 : List Row := [
  ⟨[.fix 7 0, .fld 7, .fld 7, .fix 3 6, .fix 7 34], build2 .fnegBf16⟩,
  ⟨[.fix 7 0, .fld 7, .fld 7, .fix 3 7, .fix 7 34], build2 .fabsBf16⟩,
  ⟨[.fld 7, .fld 7, .fld 7, .fix 3 0, .fix 7 34], build3 .faddBf16⟩,
  ⟨[.fld 7, .fld 7, .fld 7, .fix 3 1, .fix 7 34], build3 .fsubBf16⟩,
  ⟨[.fld 7, .fld 7, .fld 7, .fix 3 2, .fix 7 34], build3 .fmulBf16⟩,
  ⟨[.fld 7, .fld 7, .fld 7, .fix 3 3, .fix 7 34], build3 .fmaBf16⟩,
  ⟨[.fld 7, .fld 7, .fld 7, .fix 3 4, .fix 7 34], build3 .fminBf16⟩,
  ⟨[.fld 7, .fld 7, .fld 7, .fix 3 5, .fix 7 34], build3 .fmaxBf16⟩]

def rows23 : List Row := [
  ⟨[.fix 7 0, .fld 7, .fld 7, .fix 3 6, .fix 7 35], build2 .fnegF16⟩,
  ⟨[.fix 7 0, .fld 7, .fld 7, .fix 3 7, .fix 7 35], build2 .fabsF16⟩,
  ⟨[.fld 7, .fld 7, .fld 7, .fix 3 0, .fix 7 35], build3 .faddF16⟩,
  ⟨[.fld 7, .fld 7, .fld 7, .fix 3 1, .fix 7 35], build3 .fsubF16⟩,
  ⟨[.fld 7, .fld 7, .fld 7, .fix 3 2, .fix 7 35], build3 .fmulF16⟩,
  ⟨[.fld 7, .fld 7, .fld 7, .fix 3 3, .fix 7 35], build3 .fmaF16⟩,
  ⟨[.fld 7, .fld 7, .fld 7, .fix 3 4, .fix 7 35], build3 .fminF16⟩,
  ⟨[.fld 7, .fld 7, .fld 7, .fix 3 5, .fix 7 35], build3 .fmaxF16⟩]

def rows24 : List Row := [
  ⟨[.fld 7, .fld 7, .fld 3, .fix 4 8, .fld 3, .fix 7 36], build4 .fcmpF64⟩]

def rows25 : List Row := [
  ⟨[.fld 7, .fld 7, .fld 3, .fix 4 8, .fld 3, .fix 7 37], build4 .fcmpF32⟩]

def rows26 : List Row := [
  ⟨[.fld 7, .fld 7, .fld 3, .fix 4 8, .fld 3, .fix 7 38], build4 .fcmpBf16⟩]

def rows27 : List Row := [
  ⟨[.fld 7, .fld 7, .fld 3, .fix 4 8, .fld 3, .fix 7 39], build4 .fcmpF16⟩]

def rows28 : List Row := [
  ⟨[.fix 7 0, .fld 7, .fld 7, .fld 3, .fix 7 40], build3 .fclass⟩]

def rows29 : List Row := [
  ⟨[.fix 7 0, .fld 7, .fld 7, .fld 3, .fix 7 41], build3 .vnzmask⟩]

def rows30 : List Row := [
  ⟨[.fix 7 0, .fld 7, .fld 7, .fix 3 1, .fix 7 48], build2 .fsqrtF32⟩,
  ⟨[.fix 7 0, .fld 7, .fld 7, .fix 3 2, .fix 7 48], build2 .frcpF32⟩,
  ⟨[.fix 7 0, .fld 7, .fld 7, .fix 3 3, .fix 7 48], build2 .frsqF32⟩,
  ⟨[.fix 7 0, .fld 7, .fld 7, .fix 3 4, .fix 7 48], build2 .fex2F32⟩,
  ⟨[.fix 7 0, .fld 7, .fld 7, .fix 3 5, .fix 7 48], build2 .flg2F32⟩,
  ⟨[.fix 7 0, .fld 7, .fld 7, .fix 3 6, .fix 7 48], build2 .fsinF32⟩,
  ⟨[.fix 7 0, .fld 7, .fld 7, .fix 3 7, .fix 7 48], build2 .fcosF32⟩,
  ⟨[.fld 7, .fld 7, .fld 7, .fix 3 0, .fix 7 48], build3 .fdivF32⟩]

def rows31 : List Row := [
  ⟨[.fix 7 0, .fld 7, .fld 7, .fix 3 1, .fix 7 49], build2 .fsqrtF64⟩,
  ⟨[.fix 7 0, .fld 7, .fld 7, .fix 3 2, .fix 7 49], build2 .frcpF64⟩,
  ⟨[.fix 7 0, .fld 7, .fld 7, .fix 3 3, .fix 7 49], build2 .frsqF64⟩,
  ⟨[.fld 7, .fld 7, .fld 7, .fix 3 0, .fix 7 49], build3 .fdivF64⟩]

def rows32 : List Row := [
  ⟨[.fix 7 0, .fld 7, .fld 7, .fix 3 0, .fix 7 50], build2 .ferfF32⟩]

def rows33 : List Row := [
  ⟨[.fld 5, .fld 5, .fld 7, .fld 7, .fix 7 51], build4 .fcvt⟩]

def rows34 : List Row := [
  ⟨[.fld 7, .fld 7, .fld 7, .fld 3, .fix 7 52], build4 .fpack⟩]

def rows35 : List Row := [
  ⟨[.fld 7, .fld 7, .fld 7, .fld 3, .fix 7 53], build4 .funpk⟩]

def rows36 : List Row := [
  ⟨[.fld 7, .fld 7, .fld 7, .fld 3, .fix 7 54], build4 .fscale⟩]

def rows38 : List Row := [
  ⟨[.fix 7 0, .fld 5, .fix 2 0, .fld 5, .fix 2 0, .fix 3 4, .fix 7 56], build2 .mrelu⟩,
  ⟨[.fix 7 0, .fld 5, .fix 2 0, .fld 5, .fix 2 0, .fix 3 5, .fix 7 56], build2 .mexp⟩,
  ⟨[.fix 7 0, .fld 5, .fix 2 0, .fld 5, .fix 2 0, .fix 3 6, .fix 7 56], build2 .msigm⟩,
  ⟨[.fix 7 0, .fld 5, .fix 2 0, .fld 5, .fix 2 0, .fix 3 7, .fix 7 56], build2 .mrcp⟩,
  ⟨[.fld 5, .fix 2 0, .fld 5, .fix 2 0, .fld 5, .fix 2 0, .fix 3 0, .fix 7 56], build3 .madd⟩,
  ⟨[.fld 5, .fix 2 0, .fld 5, .fix 2 0, .fld 5, .fix 2 0, .fix 3 1, .fix 7 56], build3 .msub⟩,
  ⟨[.fld 5, .fix 2 0, .fld 5, .fix 2 0, .fld 5, .fix 2 0, .fix 3 2, .fix 7 56], build3 .mmul⟩,
  ⟨[.fld 7, .fld 5, .fix 2 0, .fld 5, .fix 2 0, .fix 3 3, .fix 7 56], build3 .mscale⟩]

def rows39 : List Row := [
  ⟨[.fld 9, .fld 1, .fld 6, .fix 1 0, .fld 5, .fix 2 0, .fix 7 57], build4 .mld⟩]

def rows3A : List Row := [
  ⟨[.fld 9, .fld 1, .fld 6, .fix 1 0, .fld 5, .fix 2 0, .fix 7 58], build4 .mst⟩]

def rows3B : List Row := [
  ⟨[.fix 7 0, .fld 5, .fix 2 0, .fld 5, .fix 2 0, .fix 3 1, .fix 7 59], build2 .mmov⟩,
  ⟨[.fix 7 0, .fld 7, .fld 5, .fix 2 0, .fix 3 2, .fix 7 59], build2 .mcvtMomMb16⟩,
  ⟨[.fix 7 0, .fld 5, .fix 2 0, .fld 7, .fix 3 3, .fix 7 59], build2 .mcvtMb16Mom⟩,
  ⟨[.fix 7 0, .fld 5, .fix 2 0, .fld 7, .fix 3 4, .fix 7 59], build2 .mcolMean⟩,
  ⟨[.fix 7 0, .fld 5, .fix 2 0, .fld 7, .fix 3 5, .fix 7 59], build2 .mcolVar⟩,
  ⟨[.fix 7 0, .fld 5, .fix 2 0, .fld 7, .fix 3 6, .fix 7 59], build2 .mcolSd⟩,
  ⟨[.fld 7, .fld 7, .fld 5, .fix 2 0, .fix 3 0, .fix 7 59], build3 .mset⟩,
  ⟨[.fld 7, .fld 5, .fix 2 0, .fld 7, .fix 3 7, .fix 7 59], build3 .mcolSmp⟩]

def rows40 : List Row := [
  ⟨[.fld 6, .fld 3, .fld 1, .fld 6, .fix 1 0, .fld 7, .fix 7 64], build5 .ld⟩]

def rows41 : List Row := [
  ⟨[.fld 6, .fld 3, .fld 1, .fld 6, .fix 1 0, .fld 7, .fix 7 65], build5 .st⟩]

def rows42 : List Row := [
  ⟨[.fld 7, .fld 6, .fix 1 0, .fld 7, .fld 3, .fix 7 66], build4 .ldIndexed⟩]

def rows43 : List Row := [
  ⟨[.fld 7, .fld 6, .fix 1 0, .fld 7, .fld 3, .fix 7 67], build4 .stIndexed⟩]

def rows44 : List Row := [
  ⟨[.fld 6, .fld 3, .fix 1 0, .fld 6, .fix 1 0, .fld 7, .fix 7 68], build4 .lds⟩]

def rows45 : List Row := [
  ⟨[.fld 6, .fld 3, .fix 1 0, .fld 6, .fix 1 0, .fld 7, .fix 7 69], build4 .sts⟩]

def rows46 : List Row := [
  ⟨[.fld 6, .fix 4 5, .fld 6, .fix 1 0, .fld 6, .fix 1 0, .fix 7 70], build3 .ldA72⟩,
  ⟨[.fld 6, .fld 3, .fix 1 0, .fld 6, .fix 1 0, .fld 6, .fix 1 0, .fix 7 70], build4 .ldp⟩]

def rows47 : List Row := [
  ⟨[.fld 6, .fix 4 5, .fld 6, .fix 1 0, .fld 6, .fix 1 0, .fix 7 71], build3 .stA72⟩,
  ⟨[.fld 6, .fld 3, .fix 1 0, .fld 6, .fix 1 0, .fld 6, .fix 1 0, .fix 7 71], build4 .stp⟩]

def rows48 : List Row := [
  ⟨[.fld 5, .fld 2, .fld 3, .fld 6, .fix 1 0, .fld 7, .fix 7 72], build5 .ldAcq⟩]

def rows49 : List Row := [
  ⟨[.fld 5, .fld 2, .fld 3, .fld 6, .fix 1 0, .fld 7, .fix 7 73], build5 .stRel⟩]

def rows4A : List Row := [
  ⟨[.fld 6, .fix 1 0, .fld 6, .fix 1 0, .fld 7, .fld 3, .fix 7 74], build4 .stf⟩]

def rows4B : List Row := [
  ⟨[.fld 3, .fix 18 0, .fix 3 0, .fix 7 75], build1 .fence⟩,
  ⟨[.fld 2, .fix 5 0, .fld 2, .fix 12 0, .fix 3 1, .fix 7 75], build2 .xfence⟩,
  ⟨[.fld 1, .fix 6 0, .fld 7, .fix 7 0, .fix 3 2, .fix 7 75], build2 .cinv⟩,
  ⟨[.fld 2, .fix 5 0, .fld 7, .fix 7 0, .fix 3 3, .fix 7 75], build2 .cflush⟩,
  ⟨[.fld 7, .fld 6, .fix 1 0, .fld 4, .fix 3 0, .fix 3 4, .fix 7 75], build3 .pref⟩]

def rows4C : List Row := [
  ⟨[.fld 7, .fld 6, .fix 8 0, .fix 3 1, .fix 7 76], build2 .cinj⟩,
  ⟨[.fld 7, .fld 6, .fix 1 0, .fld 7, .fix 3 0, .fix 7 76], build3 .cchk⟩,
  ⟨[.fld 7, .fld 6, .fix 1 0, .fld 7, .fld 3, .fix 7 76], build4 .nzcnt⟩]

def rows4D : List Row := [
  ⟨[.fld 7, .fld 6, .fix 1 0, .fld 7, .fld 3, .fix 7 77], build4 .ldgSplit⟩]

def rows4E : List Row := [
  ⟨[.fld 4, .fld 3, .fld 7, .fld 7, .fld 3, .fix 7 78], build5 .atombAdd⟩]

def rows50 : List Row := [
  ⟨[.fld 4, .fld 3, .fld 7, .fld 7, .fld 3, .fix 7 80], build5 .atomAdd⟩]

def rows51 : List Row := [
  ⟨[.fld 4, .fld 3, .fld 7, .fld 7, .fld 3, .fix 7 81], build5 .atomMin⟩]

def rows52 : List Row := [
  ⟨[.fld 4, .fld 3, .fld 7, .fld 7, .fld 3, .fix 7 82], build5 .atomMax⟩]

def rows53 : List Row := [
  ⟨[.fld 4, .fld 3, .fld 7, .fld 7, .fld 3, .fix 7 83], build5 .atomAnd⟩]

def rows54 : List Row := [
  ⟨[.fld 4, .fld 3, .fld 7, .fld 7, .fld 3, .fix 7 84], build5 .atomOr⟩]

def rows55 : List Row := [
  ⟨[.fld 4, .fld 3, .fld 7, .fld 7, .fld 3, .fix 7 85], build5 .atomXor⟩]

def rows56 : List Row := [
  ⟨[.fld 4, .fld 3, .fld 7, .fld 7, .fld 3, .fix 7 86], build5 .atomExch⟩]

def rows57 : List Row := [
  ⟨[.fld 4, .fld 3, .fld 7, .fld 7, .fld 3, .fix 7 87], build5 .atomCas⟩]

def rows58 : List Row := [
  ⟨[.fld 7, .fld 7, .fld 5, .fld 5, .fix 7 88], build4 .mm⟩]

def rows59 : List Row := [
  ⟨[.fld 7, .fld 7, .fld 5, .fld 5, .fix 7 89], build4 .mmloop⟩]

def rows5A : List Row := [
  ⟨[.fld 7, .fld 7, .fld 5, .fld 5, .fix 7 90], build4 .mmsp⟩]

def rows5B : List Row := [
  ⟨[.fld 7, .fld 7, .fld 5, .fld 5, .fix 7 91], build4 .mmgat⟩]

def rows5C : List Row := [
  ⟨[.fld 7, .fld 7, .fld 5, .fld 5, .fix 7 92], build4 fun m h t (a b : BitVec 7) => .mmaMom m h t (a, b)⟩]

def rows5D : List Row := [
  ⟨[.fix 14 0, .fld 5, .fix 2 0, .fix 3 0, .fix 7 93], build1 .accz⟩,
  ⟨[.fix 7 0, .fld 7, .fld 5, .fix 2 0, .fix 3 3, .fix 7 93], build2 .accrd⟩,
  ⟨[.fix 7 0, .fld 7, .fld 5, .fix 2 0, .fix 3 4, .fix 7 93], build2 .accwr⟩,
  ⟨[.fld 6, .fix 1 0, .fld 6, .fix 1 0, .fld 5, .fix 2 0, .fix 3 1, .fix 7 93], build3 .accld⟩,
  ⟨[.fld 6, .fix 1 0, .fld 6, .fix 1 0, .fld 5, .fix 2 0, .fix 3 2, .fix 7 93], build3 .accst⟩]

def rows60 : List Row := [
  ⟨[.fld 3, .fix 11 0, .fld 3, .fix 4 8, .fix 3 4, .fix 7 96], build2 .tktest⟩,
  ⟨[.fld 3, .fix 11 0, .fld 7, .fix 3 2, .fix 7 96], build2 .sret⟩,
  ⟨[.fld 3, .fix 11 0, .fld 7, .fix 3 3, .fix 7 96], build2 .tkwait⟩,
  ⟨[.fix 3 0, .fld 3, .fld 1, .fld 6, .fix 1 0, .fld 7, .fix 3 0, .fix 7 96], build4 .shipW⟩,
  ⟨[.fld 3, .fld 3, .fld 1, .fld 6, .fix 1 0, .fld 7, .fix 3 1, .fix 7 96], build5 .shipT⟩]

def rows61 : List Row := [
  ⟨[.fix 21 0, .fix 3 1, .fix 7 97], build0 .trig⟩,
  ⟨[.fld 6, .fix 1 0, .fld 6, .fix 8 0, .fix 3 0, .fix 7 97], build2 .launch⟩]

def rows62 : List Row := [
  ⟨[.fld 6, .fix 1 0, .fld 6, .fix 1 0, .fld 6, .fix 1 0, .fix 3 0, .fix 7 98], build3 .cpy⟩,
  ⟨[.fld 6, .fix 1 0, .fld 6, .fix 1 0, .fld 6, .fix 1 0, .fix 3 1, .fix 7 98], build3 .cpy2d⟩]

def rows63 : List Row := [
  ⟨[.fix 7 0, .fld 6, .fix 8 0, .fix 3 2, .fix 7 99], build1 .gsig⟩,
  ⟨[.fix 7 0, .fld 6, .fix 1 0, .fld 6, .fix 1 0, .fix 3 0, .fix 7 99], build2 .gnode⟩,
  ⟨[.fld 6, .fix 1 0, .fld 6, .fix 8 0, .fix 3 1, .fix 7 99], build2 .gdep⟩]

def rows64 : List Row := [
  ⟨[.fix 7 0, .fld 6, .fix 8 0, .fix 3 0, .fix 7 100], build1 .pfarrive⟩,
  ⟨[.fix 7 0, .fld 6, .fix 8 0, .fix 3 1, .fix 7 100], build1 .pfwait⟩,
  ⟨[.fix 7 0, .fld 6, .fix 1 0, .fld 3, .fix 4 8, .fix 3 2, .fix 7 100], build2 .pftest⟩]

def rows65 : List Row := [
  ⟨[.fld 16, .fix 5 0, .fix 3 0, .fix 7 101], build1 .pause⟩]

def rows66 : List Row := [
  ⟨[.fix 21 0, .fix 3 0, .fix 7 102], build0 .yieldSave⟩]

def rows68 : List Row := [
  ⟨[.fld 21, .fld 3, .fix 7 104], build2 .bra⟩]

def rows69 : List Row := [
  ⟨[.fld 21, .fld 3, .fix 7 105], build2 .call⟩]

def rows6A : List Row := [
  ⟨[.fix 21 0, .fix 3 1, .fix 7 106], build0 .ret⟩,
  ⟨[.fix 21 0, .fix 3 2, .fix 7 106], build0 .exit⟩,
  ⟨[.fix 21 0, .fix 3 3, .fix 7 106], build0 .join⟩,
  ⟨[.fld 7, .fld 6, .fix 8 0, .fix 3 0, .fix 7 106], build2 .brx⟩]

def rows6B : List Row := [
  ⟨[.fld 16, .fix 5 0, .fix 3 0, .fix 7 107], build1 .pri⟩]

def rows70 : List Row := [
  ⟨[.fix 21 0, .fix 3 0, .fix 7 112], build0 .barWg⟩,
  ⟨[.fix 21 0, .fix 3 3, .fix 7 112], build0 .regroupFlush⟩,
  ⟨[.fld 3, .fix 18 0, .fix 3 4, .fix 7 112], build1 .tktTake⟩,
  ⟨[.fld 3, .fix 18 0, .fix 3 5, .fix 7 112], build1 .tktWait⟩,
  ⟨[.fix 7 0, .fld 6, .fix 8 0, .fix 3 1, .fix 7 112], build1 .barCon⟩,
  ⟨[.fix 7 0, .fld 7, .fix 7 0, .fix 3 2, .fix 7 112], build1 .regroup⟩]

def rows78 : List Row := [
  ⟨[.fix 21 0, .fix 3 1, .fix 7 120], build0 .tretRetry⟩,
  ⟨[.fix 21 0, .fix 3 2, .fix 7 120], build0 .tretSkip⟩,
  ⟨[.fix 21 0, .fix 3 3, .fix 7 120], build0 .brk⟩,
  ⟨[.fix 21 0, .fix 3 4, .fix 7 120], build0 .nop⟩,
  ⟨[.fix 21 0, .fix 3 5, .fix 7 120], build0 .exitFault⟩,
  ⟨[.fld 7, .fix 14 0, .fix 3 0, .fix 7 120], build1 .trap⟩]

def rows79 : List Row := [
  ⟨[.fld 10, .fix 7 0, .fld 7, .fix 7 121], build2 .rdctl⟩]

def rows7A : List Row := [
  ⟨[.fld 10, .fld 7, .fix 4 0, .fix 3 0, .fix 7 122], build2 .wrctl⟩]

def rows7B : List Row := [
  ⟨[.fld 10, .fix 7 0, .fld 7, .fix 7 123], build2 .rdcnt⟩]

/-- The rows of one major opcode; an opcode that is not here is not assigned (R101). -/
def opcodeRows : List (Nat × List Row) := [
  (0x01, rows01), (0x02, rows02), (0x03, rows03), (0x04, rows04), (0x05, rows05), (0x06, rows06),
  (0x07, rows07), (0x08, rows08), (0x09, rows09), (0x0A, rows0A), (0x0B, rows0B), (0x0C, rows0C),
  (0x0D, rows0D), (0x0E, rows0E), (0x0F, rows0F), (0x10, rows10), (0x11, rows11), (0x12, rows12),
  (0x13, rows13), (0x14, rows14), (0x15, rows15), (0x16, rows16), (0x17, rows17), (0x18, rows18),
  (0x19, rows19), (0x1A, rows1A), (0x1B, rows1B), (0x1C, rows1C), (0x1D, rows1D), (0x1E, rows1E),
  (0x1F, rows1F), (0x20, rows20), (0x21, rows21), (0x22, rows22), (0x23, rows23), (0x24, rows24),
  (0x25, rows25), (0x26, rows26), (0x27, rows27), (0x28, rows28), (0x29, rows29), (0x30, rows30),
  (0x31, rows31), (0x32, rows32), (0x33, rows33), (0x34, rows34), (0x35, rows35), (0x36, rows36),
  (0x38, rows38), (0x39, rows39), (0x3A, rows3A), (0x3B, rows3B), (0x40, rows40), (0x41, rows41),
  (0x42, rows42), (0x43, rows43), (0x44, rows44), (0x45, rows45), (0x46, rows46), (0x47, rows47),
  (0x48, rows48), (0x49, rows49), (0x4A, rows4A), (0x4B, rows4B), (0x4C, rows4C), (0x4D, rows4D),
  (0x4E, rows4E), (0x50, rows50), (0x51, rows51), (0x52, rows52), (0x53, rows53), (0x54, rows54),
  (0x55, rows55), (0x56, rows56), (0x57, rows57), (0x58, rows58), (0x59, rows59), (0x5A, rows5A),
  (0x5B, rows5B), (0x5C, rows5C), (0x5D, rows5D), (0x60, rows60), (0x61, rows61), (0x62, rows62),
  (0x63, rows63), (0x64, rows64), (0x65, rows65), (0x66, rows66), (0x68, rows68), (0x69, rows69),
  (0x6A, rows6A), (0x6B, rows6B), (0x70, rows70), (0x78, rows78), (0x79, rows79), (0x7A, rows7A),
  (0x7B, rows7B)]

/-- Why a word or a pair of words is no instruction (R91 steps 1 and 2, R86, R101). -/
inductive DecodeErr where
  /-- ILLEGAL_INSTRUCTION: the base word fails step 1. -/
  | illegalInstruction
  /-- ILLEGAL_PREFIX: a prefix before a prefix, or a payload that fails step 2. -/
  | illegalPrefix
  /-- The byte list ends inside the instruction: only for a list of bytes, never for the machine's fetch. -/
  | truncated
deriving DecidableEq, Repr

/-- A prefix word: bit 31 is 0 and op7 is 0x7F (R85). -/
def isPrefix (w : Nat) : Bool := w / 2 ^ 24 % 2 ^ 8 == 0x7F

/-- The payload of a prefix word, bits 23 to 1 (R85). -/
def prefixOf (w : Nat) : Prefix where
  k := .ofNat 3 (w / 2 ^ 21)
  z := w / 2 ^ 20 % 2 == 1
  rm := .ofNat 3 (w / 2 ^ 17)
  c := .ofNat 7 (w / 2 ^ 10)
  hold := .ofNat 2 (w / 2 ^ 8)
  cov := .ofNat 2 (w / 2 ^ 6)
  fmt := .ofNat 3 (w / 2 ^ 3)
  sel := .ofNat 2 (w / 2)

/-- The word of a prefix (R85). -/
def prefixWord (p : Prefix) : Nat :=
  0x7F000000 + p.k.toNat * 2 ^ 21 + p.z.toNat * 2 ^ 20 + p.rm.toNat * 2 ^ 17 + p.c.toNat * 2 ^ 10 + p.hold.toNat * 2 ^ 8 +
    p.cov.toNat * 2 ^ 6 + p.fmt.toNat * 2 ^ 3 + p.sel.toNat * 2

/-- The rows of an opcode (R101). -/
def rowsOf (op : Nat) : List Row :=
  match opcodeRows.find? (·.1 == op) with
  | some (_, rs) => rs
  | none => []

/-- Step 1 of R91 on a base word: the instruction whose fixed bits it has and whose operand fields are in range. -/
def decodeBase (pfx : Option Prefix) (w : Nat) : Option Instr :=
  let m : Mods := ⟨w / 2 ^ 31 % 2 == 1, pfx⟩
  (rowsOf (w / 2 ^ 24 % 128)).findSome? fun r =>
    match readSegs r.segs w with
    | some vs => (r.build m vs).filter Instr.operandsOk
    | none => none

/-- An unprefixed word. -/
def decodeWord (w : Nat) : Except DecodeErr Instr :=
  match decodeBase none w with
  | some i => .ok i
  | none => .error .illegalInstruction

/-- A prefix word `p` and the word `w` after it: a second prefix first (R86), then the base word (step 1), then the payload
(step 2; bit 0 of a prefix must be 0, R85). -/
def decodePair (p w : Nat) : Except DecodeErr Instr :=
  if isPrefix w then .error .illegalPrefix
  else match decodeBase (some (prefixOf p)) w with
    | none => .error .illegalInstruction
    | some i => if p % 2 == 0 && i.prefixUse.ok (prefixOf p) then .ok i else .error .illegalPrefix

/-- The instruction at the front of a list of words, and the words after it. -/
def decodeWords : List Nat → Except DecodeErr (Instr × List Nat)
  | [] => .error .truncated
  | w :: rest =>
    if isPrefix w then
      match rest with
      | [] => .error .truncated
      | v :: rest' => (decodePair w v).map (·, rest')
    else (decodeWord w).map (·, rest)

/-- The words of a list of bytes, four at a time, the low byte first (R74). -/
def wordsOfBytes : List Byte → List Nat
  | a :: b :: c :: d :: rest => (a.toNat + 2 ^ 8 * b.toNat + 2 ^ 16 * c.toNat + 2 ^ 24 * d.toNat) :: wordsOfBytes rest
  | _ => []

/-- The bytes of a word, the low byte first (R74). -/
def bytesOfWord (w : Nat) : List Byte := [.ofNat 8 w, .ofNat 8 (w / 2 ^ 8), .ofNat 8 (w / 2 ^ 16), .ofNat 8 (w / 2 ^ 24)]

/-- The instruction at the front of a list of bytes: total, refusing by name. -/
def decode (bs : List Byte) : Except DecodeErr Instr := (decodeWords (wordsOfBytes bs)).map (·.1)


/-- What an instruction is made of in its word: its row's segments, its modifiers and its field values from bit 0 upward. An event has no word. -/
def Instr.parts : Instr → Option (List Seg × Mods × List Nat)
  | .add32 m d a b => some ([.fld 7, .fld 7, .fld 7, .fix 3 0, .fix 7 1], m, [b.toNat, a.toNat, d.toNat])
  | .sub32 m d a b => some ([.fld 7, .fld 7, .fld 7, .fix 3 1, .fix 7 1], m, [b.toNat, a.toNat, d.toNat])
  | .mul32 m d a b => some ([.fld 7, .fld 7, .fld 7, .fix 3 2, .fix 7 1], m, [b.toNat, a.toNat, d.toNat])
  | .mad32 m d a b => some ([.fld 7, .fld 7, .fld 7, .fix 3 3, .fix 7 1], m, [b.toNat, a.toNat, d.toNat])
  | .mulhiS32 m d a b => some ([.fld 7, .fld 7, .fld 7, .fix 3 4, .fix 7 1], m, [b.toNat, a.toNat, d.toNat])
  | .mulhiZ32 m d a b => some ([.fld 7, .fld 7, .fld 7, .fix 3 5, .fix 7 1], m, [b.toNat, a.toNat, d.toNat])
  | .abs32 m d a => some ([.fix 7 0, .fld 7, .fld 7, .fix 3 6, .fix 7 1], m, [a.toNat, d.toNat])
  | .neg32 m d a => some ([.fix 7 0, .fld 7, .fld 7, .fix 3 7, .fix 7 1], m, [a.toNat, d.toNat])
  | .add64 m d a b => some ([.fld 7, .fld 7, .fld 7, .fix 3 0, .fix 7 6], m, [b.toNat, a.toNat, d.toNat])
  | .sub64 m d a b => some ([.fld 7, .fld 7, .fld 7, .fix 3 1, .fix 7 6], m, [b.toNat, a.toNat, d.toNat])
  | .mul64 m d a b => some ([.fld 7, .fld 7, .fld 7, .fix 3 2, .fix 7 6], m, [b.toNat, a.toNat, d.toNat])
  | .mad64 m d a b => some ([.fld 7, .fld 7, .fld 7, .fix 3 3, .fix 7 6], m, [b.toNat, a.toNat, d.toNat])
  | .mulhiS64 m d a b => some ([.fld 7, .fld 7, .fld 7, .fix 3 4, .fix 7 6], m, [b.toNat, a.toNat, d.toNat])
  | .mulhiZ64 m d a b => some ([.fld 7, .fld 7, .fld 7, .fix 3 5, .fix 7 6], m, [b.toNat, a.toNat, d.toNat])
  | .abs64 m d a => some ([.fix 7 0, .fld 7, .fld 7, .fix 3 6, .fix 7 6], m, [a.toNat, d.toNat])
  | .neg64 m d a => some ([.fix 7 0, .fld 7, .fld 7, .fix 3 7, .fix 7 6], m, [a.toNat, d.toNat])
  | .addSc m d a b => some ([.fld 7, .fld 7, .fld 7, .fix 3 0, .fix 7 11], m, [b.toNat, a.toNat, d.toNat])
  | .subSc m d a b => some ([.fld 7, .fld 7, .fld 7, .fix 3 1, .fix 7 11], m, [b.toNat, a.toNat, d.toNat])
  | .mulSc m d a b => some ([.fld 7, .fld 7, .fld 7, .fix 3 2, .fix 7 11], m, [b.toNat, a.toNat, d.toNat])
  | .madSc m d a b => some ([.fld 7, .fld 7, .fld 7, .fix 3 3, .fix 7 11], m, [b.toNat, a.toNat, d.toNat])
  | .mulhiSSc m d a b => some ([.fld 7, .fld 7, .fld 7, .fix 3 4, .fix 7 11], m, [b.toNat, a.toNat, d.toNat])
  | .mulhiZSc m d a b => some ([.fld 7, .fld 7, .fld 7, .fix 3 5, .fix 7 11], m, [b.toNat, a.toNat, d.toNat])
  | .absSc m d a => some ([.fix 7 0, .fld 7, .fld 7, .fix 3 6, .fix 7 11], m, [a.toNat, d.toNat])
  | .negSc m d a => some ([.fix 7 0, .fld 7, .fld 7, .fix 3 7, .fix 7 11], m, [a.toNat, d.toNat])
  | .minS32 m d a b => some ([.fld 7, .fld 7, .fld 7, .fix 3 0, .fix 7 2], m, [b.toNat, a.toNat, d.toNat])
  | .minZ32 m d a b => some ([.fld 7, .fld 7, .fld 7, .fix 3 1, .fix 7 2], m, [b.toNat, a.toNat, d.toNat])
  | .maxS32 m d a b => some ([.fld 7, .fld 7, .fld 7, .fix 3 2, .fix 7 2], m, [b.toNat, a.toNat, d.toNat])
  | .maxZ32 m d a b => some ([.fld 7, .fld 7, .fld 7, .fix 3 3, .fix 7 2], m, [b.toNat, a.toNat, d.toNat])
  | .divS32 m d a b => some ([.fld 7, .fld 7, .fld 7, .fix 3 4, .fix 7 2], m, [b.toNat, a.toNat, d.toNat])
  | .divZ32 m d a b => some ([.fld 7, .fld 7, .fld 7, .fix 3 5, .fix 7 2], m, [b.toNat, a.toNat, d.toNat])
  | .remS32 m d a b => some ([.fld 7, .fld 7, .fld 7, .fix 3 6, .fix 7 2], m, [b.toNat, a.toNat, d.toNat])
  | .remZ32 m d a b => some ([.fld 7, .fld 7, .fld 7, .fix 3 7, .fix 7 2], m, [b.toNat, a.toNat, d.toNat])
  | .minS64 m d a b => some ([.fld 7, .fld 7, .fld 7, .fix 3 0, .fix 7 7], m, [b.toNat, a.toNat, d.toNat])
  | .minZ64 m d a b => some ([.fld 7, .fld 7, .fld 7, .fix 3 1, .fix 7 7], m, [b.toNat, a.toNat, d.toNat])
  | .maxS64 m d a b => some ([.fld 7, .fld 7, .fld 7, .fix 3 2, .fix 7 7], m, [b.toNat, a.toNat, d.toNat])
  | .maxZ64 m d a b => some ([.fld 7, .fld 7, .fld 7, .fix 3 3, .fix 7 7], m, [b.toNat, a.toNat, d.toNat])
  | .divS64 m d a b => some ([.fld 7, .fld 7, .fld 7, .fix 3 4, .fix 7 7], m, [b.toNat, a.toNat, d.toNat])
  | .divZ64 m d a b => some ([.fld 7, .fld 7, .fld 7, .fix 3 5, .fix 7 7], m, [b.toNat, a.toNat, d.toNat])
  | .remS64 m d a b => some ([.fld 7, .fld 7, .fld 7, .fix 3 6, .fix 7 7], m, [b.toNat, a.toNat, d.toNat])
  | .remZ64 m d a b => some ([.fld 7, .fld 7, .fld 7, .fix 3 7, .fix 7 7], m, [b.toNat, a.toNat, d.toNat])
  | .minSSc m d a b => some ([.fld 7, .fld 7, .fld 7, .fix 3 0, .fix 7 12], m, [b.toNat, a.toNat, d.toNat])
  | .minZSc m d a b => some ([.fld 7, .fld 7, .fld 7, .fix 3 1, .fix 7 12], m, [b.toNat, a.toNat, d.toNat])
  | .maxSSc m d a b => some ([.fld 7, .fld 7, .fld 7, .fix 3 2, .fix 7 12], m, [b.toNat, a.toNat, d.toNat])
  | .maxZSc m d a b => some ([.fld 7, .fld 7, .fld 7, .fix 3 3, .fix 7 12], m, [b.toNat, a.toNat, d.toNat])
  | .divSSc m d a b => some ([.fld 7, .fld 7, .fld 7, .fix 3 4, .fix 7 12], m, [b.toNat, a.toNat, d.toNat])
  | .divZSc m d a b => some ([.fld 7, .fld 7, .fld 7, .fix 3 5, .fix 7 12], m, [b.toNat, a.toNat, d.toNat])
  | .remSSc m d a b => some ([.fld 7, .fld 7, .fld 7, .fix 3 6, .fix 7 12], m, [b.toNat, a.toNat, d.toNat])
  | .remZSc m d a b => some ([.fld 7, .fld 7, .fld 7, .fix 3 7, .fix 7 12], m, [b.toNat, a.toNat, d.toNat])
  | .and32 m d a b => some ([.fld 7, .fld 7, .fld 7, .fix 3 0, .fix 7 3], m, [b.toNat, a.toNat, d.toNat])
  | .or32 m d a b => some ([.fld 7, .fld 7, .fld 7, .fix 3 1, .fix 7 3], m, [b.toNat, a.toNat, d.toNat])
  | .xor32 m d a b => some ([.fld 7, .fld 7, .fld 7, .fix 3 2, .fix 7 3], m, [b.toNat, a.toNat, d.toNat])
  | .not32 m d a => some ([.fix 7 0, .fld 7, .fld 7, .fix 3 3, .fix 7 3], m, [a.toNat, d.toNat])
  | .popc32 m d a => some ([.fix 7 0, .fld 7, .fld 7, .fix 3 4, .fix 7 3], m, [a.toNat, d.toNat])
  | .clz32 m d a => some ([.fix 7 0, .fld 7, .fld 7, .fix 3 5, .fix 7 3], m, [a.toNat, d.toNat])
  | .ctz32 m d a => some ([.fix 7 0, .fld 7, .fld 7, .fix 3 6, .fix 7 3], m, [a.toNat, d.toNat])
  | .brev32 m d a => some ([.fix 7 0, .fld 7, .fld 7, .fix 3 7, .fix 7 3], m, [a.toNat, d.toNat])
  | .and64 m d a b => some ([.fld 7, .fld 7, .fld 7, .fix 3 0, .fix 7 8], m, [b.toNat, a.toNat, d.toNat])
  | .or64 m d a b => some ([.fld 7, .fld 7, .fld 7, .fix 3 1, .fix 7 8], m, [b.toNat, a.toNat, d.toNat])
  | .xor64 m d a b => some ([.fld 7, .fld 7, .fld 7, .fix 3 2, .fix 7 8], m, [b.toNat, a.toNat, d.toNat])
  | .not64 m d a => some ([.fix 7 0, .fld 7, .fld 7, .fix 3 3, .fix 7 8], m, [a.toNat, d.toNat])
  | .popc64 m d a => some ([.fix 7 0, .fld 7, .fld 7, .fix 3 4, .fix 7 8], m, [a.toNat, d.toNat])
  | .clz64 m d a => some ([.fix 7 0, .fld 7, .fld 7, .fix 3 5, .fix 7 8], m, [a.toNat, d.toNat])
  | .ctz64 m d a => some ([.fix 7 0, .fld 7, .fld 7, .fix 3 6, .fix 7 8], m, [a.toNat, d.toNat])
  | .brev64 m d a => some ([.fix 7 0, .fld 7, .fld 7, .fix 3 7, .fix 7 8], m, [a.toNat, d.toNat])
  | .andSc m d a b => some ([.fld 7, .fld 7, .fld 7, .fix 3 0, .fix 7 13], m, [b.toNat, a.toNat, d.toNat])
  | .orSc m d a b => some ([.fld 7, .fld 7, .fld 7, .fix 3 1, .fix 7 13], m, [b.toNat, a.toNat, d.toNat])
  | .xorSc m d a b => some ([.fld 7, .fld 7, .fld 7, .fix 3 2, .fix 7 13], m, [b.toNat, a.toNat, d.toNat])
  | .notSc m d a => some ([.fix 7 0, .fld 7, .fld 7, .fix 3 3, .fix 7 13], m, [a.toNat, d.toNat])
  | .popcSc m d a => some ([.fix 7 0, .fld 7, .fld 7, .fix 3 4, .fix 7 13], m, [a.toNat, d.toNat])
  | .clzSc m d a => some ([.fix 7 0, .fld 7, .fld 7, .fix 3 5, .fix 7 13], m, [a.toNat, d.toNat])
  | .ctzSc m d a => some ([.fix 7 0, .fld 7, .fld 7, .fix 3 6, .fix 7 13], m, [a.toNat, d.toNat])
  | .brevSc m d a => some ([.fix 7 0, .fld 7, .fld 7, .fix 3 7, .fix 7 13], m, [a.toNat, d.toNat])
  | .shl32 m d a b => some ([.fld 7, .fld 7, .fld 7, .fix 3 0, .fix 7 4], m, [b.toNat, a.toNat, d.toNat])
  | .shr32 m d a b => some ([.fld 7, .fld 7, .fld 7, .fix 3 1, .fix 7 4], m, [b.toNat, a.toNat, d.toNat])
  | .sar32 m d a b => some ([.fld 7, .fld 7, .fld 7, .fix 3 2, .fix 7 4], m, [b.toNat, a.toNat, d.toNat])
  | .rotl32 m d a b => some ([.fld 7, .fld 7, .fld 7, .fix 3 3, .fix 7 4], m, [b.toNat, a.toNat, d.toNat])
  | .bfxS32 m d a b => some ([.fld 7, .fld 7, .fld 7, .fix 3 4, .fix 7 4], m, [b.toNat, a.toNat, d.toNat])
  | .bfxZ32 m d a b => some ([.fld 7, .fld 7, .fld 7, .fix 3 5, .fix 7 4], m, [b.toNat, a.toNat, d.toNat])
  | .bfi32 m d a b => some ([.fld 7, .fld 7, .fld 7, .fix 3 6, .fix 7 4], m, [b.toNat, a.toNat, d.toNat])
  | .shl64 m d a b => some ([.fld 7, .fld 7, .fld 7, .fix 3 0, .fix 7 9], m, [b.toNat, a.toNat, d.toNat])
  | .shr64 m d a b => some ([.fld 7, .fld 7, .fld 7, .fix 3 1, .fix 7 9], m, [b.toNat, a.toNat, d.toNat])
  | .sar64 m d a b => some ([.fld 7, .fld 7, .fld 7, .fix 3 2, .fix 7 9], m, [b.toNat, a.toNat, d.toNat])
  | .rotl64 m d a b => some ([.fld 7, .fld 7, .fld 7, .fix 3 3, .fix 7 9], m, [b.toNat, a.toNat, d.toNat])
  | .bfxS64 m d a b => some ([.fld 7, .fld 7, .fld 7, .fix 3 4, .fix 7 9], m, [b.toNat, a.toNat, d.toNat])
  | .bfxZ64 m d a b => some ([.fld 7, .fld 7, .fld 7, .fix 3 5, .fix 7 9], m, [b.toNat, a.toNat, d.toNat])
  | .bfi64 m d a b => some ([.fld 7, .fld 7, .fld 7, .fix 3 6, .fix 7 9], m, [b.toNat, a.toNat, d.toNat])
  | .shlSc m d a b => some ([.fld 7, .fld 7, .fld 7, .fix 3 0, .fix 7 14], m, [b.toNat, a.toNat, d.toNat])
  | .shrSc m d a b => some ([.fld 7, .fld 7, .fld 7, .fix 3 1, .fix 7 14], m, [b.toNat, a.toNat, d.toNat])
  | .sarSc m d a b => some ([.fld 7, .fld 7, .fld 7, .fix 3 2, .fix 7 14], m, [b.toNat, a.toNat, d.toNat])
  | .rotlSc m d a b => some ([.fld 7, .fld 7, .fld 7, .fix 3 3, .fix 7 14], m, [b.toNat, a.toNat, d.toNat])
  | .bfxSSc m d a b => some ([.fld 7, .fld 7, .fld 7, .fix 3 4, .fix 7 14], m, [b.toNat, a.toNat, d.toNat])
  | .bfxZSc m d a b => some ([.fld 7, .fld 7, .fld 7, .fix 3 5, .fix 7 14], m, [b.toNat, a.toNat, d.toNat])
  | .bfiSc m d a b => some ([.fld 7, .fld 7, .fld 7, .fix 3 6, .fix 7 14], m, [b.toNat, a.toNat, d.toNat])
  | .cmpEq32 m d a b => some ([.fld 7, .fld 7, .fld 3, .fix 4 8, .fix 3 0, .fix 7 5], m, [b.toNat, a.toNat, d.toNat])
  | .cmpNe32 m d a b => some ([.fld 7, .fld 7, .fld 3, .fix 4 8, .fix 3 1, .fix 7 5], m, [b.toNat, a.toNat, d.toNat])
  | .cmpLtS32 m d a b => some ([.fld 7, .fld 7, .fld 3, .fix 4 8, .fix 3 2, .fix 7 5], m, [b.toNat, a.toNat, d.toNat])
  | .cmpGeS32 m d a b => some ([.fld 7, .fld 7, .fld 3, .fix 4 8, .fix 3 3, .fix 7 5], m, [b.toNat, a.toNat, d.toNat])
  | .cmpLtZ32 m d a b => some ([.fld 7, .fld 7, .fld 3, .fix 4 8, .fix 3 4, .fix 7 5], m, [b.toNat, a.toNat, d.toNat])
  | .cmpGeZ32 m d a b => some ([.fld 7, .fld 7, .fld 3, .fix 4 8, .fix 3 5, .fix 7 5], m, [b.toNat, a.toNat, d.toNat])
  | .cmpTst32 m d a b => some ([.fld 7, .fld 7, .fld 3, .fix 4 8, .fix 3 6, .fix 7 5], m, [b.toNat, a.toNat, d.toNat])
  | .cmpEq64 m d a b => some ([.fld 7, .fld 7, .fld 3, .fix 4 8, .fix 3 0, .fix 7 10], m, [b.toNat, a.toNat, d.toNat])
  | .cmpNe64 m d a b => some ([.fld 7, .fld 7, .fld 3, .fix 4 8, .fix 3 1, .fix 7 10], m, [b.toNat, a.toNat, d.toNat])
  | .cmpLtS64 m d a b => some ([.fld 7, .fld 7, .fld 3, .fix 4 8, .fix 3 2, .fix 7 10], m, [b.toNat, a.toNat, d.toNat])
  | .cmpGeS64 m d a b => some ([.fld 7, .fld 7, .fld 3, .fix 4 8, .fix 3 3, .fix 7 10], m, [b.toNat, a.toNat, d.toNat])
  | .cmpLtZ64 m d a b => some ([.fld 7, .fld 7, .fld 3, .fix 4 8, .fix 3 4, .fix 7 10], m, [b.toNat, a.toNat, d.toNat])
  | .cmpGeZ64 m d a b => some ([.fld 7, .fld 7, .fld 3, .fix 4 8, .fix 3 5, .fix 7 10], m, [b.toNat, a.toNat, d.toNat])
  | .cmpTst64 m d a b => some ([.fld 7, .fld 7, .fld 3, .fix 4 8, .fix 3 6, .fix 7 10], m, [b.toNat, a.toNat, d.toNat])
  | .cmpEqSc m d a b => some ([.fld 7, .fld 7, .fld 3, .fix 4 8, .fix 3 0, .fix 7 15], m, [b.toNat, a.toNat, d.toNat])
  | .cmpNeSc m d a b => some ([.fld 7, .fld 7, .fld 3, .fix 4 8, .fix 3 1, .fix 7 15], m, [b.toNat, a.toNat, d.toNat])
  | .cmpLtSSc m d a b => some ([.fld 7, .fld 7, .fld 3, .fix 4 8, .fix 3 2, .fix 7 15], m, [b.toNat, a.toNat, d.toNat])
  | .cmpGeSSc m d a b => some ([.fld 7, .fld 7, .fld 3, .fix 4 8, .fix 3 3, .fix 7 15], m, [b.toNat, a.toNat, d.toNat])
  | .cmpLtZSc m d a b => some ([.fld 7, .fld 7, .fld 3, .fix 4 8, .fix 3 4, .fix 7 15], m, [b.toNat, a.toNat, d.toNat])
  | .cmpGeZSc m d a b => some ([.fld 7, .fld 7, .fld 3, .fix 4 8, .fix 3 5, .fix 7 15], m, [b.toNat, a.toNat, d.toNat])
  | .cmpTstSc m d a b => some ([.fld 7, .fld 7, .fld 3, .fix 4 8, .fix 3 6, .fix 7 15], m, [b.toNat, a.toNat, d.toNat])
  | .movVv m d a => some ([.fix 7 0, .fld 7, .fld 7, .fix 3 0, .fix 7 16], m, [a.toNat, d.toNat])
  | .movVs m d a => some ([.fix 7 0, .fld 7, .fld 7, .fix 3 1, .fix 7 16], m, [a.toNat, d.toNat])
  | .movSv m d a => some ([.fix 7 0, .fld 7, .fld 7, .fix 3 2, .fix 7 16], m, [a.toNat, d.toNat])
  | .movSs m d a => some ([.fix 7 0, .fld 7, .fld 7, .fix 3 3, .fix 7 16], m, [a.toNat, d.toNat])
  | .aadd m d a b => some ([.fld 6, .fix 1 0, .fld 6, .fix 1 0, .fld 6, .fix 1 0, .fix 3 4, .fix 7 16], m, [b.toNat, a.toNat, d.toNat])
  | .slid m d a b => some ([.fld 7, .fld 7, .fld 7, .fix 3 5, .fix 7 16], m, [b.toNat, a.toNat, d.toNat])
  | .sel m d a b => some ([.fld 7, .fld 3, .fix 4 8, .fld 7, .fix 3 6, .fix 7 16], m, [b.toNat, a.toNat, d.toNat])
  | .vshfl m d a b => some ([.fld 7, .fld 7, .fld 7, .fix 3 0, .fix 7 17], m, [b.toNat, a.toNat, d.toNat])
  | .vbcast m d a b => some ([.fld 7, .fld 7, .fld 7, .fix 3 1, .fix 7 17], m, [b.toNat, a.toNat, d.toNat])
  | .vrot m d a b => some ([.fld 7, .fld 7, .fld 7, .fix 3 2, .fix 7 17], m, [b.toNat, a.toNat, d.toNat])
  | .vconf m d a => some ([.fix 7 0, .fld 7, .fld 7, .fix 3 3, .fix 7 17], m, [a.toNat, d.toNat])
  | .vmatch m d a => some ([.fix 7 0, .fld 7, .fld 7, .fix 3 4, .fix 7 17], m, [a.toNat, d.toNat])
  | .vcompact m d a => some ([.fix 7 0, .fld 7, .fld 7, .fix 3 5, .fix 7 17], m, [a.toNat, d.toNat])
  | .vballot m d a => some ([.fix 7 0, .fld 7, .fld 7, .fix 3 6, .fix 7 17], m, [a.toNat, d.toNat])
  | .vscan m f d a b => some ([.fld 7, .fld 7, .fld 7, .fld 3, .fix 7 18], m, [b.toNat, a.toNat, d.toNat, f.toNat])
  | .vred m f d a => some ([.fix 7 0, .fld 7, .fld 7, .fld 3, .fix 7 19], m, [a.toNat, d.toNat, f.toNat])
  | .vcomb m f d a b => some ([.fld 7, .fld 7, .fld 7, .fld 3, .fix 7 20], m, [b.toNat, a.toNat, d.toNat, f.toNat])
  | .moviV m d i => some ([.fld 17, .fld 7, .fix 7 21], m, [i.toNat, d.toNat])
  | .moviS m d i => some ([.fld 17, .fld 7, .fix 7 22], m, [i.toNat, d.toNat])
  | .moviHi m d i => some ([.fld 17, .fld 7, .fix 7 23], m, [i.toNat, d.toNat])
  | .cvt m d a t u => some ([.fld 5, .fld 5, .fld 7, .fld 7, .fix 7 24], m, [u.toNat, t.toNat, a.toNat, d.toNat])
  | .lea m d a i => some ([.fld 10, .fld 6, .fix 1 0, .fld 6, .fix 1 0, .fix 7 25], m, [i.toNat, a.toNat, d.toNat])
  | .rgetX m d a i => some ([.fld 10, .fld 2, .fix 5 18, .fld 7, .fix 7 26], m, [i.toNat, a.toNat, d.toNat])
  | .rputX m d a i => some ([.fld 10, .fld 2, .fix 5 18, .fld 7, .fix 7 27], m, [i.toNat, a.toNat, d.toNat])
  | .xadd m d a i => some ([.fld 10, .fld 2, .fix 5 18, .fld 2, .fix 2 2, .fix 3 4, .fix 7 28], m, [i.toNat, a.toNat, d.toNat])
  | .xset m d i => some ([.fld 17, .fld 2, .fix 2 2, .fix 3 4, .fix 7 29], m, [i.toNat, d.toNat])
  | .rdid m d n => some ([.fld 3, .fix 14 0, .fld 7, .fix 7 30], m, [n.toNat, d.toNat])
  | .wbase m a => some ([.fix 7 0, .fld 7, .fix 7 0, .fix 3 0, .fix 7 31], m, [a.toNat])
  | .extAcq m n => some ([.fld 3, .fix 18 0, .fix 3 1, .fix 7 31], m, [n.toNat])
  | .extRel m => some ([.fix 21 0, .fix 3 2, .fix 7 31], m, [])
  | .faddF64 m d a b => some ([.fld 7, .fld 7, .fld 7, .fix 3 0, .fix 7 32], m, [b.toNat, a.toNat, d.toNat])
  | .fsubF64 m d a b => some ([.fld 7, .fld 7, .fld 7, .fix 3 1, .fix 7 32], m, [b.toNat, a.toNat, d.toNat])
  | .fmulF64 m d a b => some ([.fld 7, .fld 7, .fld 7, .fix 3 2, .fix 7 32], m, [b.toNat, a.toNat, d.toNat])
  | .fmaF64 m d a b => some ([.fld 7, .fld 7, .fld 7, .fix 3 3, .fix 7 32], m, [b.toNat, a.toNat, d.toNat])
  | .fminF64 m d a b => some ([.fld 7, .fld 7, .fld 7, .fix 3 4, .fix 7 32], m, [b.toNat, a.toNat, d.toNat])
  | .fmaxF64 m d a b => some ([.fld 7, .fld 7, .fld 7, .fix 3 5, .fix 7 32], m, [b.toNat, a.toNat, d.toNat])
  | .fnegF64 m d a => some ([.fix 7 0, .fld 7, .fld 7, .fix 3 6, .fix 7 32], m, [a.toNat, d.toNat])
  | .fabsF64 m d a => some ([.fix 7 0, .fld 7, .fld 7, .fix 3 7, .fix 7 32], m, [a.toNat, d.toNat])
  | .faddF32 m d a b => some ([.fld 7, .fld 7, .fld 7, .fix 3 0, .fix 7 33], m, [b.toNat, a.toNat, d.toNat])
  | .fsubF32 m d a b => some ([.fld 7, .fld 7, .fld 7, .fix 3 1, .fix 7 33], m, [b.toNat, a.toNat, d.toNat])
  | .fmulF32 m d a b => some ([.fld 7, .fld 7, .fld 7, .fix 3 2, .fix 7 33], m, [b.toNat, a.toNat, d.toNat])
  | .fmaF32 m d a b => some ([.fld 7, .fld 7, .fld 7, .fix 3 3, .fix 7 33], m, [b.toNat, a.toNat, d.toNat])
  | .fminF32 m d a b => some ([.fld 7, .fld 7, .fld 7, .fix 3 4, .fix 7 33], m, [b.toNat, a.toNat, d.toNat])
  | .fmaxF32 m d a b => some ([.fld 7, .fld 7, .fld 7, .fix 3 5, .fix 7 33], m, [b.toNat, a.toNat, d.toNat])
  | .fnegF32 m d a => some ([.fix 7 0, .fld 7, .fld 7, .fix 3 6, .fix 7 33], m, [a.toNat, d.toNat])
  | .fabsF32 m d a => some ([.fix 7 0, .fld 7, .fld 7, .fix 3 7, .fix 7 33], m, [a.toNat, d.toNat])
  | .faddBf16 m d a b => some ([.fld 7, .fld 7, .fld 7, .fix 3 0, .fix 7 34], m, [b.toNat, a.toNat, d.toNat])
  | .fsubBf16 m d a b => some ([.fld 7, .fld 7, .fld 7, .fix 3 1, .fix 7 34], m, [b.toNat, a.toNat, d.toNat])
  | .fmulBf16 m d a b => some ([.fld 7, .fld 7, .fld 7, .fix 3 2, .fix 7 34], m, [b.toNat, a.toNat, d.toNat])
  | .fmaBf16 m d a b => some ([.fld 7, .fld 7, .fld 7, .fix 3 3, .fix 7 34], m, [b.toNat, a.toNat, d.toNat])
  | .fminBf16 m d a b => some ([.fld 7, .fld 7, .fld 7, .fix 3 4, .fix 7 34], m, [b.toNat, a.toNat, d.toNat])
  | .fmaxBf16 m d a b => some ([.fld 7, .fld 7, .fld 7, .fix 3 5, .fix 7 34], m, [b.toNat, a.toNat, d.toNat])
  | .fnegBf16 m d a => some ([.fix 7 0, .fld 7, .fld 7, .fix 3 6, .fix 7 34], m, [a.toNat, d.toNat])
  | .fabsBf16 m d a => some ([.fix 7 0, .fld 7, .fld 7, .fix 3 7, .fix 7 34], m, [a.toNat, d.toNat])
  | .faddF16 m d a b => some ([.fld 7, .fld 7, .fld 7, .fix 3 0, .fix 7 35], m, [b.toNat, a.toNat, d.toNat])
  | .fsubF16 m d a b => some ([.fld 7, .fld 7, .fld 7, .fix 3 1, .fix 7 35], m, [b.toNat, a.toNat, d.toNat])
  | .fmulF16 m d a b => some ([.fld 7, .fld 7, .fld 7, .fix 3 2, .fix 7 35], m, [b.toNat, a.toNat, d.toNat])
  | .fmaF16 m d a b => some ([.fld 7, .fld 7, .fld 7, .fix 3 3, .fix 7 35], m, [b.toNat, a.toNat, d.toNat])
  | .fminF16 m d a b => some ([.fld 7, .fld 7, .fld 7, .fix 3 4, .fix 7 35], m, [b.toNat, a.toNat, d.toNat])
  | .fmaxF16 m d a b => some ([.fld 7, .fld 7, .fld 7, .fix 3 5, .fix 7 35], m, [b.toNat, a.toNat, d.toNat])
  | .fnegF16 m d a => some ([.fix 7 0, .fld 7, .fld 7, .fix 3 6, .fix 7 35], m, [a.toNat, d.toNat])
  | .fabsF16 m d a => some ([.fix 7 0, .fld 7, .fld 7, .fix 3 7, .fix 7 35], m, [a.toNat, d.toNat])
  | .fcmpF64 m f d a b => some ([.fld 7, .fld 7, .fld 3, .fix 4 8, .fld 3, .fix 7 36], m, [b.toNat, a.toNat, d.toNat, f.toNat])
  | .fcmpF32 m f d a b => some ([.fld 7, .fld 7, .fld 3, .fix 4 8, .fld 3, .fix 7 37], m, [b.toNat, a.toNat, d.toNat, f.toNat])
  | .fcmpBf16 m f d a b => some ([.fld 7, .fld 7, .fld 3, .fix 4 8, .fld 3, .fix 7 38], m, [b.toNat, a.toNat, d.toNat, f.toNat])
  | .fcmpF16 m f d a b => some ([.fld 7, .fld 7, .fld 3, .fix 4 8, .fld 3, .fix 7 39], m, [b.toNat, a.toNat, d.toNat, f.toNat])
  | .fclass m f d a => some ([.fix 7 0, .fld 7, .fld 7, .fld 3, .fix 7 40], m, [a.toNat, d.toNat, f.toNat])
  | .vnzmask m f d a => some ([.fix 7 0, .fld 7, .fld 7, .fld 3, .fix 7 41], m, [a.toNat, d.toNat, f.toNat])
  | .fdivF32 m d a b => some ([.fld 7, .fld 7, .fld 7, .fix 3 0, .fix 7 48], m, [b.toNat, a.toNat, d.toNat])
  | .fsqrtF32 m d a => some ([.fix 7 0, .fld 7, .fld 7, .fix 3 1, .fix 7 48], m, [a.toNat, d.toNat])
  | .frcpF32 m d a => some ([.fix 7 0, .fld 7, .fld 7, .fix 3 2, .fix 7 48], m, [a.toNat, d.toNat])
  | .frsqF32 m d a => some ([.fix 7 0, .fld 7, .fld 7, .fix 3 3, .fix 7 48], m, [a.toNat, d.toNat])
  | .fex2F32 m d a => some ([.fix 7 0, .fld 7, .fld 7, .fix 3 4, .fix 7 48], m, [a.toNat, d.toNat])
  | .flg2F32 m d a => some ([.fix 7 0, .fld 7, .fld 7, .fix 3 5, .fix 7 48], m, [a.toNat, d.toNat])
  | .fsinF32 m d a => some ([.fix 7 0, .fld 7, .fld 7, .fix 3 6, .fix 7 48], m, [a.toNat, d.toNat])
  | .fcosF32 m d a => some ([.fix 7 0, .fld 7, .fld 7, .fix 3 7, .fix 7 48], m, [a.toNat, d.toNat])
  | .fdivF64 m d a b => some ([.fld 7, .fld 7, .fld 7, .fix 3 0, .fix 7 49], m, [b.toNat, a.toNat, d.toNat])
  | .fsqrtF64 m d a => some ([.fix 7 0, .fld 7, .fld 7, .fix 3 1, .fix 7 49], m, [a.toNat, d.toNat])
  | .frcpF64 m d a => some ([.fix 7 0, .fld 7, .fld 7, .fix 3 2, .fix 7 49], m, [a.toNat, d.toNat])
  | .frsqF64 m d a => some ([.fix 7 0, .fld 7, .fld 7, .fix 3 3, .fix 7 49], m, [a.toNat, d.toNat])
  | .ferfF32 m d a => some ([.fix 7 0, .fld 7, .fld 7, .fix 3 0, .fix 7 50], m, [a.toNat, d.toNat])
  | .fcvt m d a t u => some ([.fld 5, .fld 5, .fld 7, .fld 7, .fix 7 51], m, [u.toNat, t.toNat, a.toNat, d.toNat])
  | .fpack m f d a b => some ([.fld 7, .fld 7, .fld 7, .fld 3, .fix 7 52], m, [b.toNat, a.toNat, d.toNat, f.toNat])
  | .funpk m f d a b => some ([.fld 7, .fld 7, .fld 7, .fld 3, .fix 7 53], m, [b.toNat, a.toNat, d.toNat, f.toNat])
  | .fscale m f d a b => some ([.fld 7, .fld 7, .fld 7, .fld 3, .fix 7 54], m, [b.toNat, a.toNat, d.toNat, f.toNat])
  | .madd m d a b => some ([.fld 5, .fix 2 0, .fld 5, .fix 2 0, .fld 5, .fix 2 0, .fix 3 0, .fix 7 56], m, [b.toNat, a.toNat, d.toNat])
  | .msub m d a b => some ([.fld 5, .fix 2 0, .fld 5, .fix 2 0, .fld 5, .fix 2 0, .fix 3 1, .fix 7 56], m, [b.toNat, a.toNat, d.toNat])
  | .mmul m d a b => some ([.fld 5, .fix 2 0, .fld 5, .fix 2 0, .fld 5, .fix 2 0, .fix 3 2, .fix 7 56], m, [b.toNat, a.toNat, d.toNat])
  | .mscale m d a b => some ([.fld 7, .fld 5, .fix 2 0, .fld 5, .fix 2 0, .fix 3 3, .fix 7 56], m, [b.toNat, a.toNat, d.toNat])
  | .mrelu m d a => some ([.fix 7 0, .fld 5, .fix 2 0, .fld 5, .fix 2 0, .fix 3 4, .fix 7 56], m, [a.toNat, d.toNat])
  | .mexp m d a => some ([.fix 7 0, .fld 5, .fix 2 0, .fld 5, .fix 2 0, .fix 3 5, .fix 7 56], m, [a.toNat, d.toNat])
  | .msigm m d a => some ([.fix 7 0, .fld 5, .fix 2 0, .fld 5, .fix 2 0, .fix 3 6, .fix 7 56], m, [a.toNat, d.toNat])
  | .mrcp m d a => some ([.fix 7 0, .fld 5, .fix 2 0, .fld 5, .fix 2 0, .fix 3 7, .fix 7 56], m, [a.toNat, d.toNat])
  | .mld m d a f p => some ([.fld 9, .fld 1, .fld 6, .fix 1 0, .fld 5, .fix 2 0, .fix 7 57], m, [p.toNat, f.toNat, a.toNat, d.toNat])
  | .mst m d a f p => some ([.fld 9, .fld 1, .fld 6, .fix 1 0, .fld 5, .fix 2 0, .fix 7 58], m, [p.toNat, f.toNat, a.toNat, d.toNat])
  | .mset m d a b => some ([.fld 7, .fld 7, .fld 5, .fix 2 0, .fix 3 0, .fix 7 59], m, [b.toNat, a.toNat, d.toNat])
  | .mmov m d a => some ([.fix 7 0, .fld 5, .fix 2 0, .fld 5, .fix 2 0, .fix 3 1, .fix 7 59], m, [a.toNat, d.toNat])
  | .mcvtMomMb16 m d a => some ([.fix 7 0, .fld 7, .fld 5, .fix 2 0, .fix 3 2, .fix 7 59], m, [a.toNat, d.toNat])
  | .mcvtMb16Mom m d a => some ([.fix 7 0, .fld 5, .fix 2 0, .fld 7, .fix 3 3, .fix 7 59], m, [a.toNat, d.toNat])
  | .mcolMean m d a => some ([.fix 7 0, .fld 5, .fix 2 0, .fld 7, .fix 3 4, .fix 7 59], m, [a.toNat, d.toNat])
  | .mcolVar m d a => some ([.fix 7 0, .fld 5, .fix 2 0, .fld 7, .fix 3 5, .fix 7 59], m, [a.toNat, d.toNat])
  | .mcolSd m d a => some ([.fix 7 0, .fld 5, .fix 2 0, .fld 7, .fix 3 6, .fix 7 59], m, [a.toNat, d.toNat])
  | .mcolSmp m d a b => some ([.fld 7, .fld 5, .fix 2 0, .fld 7, .fix 3 7, .fix 7 59], m, [b.toNat, a.toNat, d.toNat])
  | .ld m d a r w p => some ([.fld 6, .fld 3, .fld 1, .fld 6, .fix 1 0, .fld 7, .fix 7 64], m, [p.toNat, w.toNat, r.toNat, a.toNat, d.toNat])
  | .st m d a r w p => some ([.fld 6, .fld 3, .fld 1, .fld 6, .fix 1 0, .fld 7, .fix 7 65], m, [p.toNat, w.toNat, r.toNat, a.toNat, d.toNat])
  | .ldIndexed m w d a b => some ([.fld 7, .fld 6, .fix 1 0, .fld 7, .fld 3, .fix 7 66], m, [b.toNat, a.toNat, d.toNat, w.toNat])
  | .stIndexed m w d a b => some ([.fld 7, .fld 6, .fix 1 0, .fld 7, .fld 3, .fix 7 67], m, [b.toNat, a.toNat, d.toNat, w.toNat])
  | .lds m d a w p => some ([.fld 6, .fld 3, .fix 1 0, .fld 6, .fix 1 0, .fld 7, .fix 7 68], m, [p.toNat, w.toNat, a.toNat, d.toNat])
  | .sts m d a w p => some ([.fld 6, .fld 3, .fix 1 0, .fld 6, .fix 1 0, .fld 7, .fix 7 69], m, [p.toNat, w.toNat, a.toNat, d.toNat])
  | .ldp m d a w p => some ([.fld 6, .fld 3, .fix 1 0, .fld 6, .fix 1 0, .fld 6, .fix 1 0, .fix 7 70], m, [p.toNat, w.toNat, a.toNat, d.toNat])
  | .stp m d a w p => some ([.fld 6, .fld 3, .fix 1 0, .fld 6, .fix 1 0, .fld 6, .fix 1 0, .fix 7 71], m, [p.toNat, w.toNat, a.toNat, d.toNat])
  | .ldA72 m d a p => some ([.fld 6, .fix 4 5, .fld 6, .fix 1 0, .fld 6, .fix 1 0, .fix 7 70], m, [p.toNat, a.toNat, d.toNat])
  | .stA72 m d a p => some ([.fld 6, .fix 4 5, .fld 6, .fix 1 0, .fld 6, .fix 1 0, .fix 7 71], m, [p.toNat, a.toNat, d.toNat])
  | .ldAcq m d a c w p => some ([.fld 5, .fld 2, .fld 3, .fld 6, .fix 1 0, .fld 7, .fix 7 72], m, [p.toNat, w.toNat, c.toNat, a.toNat, d.toNat])
  | .stRel m d a c w p => some ([.fld 5, .fld 2, .fld 3, .fld 6, .fix 1 0, .fld 7, .fix 7 73], m, [p.toNat, w.toNat, c.toNat, a.toNat, d.toNat])
  | .stf m f d a b => some ([.fld 6, .fix 1 0, .fld 6, .fix 1 0, .fld 7, .fld 3, .fix 7 74], m, [b.toNat, a.toNat, d.toNat, f.toNat])
  | .fence m b => some ([.fld 3, .fix 18 0, .fix 3 0, .fix 7 75], m, [b.toNat])
  | .xfence m p q => some ([.fld 2, .fix 5 0, .fld 2, .fix 12 0, .fix 3 1, .fix 7 75], m, [q.toNat, p.toNat])
  | .cinv m a m_ => some ([.fld 1, .fix 6 0, .fld 7, .fix 7 0, .fix 3 2, .fix 7 75], m, [m_.toNat, a.toNat])
  | .cflush m a m_ => some ([.fld 2, .fix 5 0, .fld 7, .fix 7 0, .fix 3 3, .fix 7 75], m, [m_.toNat, a.toNat])
  | .pref m l a b => some ([.fld 7, .fld 6, .fix 1 0, .fld 4, .fix 3 0, .fix 3 4, .fix 7 75], m, [b.toNat, a.toNat, l.toNat])
  | .cchk m d a b => some ([.fld 7, .fld 6, .fix 1 0, .fld 7, .fix 3 0, .fix 7 76], m, [b.toNat, a.toNat, d.toNat])
  | .cinj m a b => some ([.fld 7, .fld 6, .fix 8 0, .fix 3 1, .fix 7 76], m, [b.toNat, a.toNat])
  | .nzcnt m f d a b => some ([.fld 7, .fld 6, .fix 1 0, .fld 7, .fld 3, .fix 7 76], m, [b.toNat, a.toNat, d.toNat, f.toNat])
  | .ldgSplit m w d a b => some ([.fld 7, .fld 6, .fix 1 0, .fld 7, .fld 3, .fix 7 77], m, [b.toNat, a.toNat, d.toNat, w.toNat])
  | .atombAdd m f d a o b => some ([.fld 4, .fld 3, .fld 7, .fld 7, .fld 3, .fix 7 78], m, [b.toNat, o.toNat, a.toNat, d.toNat, f.toNat])
  | .atomAdd m t d a o b => some ([.fld 4, .fld 3, .fld 7, .fld 7, .fld 3, .fix 7 80], m, [b.toNat, o.toNat, a.toNat, d.toNat, t.toNat])
  | .atomMin m t d a o b => some ([.fld 4, .fld 3, .fld 7, .fld 7, .fld 3, .fix 7 81], m, [b.toNat, o.toNat, a.toNat, d.toNat, t.toNat])
  | .atomMax m t d a o b => some ([.fld 4, .fld 3, .fld 7, .fld 7, .fld 3, .fix 7 82], m, [b.toNat, o.toNat, a.toNat, d.toNat, t.toNat])
  | .atomAnd m t d a o b => some ([.fld 4, .fld 3, .fld 7, .fld 7, .fld 3, .fix 7 83], m, [b.toNat, o.toNat, a.toNat, d.toNat, t.toNat])
  | .atomOr m t d a o b => some ([.fld 4, .fld 3, .fld 7, .fld 7, .fld 3, .fix 7 84], m, [b.toNat, o.toNat, a.toNat, d.toNat, t.toNat])
  | .atomXor m t d a o b => some ([.fld 4, .fld 3, .fld 7, .fld 7, .fld 3, .fix 7 85], m, [b.toNat, o.toNat, a.toNat, d.toNat, t.toNat])
  | .atomExch m t d a o b => some ([.fld 4, .fld 3, .fld 7, .fld 7, .fld 3, .fix 7 86], m, [b.toNat, o.toNat, a.toNat, d.toNat, t.toNat])
  | .atomCas m t d a o b => some ([.fld 4, .fld 3, .fld 7, .fld 7, .fld 3, .fix 7 87], m, [b.toNat, o.toNat, a.toNat, d.toNat, t.toNat])
  | .mm m h t a b => some ([.fld 7, .fld 7, .fld 5, .fld 5, .fix 7 88], m, [b.toNat, a.toNat, t.toNat, h.toNat])
  | .mmloop m h t a b => some ([.fld 7, .fld 7, .fld 5, .fld 5, .fix 7 89], m, [b.toNat, a.toNat, t.toNat, h.toNat])
  | .mmsp m h t a b => some ([.fld 7, .fld 7, .fld 5, .fld 5, .fix 7 90], m, [b.toNat, a.toNat, t.toNat, h.toNat])
  | .mmgat m h t a b => some ([.fld 7, .fld 7, .fld 5, .fld 5, .fix 7 91], m, [b.toNat, a.toNat, t.toNat, h.toNat])
  | .mmaMom m h t (a, b) => some ([.fld 7, .fld 7, .fld 5, .fld 5, .fix 7 92], m, [b.toNat, a.toNat, t.toNat, h.toNat])
  | .accz m t => some ([.fix 14 0, .fld 5, .fix 2 0, .fix 3 0, .fix 7 93], m, [t.toNat])
  | .accld m t a b => some ([.fld 6, .fix 1 0, .fld 6, .fix 1 0, .fld 5, .fix 2 0, .fix 3 1, .fix 7 93], m, [b.toNat, a.toNat, t.toNat])
  | .accst m t a b => some ([.fld 6, .fix 1 0, .fld 6, .fix 1 0, .fld 5, .fix 2 0, .fix 3 2, .fix 7 93], m, [b.toNat, a.toNat, t.toNat])
  | .accrd m t a => some ([.fix 7 0, .fld 7, .fld 5, .fix 2 0, .fix 3 3, .fix 7 93], m, [a.toNat, t.toNat])
  | .accwr m t a => some ([.fix 7 0, .fld 7, .fld 5, .fix 2 0, .fix 3 4, .fix 7 93], m, [a.toNat, t.toNat])
  | .shipW m d a e n => some ([.fix 3 0, .fld 3, .fld 1, .fld 6, .fix 1 0, .fld 7, .fix 3 0, .fix 7 96], m, [n.toNat, e.toNat, a.toNat, d.toNat])
  | .shipT m d a e n k => some ([.fld 3, .fld 3, .fld 1, .fld 6, .fix 1 0, .fld 7, .fix 3 1, .fix 7 96], m, [k.toNat, n.toNat, e.toNat, a.toNat, d.toNat])
  | .sret m d n => some ([.fld 3, .fix 11 0, .fld 7, .fix 3 2, .fix 7 96], m, [n.toNat, d.toNat])
  | .tkwait m d t => some ([.fld 3, .fix 11 0, .fld 7, .fix 3 3, .fix 7 96], m, [t.toNat, d.toNat])
  | .tktest m d t => some ([.fld 3, .fix 11 0, .fld 3, .fix 4 8, .fix 3 4, .fix 7 96], m, [t.toNat, d.toNat])
  | .launch m a q => some ([.fld 6, .fix 1 0, .fld 6, .fix 8 0, .fix 3 0, .fix 7 97], m, [q.toNat, a.toNat])
  | .trig m => some ([.fix 21 0, .fix 3 1, .fix 7 97], m, [])
  | .cpy m d a b => some ([.fld 6, .fix 1 0, .fld 6, .fix 1 0, .fld 6, .fix 1 0, .fix 3 0, .fix 7 98], m, [b.toNat, a.toNat, d.toNat])
  | .cpy2d m d a b => some ([.fld 6, .fix 1 0, .fld 6, .fix 1 0, .fld 6, .fix 1 0, .fix 3 1, .fix 7 98], m, [b.toNat, a.toNat, d.toNat])
  | .gnode m d a => some ([.fix 7 0, .fld 6, .fix 1 0, .fld 6, .fix 1 0, .fix 3 0, .fix 7 99], m, [a.toNat, d.toNat])
  | .gdep m a b => some ([.fld 6, .fix 1 0, .fld 6, .fix 8 0, .fix 3 1, .fix 7 99], m, [b.toNat, a.toNat])
  | .gsig m a => some ([.fix 7 0, .fld 6, .fix 8 0, .fix 3 2, .fix 7 99], m, [a.toNat])
  | .pfarrive m a => some ([.fix 7 0, .fld 6, .fix 8 0, .fix 3 0, .fix 7 100], m, [a.toNat])
  | .pfwait m a => some ([.fix 7 0, .fld 6, .fix 8 0, .fix 3 1, .fix 7 100], m, [a.toNat])
  | .pftest m d a => some ([.fix 7 0, .fld 6, .fix 1 0, .fld 3, .fix 4 8, .fix 3 2, .fix 7 100], m, [a.toNat, d.toNat])
  | .pause m i => some ([.fld 16, .fix 5 0, .fix 3 0, .fix 7 101], m, [i.toNat])
  | .yieldSave m => some ([.fix 21 0, .fix 3 0, .fix 7 102], m, [])
  | .bra m c o => some ([.fld 21, .fld 3, .fix 7 104], m, [o.toNat, c.toNat])
  | .call m c o => some ([.fld 21, .fld 3, .fix 7 105], m, [o.toNat, c.toNat])
  | .brx m a b => some ([.fld 7, .fld 6, .fix 8 0, .fix 3 0, .fix 7 106], m, [b.toNat, a.toNat])
  | .ret m => some ([.fix 21 0, .fix 3 1, .fix 7 106], m, [])
  | .exit m => some ([.fix 21 0, .fix 3 2, .fix 7 106], m, [])
  | .join m => some ([.fix 21 0, .fix 3 3, .fix 7 106], m, [])
  | .pri m p => some ([.fld 16, .fix 5 0, .fix 3 0, .fix 7 107], m, [p.toNat])
  | .barWg m => some ([.fix 21 0, .fix 3 0, .fix 7 112], m, [])
  | .barCon m a => some ([.fix 7 0, .fld 6, .fix 8 0, .fix 3 1, .fix 7 112], m, [a.toNat])
  | .regroup m a => some ([.fix 7 0, .fld 7, .fix 7 0, .fix 3 2, .fix 7 112], m, [a.toNat])
  | .regroupFlush m => some ([.fix 21 0, .fix 3 3, .fix 7 112], m, [])
  | .tktTake m n => some ([.fld 3, .fix 18 0, .fix 3 4, .fix 7 112], m, [n.toNat])
  | .tktWait m n => some ([.fld 3, .fix 18 0, .fix 3 5, .fix 7 112], m, [n.toNat])
  | .trap m n => some ([.fld 7, .fix 14 0, .fix 3 0, .fix 7 120], m, [n.toNat])
  | .tretRetry m => some ([.fix 21 0, .fix 3 1, .fix 7 120], m, [])
  | .tretSkip m => some ([.fix 21 0, .fix 3 2, .fix 7 120], m, [])
  | .brk m => some ([.fix 21 0, .fix 3 3, .fix 7 120], m, [])
  | .nop m => some ([.fix 21 0, .fix 3 4, .fix 7 120], m, [])
  | .exitFault m => some ([.fix 21 0, .fix 3 5, .fix 7 120], m, [])
  | .rdctl m d i => some ([.fld 10, .fix 7 0, .fld 7, .fix 7 121], m, [i.toNat, d.toNat])
  | .wrctl m a i => some ([.fld 10, .fld 7, .fix 4 0, .fix 3 0, .fix 7 122], m, [i.toNat, a.toNat])
  | .rdcnt m d i => some ([.fld 10, .fix 7 0, .fld 7, .fix 7 123], m, [i.toNat, d.toNat])
  | _ => none

/-- The modifiers of a coded instruction. -/
def Instr.mods (i : Instr) : Option Mods := i.parts.map (·.2.1)

/-- A well-formed instruction: a coded one whose operands and prefix pass steps 1 and 2 of R91. -/
def Instr.wellFormed (i : Instr) : Bool :=
  match i.mods with
  | some m => i.operandsOk && i.prefixOk m
  | none => false

/-- The words of a coded instruction, the prefix first (R74, R85, R86); an event has none. -/
def encode (i : Instr) : List Nat :=
  match i.parts with
  | none => []
  | some (segs, m, vs) =>
    let base := packSegs segs vs + m.sw.toNat * 2 ^ 31
    match m.pfx with
    | none => [base]
    | some p => [prefixWord p, base]

/-- The instruction the decoder reads from a table word: the low 32 bits are the first word, the next 32 the second, each laid
out as its four bytes, low byte first (R74). -/
def decodeTableWord (nbits w : Nat) : Option Instr :=
  let bits := w % 2 ^ nbits
  match decode (bytesOfWord (bits % 2 ^ 32) ++ bytesOfWord (bits / 2 ^ 32 % 2 ^ 32)) with
  | .ok i => some i
  | .error _ => none


end

end Sys2Proof
end

