-- ==== Sys2Proof/Machine/Moves.lean ====
section
/-!
DEFINITION. Sys2Proof/Machine/Moves.lean: what one step of the model does (log entry 1).
-/

namespace Sys2Proof.Machine

/-- What another module sends about a C1 message of the network (R380, R381, R486). -/
inductive C1 where
  /-- It NACKs a request or a retry, with this ticket. -/
  | nack (ticket : Nat)
  /-- It wakes the sender of a request that it has NACKed. -/
  | wake
  /-- The sender there has ended or was pre-empted: its ticket is to become void. -/
  | cancel
deriving DecidableEq, Repr, Inhabited

/-- Who moves next (log entry 1). Besides the rows of the opcode table: clocks of quarters, lantern cores and islands, lines that
come and go, reads and writes that take effect, and modules that become silent or answer again. -/
inductive Move where
  /-- A clock of a quarter of a core: it chooses a beam, whose two ports may issue (R377). `busy` are beams, as (workgroup key, number), that
  timing keeps from issuing in this clock; `old` picks, for each word fetched that the grid has overwritten since its eligibility, the old
  word (R75): bits 0 and 1 for the primary port's prefix or only word and its base word, 2 and 3 for the second port's; `swap`: of two memory
  accesses, the second port's comes first (R306). -/
  | issue (core quarter : Nat) (busy : List (Nat × Nat)) (old : Nat) (swap : Bool)
  /-- A clock of a lantern core: the section it runs issues an instruction (R404). -/
  | lantern (n old : Nat)
  | event (i : Instr)
  /-- A line leaves a cache, chosen as R251 says from the set that `line` falls into: of the core, or of `line`'s home slice where `core` is
  416. Where `core` is 417, the switch slices drop `line`, and where it is 418, they take it (R249, R251, R295). -/
  | evict (core line : Nat)
  /-- A read by a lane's thread of an aligned block of 8 or, where `wide`, 16 bytes takes effect at its home point ahead of its turn (R278). -/
  | glance (a : Agent) (lane loc : Nat) (wide : Bool)
  /-- The line of an address comes into an agent's cache for a read that takes effect ahead of its turn (R278, R281). -/
  | take (a : Agent) (va : Nat)
  /-- A write reaches a workgroup's scratchpad (R270). -/
  | pool (wg index : Nat)
  /-- A section request of another module arrives; and what another module sends about a message of the network, given by its index. -/
  | foreign (r : ForeignReq)
  | abroad (index : Nat) (c : C1)
  /-- The Binnacle ends the reset sequence or the quiesce point that it has begun (R488, R494). -/
  | finish
  | tick (island : Nat)
  | route (module : Nat) (up : Bool)
deriving DecidableEq, Repr, Inhabited

end Sys2Proof.Machine
end

