-- ==== Sys2Proof/Config.lean ====
section
/-!
DEFINITION. Sys2Proof/Config.lean: what the spec leaves open, as constants without a body. Nothing in Lean can evaluate them, so
a statement that holds, holds whatever they are.
-/

namespace Sys2Proof

/-- Which agent moves after `n` moves, where the agenda names none: the order of simultaneous events that the device chooses
(R269, R306, R357, R366, R380, R437; log entry 1). -/
opaque Config.schedule : Nat → Machine.Move

/-- How many moves the schedule picks, after `n` moves, before everything that is pending has its turn: R35 bounds no wait, and only promises
that it ends (log entry 1). -/
opaque Config.patience : Nat → Nat

/-- How many of the writes of a per-workgroup control register that need not be visible to another beam yet are not, for the instruction
of a move: by the move counter and the register (R148; log entry 6). -/
opaque Config.lag : Nat → Nat → Nat

/-- A free value, by a counter in State (log entry 6). -/
opaque Config.freeValue : Nat → BitVec 256

/-- The digest SM3 of the boot ROM's image of the module (R488, R491; log entry 7). -/
opaque Config.romDigest : BitVec 256

/-- The digest of the firmware image that stands in a flash slot at power-on; slot n holds the image that meas n + 1 measures (R490, R491;
log entry 7). -/
opaque Config.slotDigest : Nat → BitVec 256

/-- Whether an image's signature verifies under the module's keys, by its SM3 digest (R490; log entry 7). -/
opaque Config.signatureOk : BitVec 256 → Bool

/-- The bytes of the module's SM2 signature of a message under a distinguishing identifier; a signature takes a random number, here a
counter (R492; log entry 7). -/
opaque Config.sign : Nat → List (BitVec 8) → List (BitVec 8) → List (BitVec 8)

/-- The module's certificate bytes (R492; log entry 7). -/
opaque Config.certificate : Nat → BitVec 8

/-- The physical index of a die's n-th spare loop segment: how many segments its 24 loops have is not stated (R441; log entry 23). -/
opaque Config.spareSegment : Nat → Nat → Nat

/-- Which of the spares left a class and scope uses next (R442; log entry 23). -/
opaque Config.spareChoice : Nat → Nat → Nat → Nat

/-- The set that a line falls into, of a cache of a kind: 0 an L1, 1 a lantern core's caches, 2 an L2 slice. How lines are grouped is not
architectural (R251; log entry 17). -/
opaque Config.setOf : Nat → Nat → Nat

/-- The channel of a die, of 128 over its two stacks, that holds the word at a die offset: a fixed function that is not stated (R248; log
entry 24). -/
opaque Config.channelOf : Nat → Nat

end Sys2Proof
end

