-- ==== Sys2Proof/Machine/Chart.lean ====
section
/-!
DEFINITION. Sys2Proof/Machine/Chart.lean: the classes of units that have spares, the chart table's counts and the chart summary (spec
R441, R442, R496, R497).
-/

namespace Sys2Proof.Machine

/-- State of a physical unit (R441). -/
inductive UnitState where
  | inUse | spare | retired
deriving DecidableEq, Repr, Inhabited

/-! A part is a unit (R479, R496) or a part of one, numbered UNIT + 65,536 × (SUB + 1), or UNIT alone where SUB is 0xFFFF. -/

def partUnit (p : Nat) : Nat := p % 65536

/-- SUB as a report entry holds it. -/
def partSub (p : Nat) : Nat := if p / 65536 = 0 then 0xFFFF else p / 65536 - 1

/-- Class, scope and logical index within the scope of a part that the chart covers (R441): 0 cores, 1 lantern cores, 2 slices, 3 pool
granules, 4 channels, 5 loop segments, 6 die-link lanes, 7 fabric lanes. -/
def partPlace (p : Nat) : Option (Nat × Nat × Nat) :=
  let u := partUnit p
  let n := partSub p
  if n = 0xFFFF then
    if u < 288 then some (0, u / 36, u % 36)
    else if 0x8000 ≤ u ∧ u < 0x8080 then some (1, (u - 0x8000) / 16, u % 16)
    else if 0x4000 ≤ u ∧ u < 0x4100 then some (2, (u - 0x4000) / 32, u % 32)
    else if 0x2000 ≤ u ∧ u < 0x2400 then some (4, (u - 0x2000) / 64, u % 64)
    else none
  else if u < 288 ∧ n < 128 then some (3, u, n)
  else if 0x800 ≤ u ∧ u < 0x808 ∧ n < 256 then some (5, u - 0x800, n)
  else if 0x900 ≤ u ∧ u < 0x940 ∧ n < 32 then some (6, u - 0x900, n)
  else if 0xA00 ≤ u ∧ u < 0xA10 ∧ n < 8 then some (7, u - 0xA00, n)
  else none

/-- Spare units of a class in each scope (R441). -/
def classSpares (c : Nat) : Nat := [4, 2, 2, 8, 4, 8, 2, 1].getD c 0

/-- Key of a physical unit: class, scope, physical index. -/
def chartKey (c scope i : Nat) : Nat := c * 2 ^ 32 + scope * 2 ^ 16 + i

/-- Units of a class and scope that have been retired. -/
def retiredIn (chart : List (Nat × UnitState)) (c scope : Nat) : Nat :=
  chart.countP fun (k, st) => st == .retired && k / 2 ^ 16 == c * 2 ^ 16 + scope

/-- Logical units of a class in each scope (R441). -/
def logicalCount (c : Nat) : Nat := [36, 16, 32, 128, 64, 0, 32, 8].getD c 0

/-- Physical indices of the SPARE units of a class whose logical units are numbered: those the chart has never moved (R441). -/
def spareUnits (chart : List (Nat × UnitState)) (c scope : Nat) : List Nat :=
  ((List.range (classSpares c)).map fun i => logicalCount c + i).filter fun i => chart.all fun (k, _) => k != chartKey c scope i

/-- Spares a class and scope has left (R442). -/
def sparesLeft (chart : List (Nat × UnitState)) (c scope : Nat) : Nat :=
  if c = 5 then classSpares c - retiredIn chart c scope else (spareUnits chart c scope).length

/-- The least of some numbers, or `d` where there is none. -/
def leastOf (d : Nat) (xs : List Nat) : Nat := xs.foldl min d

/-- Scopes of the die links of a die. -/
def linksOf (d : Nat) : List Nat := (List.range 8).filterMap fun e => if e = d then none else some (8 * min d e + max d e)

/-- The chart summary (R497). A die's die-link byte is the least over its links (log entry 9). -/
def chartSummary (chart : List (Nat × UnitState)) : List Byte :=
  let left := sparesLeft chart
  let die := fun (d : Nat) =>
    let granules := (List.range 36).map fun c => left 3 (36 * d + c)
    [left 0 d, left 1 d, left 2 d, left 5 d, leastOf 2 ((linksOf d).map (left 6)), left 4 (2 * d), left 4 (2 * d + 1), 0,
     granules.sum % 256, granules.sum / 256, leastOf 8 granules, 0, 0, 0, 0, 0]
  (((List.range 8).flatMap die) ++ ((List.range 16).map fun p => left 7 p) ++ List.replicate 16 0).map (BitVec.ofNat 8)

end Sys2Proof.Machine
end

