-- ==== Sys2Proof/Machine/Lcc.lean ====
section
/-!
DEFINITION. Sys2Proof/Machine/Lcc.lean: the check code that travels with every 32-bit word (spec R69 to R73).
-/

namespace Sys2Proof.Machine

/-- The columns H[j] of the data bits (R70). -/
def lccColumns : List Nat :=
  [0x31, 0x52, 0x64, 0x98, 0x51, 0x62, 0x94, 0xA8, 0x61, 0x92, 0xA4, 0xC8, 0x91, 0xA2, 0xC4, 0xF8,
   0x13, 0x25, 0x46, 0x89, 0x15, 0x26, 0x49, 0x8A, 0x16, 0x29, 0x4A, 0x8C, 0x19, 0x2A, 0x4C, 0x8F]

/-- The XOR of the columns of the bits set in `d`, the columns listed from bit 0 of `d` upward (R69). -/
def lccFold : List Nat → Nat → Nat
  | [], _ => 0
  | h :: hs, d => (if d % 2 = 1 then h else 0) ^^^ lccFold hs (d / 2)

/-- `lcc_make` (R69). -/
def lccMake (d : Word) : Byte := .ofNat 8 (lccFold lccColumns d.toNat)

/-- The codeword of freshly produced data (R132). -/
def CW.make (d : Word) : CW := ⟨d, lccMake d⟩

/-- What a check answers (R71). -/
inductive Checked where
  | ok (d : Word)
  | corrected (d : Word)
  | uncorrectable
deriving DecidableEq, Repr

/-- `lcc_check` (R71), its count left to the caller. -/
def lccCheck (w : CW) : Checked :=
  let s := (lccMake w.data ^^^ w.code).toNat
  if s = 0 then .ok w.data
  else match lccColumns.findIdx? (· == s) with
    | some j => .corrected (w.data ^^^ (1#32 <<< j))
    | none => if [1, 2, 4, 8, 16, 32, 64, 128].contains s then .corrected w.data else .uncorrectable

/-- The data a check passes on, where it passes any. -/
def Checked.data? : Checked → Option Word
  | .ok d => some d
  | .corrected d => some d
  | .uncorrectable => none

/-- Whether a check counts LCC_CORRECTED. -/
def Checked.isCorrected : Checked → Bool
  | .corrected _ => true
  | _ => false

/-- The description of a word's code that `cchk` writes (R326). -/
def lccDescribe (w : CW) : Nat :=
  let s := (lccMake w.data ^^^ w.code).toNat
  if s = 0 then 0
  else match lccColumns.findIdx? (· == s), [1, 2, 4, 8, 16, 32, 64, 128].findIdx? (· == s) with
    | some j, _ => 2 ^ 30 + j * 2 ^ 8 + s
    | none, some j => 2 * 2 ^ 30 + (32 + j) * 2 ^ 8 + s
    | none, none => 3 * 2 ^ 30 + s

end Sys2Proof.Machine
end

