-- ==== Sys2Proof/Machine/Sm3.lean ====
section
/-!
DEFINITION. Sys2Proof/Machine/Sm3.lean: the SM3-256 digest that measurements use (spec R488, R491). The spec names the function; its
definition is PRESUMED from GB/T 32905 (log entry 8).
-/

namespace Sys2Proof.Machine

/-- Rotate a word left. -/
def rol (x : Word) (n : Nat) : Word := x.rotateLeft (n % 32)

def sm3P0 (x : Word) : Word := x ^^^ rol x 9 ^^^ rol x 17
def sm3P1 (x : Word) : Word := x ^^^ rol x 15 ^^^ rol x 23

/-- The two Boolean functions, by round. -/
def sm3FF (j : Nat) (x y z : Word) : Word := if j < 16 then x ^^^ y ^^^ z else (x &&& y) ||| (x &&& z) ||| (y &&& z)
def sm3GG (j : Nat) (x y z : Word) : Word := if j < 16 then x ^^^ y ^^^ z else (x &&& y) ||| (~~~x &&& z)

def sm3T (j : Nat) : Word := if j < 16 then 0x79CC4519#32 else 0x7A879D8A#32

/-- Extend 16 message words, kept newest first, by n more. -/
def sm3Expand : Nat → List Word → List Word
  | 0, ws => ws
  | n + 1, ws =>
    let w := fun k => ws.getD (k - 1) 0
    sm3Expand n ((sm3P1 (w 16 ^^^ w 9 ^^^ rol (w 3) 15) ^^^ rol (w 13) 7 ^^^ w 6) :: ws)

/-- The eight working words. -/
structure Sm3 where
  a : Word
  b : Word
  c : Word
  d : Word
  e : Word
  f : Word
  g : Word
  h : Word
deriving DecidableEq, Repr

def Sm3.init : Sm3 :=
  ⟨0x7380166F#32, 0x4914B2B9#32, 0x172442D7#32, 0xDA8A0600#32, 0xA96F30BC#32, 0x163138AA#32, 0xE38DEE4D#32, 0xB0FB0E4E#32⟩

/-- One round with message words w and w'. -/
def Sm3.round (v : Sm3) (j : Nat) (w w' : Word) : Sm3 :=
  let ss1 := rol (rol v.a 12 + v.e + rol (sm3T j) j) 7
  let ss2 := ss1 ^^^ rol v.a 12
  let tt1 := sm3FF j v.a v.b v.c + v.d + ss2 + w'
  let tt2 := sm3GG j v.e v.f v.g + v.h + ss1 + w
  ⟨tt1, v.a, rol v.b 9, v.c, sm3P0 tt2, v.e, rol v.f 19, v.g⟩

/-- Rounds from j on; `ws` holds W from word j. -/
def Sm3.rounds (v : Sm3) (j : Nat) : Nat → List Word → Sm3
  | 0, _ => v
  | n + 1, ws => (v.round j (ws.getD 0 0) (ws.getD 0 0 ^^^ ws.getD 4 0)).rounds (j + 1) n (ws.drop 1)

def Sm3.xor (a b : Sm3) : Sm3 :=
  ⟨a.a ^^^ b.a, a.b ^^^ b.b, a.c ^^^ b.c, a.d ^^^ b.d, a.e ^^^ b.e, a.f ^^^ b.f, a.g ^^^ b.g, a.h ^^^ b.h⟩

/-- Compress one block of 16 words. -/
def Sm3.block (v : Sm3) (ws : List Word) : Sm3 := (v.rounds 0 64 (sm3Expand 52 ws.reverse).reverse).xor v

/-- Big-endian words of bytes. -/
def bigWords : List Byte → List Word
  | a :: b :: c :: d :: rest => (a ++ b ++ c ++ d) :: bigWords rest
  | _ => []

def Sm3.blocks (v : Sm3) : Nat → List Word → Sm3
  | 0, _ => v
  | n + 1, ws => (v.block (ws.take 16)).blocks n (ws.drop 16)

/-- Big-endian bytes of a number. -/
def bigBytes : Nat → Nat → List Byte
  | 0, _ => []
  | n + 1, x => bigBytes n (x / 256) ++ [.ofNat 8 x]

/-- The digest of a message of bytes. -/
def sm3 (m : List Byte) : BitVec 256 :=
  let n := m.length
  let zeros := (119 - n % 64) % 64
  let ws := bigWords (m ++ [0x80#8] ++ List.replicate zeros 0 ++ bigBytes 8 (8 * n))
  let v := Sm3.init.blocks (ws.length / 16) ws
  v.a ++ v.b ++ v.c ++ v.d ++ v.e ++ v.f ++ v.g ++ v.h

/-- The bytes of a 32-byte value, first byte first. -/
def bytes32 (x : BitVec 256) : List Byte := bigBytes 32 x.toNat

/-- An extension (R491): the register becomes SM3-256 of itself followed by the value. -/
def measExtend (m v : BitVec 256) : BitVec 256 := sm3 (bytes32 m ++ bytes32 v)

end Sys2Proof.Machine
end

