-- ==== Sys2Proof/Machine/State.lean ====
section
/-!
DEFINITION. Sys2Proof/Machine/State.lean: everything the spec gives the machine to hold, as plain data; the reasons a step can
stop; and the machine right after reset. INVENTORY.md lists each piece with the rule of spec/ that names it.
-/

namespace Sys2Proof.Machine

/-- A map from numbers as a list with strictly rising keys. -/
abbrev SMap (α : Type) := List (Nat × α)

/-! ## Memory -/

/-- Bytes and check codes at addresses, each in the canonical form of `Host.Cell` lists: addresses strictly rising, no entry
equal to what an unlisted address reads as, which is 0 (R243, R488 step 5). The code of the word at `a` stands at key `a`. -/
structure Mem where
  data : List Host.Cell
  codes : List Host.Cell
deriving DecidableEq, Repr, Inhabited

/-! ## Registers -/

/-- s0 to s63: 72 bits under three codes (R133). -/
structure SReg where
  v : BitVec 72
  c0 : Byte
  c1 : Byte
  c2 : Byte
deriving DecidableEq, Repr, Inhabited

/-- k0 to k7: 64 bits under two codes (R133). -/
structure KReg where
  v : BitVec 64
  c0 : Byte
  c1 : Byte
deriving DecidableEq, Repr, Inhabited

/-- x0 to x3: 16 bits signed under the code of its sign-extended word (R133). -/
structure XReg where
  v : BitVec 16
  code : Byte
deriving DecidableEq, Repr, Inhabited

/-- m0 to m31: a mean and a variance, each with its code (R57, R135). -/
structure Mom where
  mean : CW
  var : CW
deriving DecidableEq, Repr, Inhabited

/-! ## Race detection (R295 to R299) -/

/-- A synchronised-with set: (workgroup key, region) pairs, at most 16, and SAT (R296). -/
structure RSet where
  entries : List (Nat × Nat)
  sat : Bool
deriving DecidableEq, Repr, Inhabited

/-- A hidden stamp: the beacon-board entries of one release, as (die, sequence number) pairs (R297). -/
abbrev Stamp := List (Nat × Nat)

/-- A writer tag that is not NONE: launch, workgroup key, region and epoch (R295). -/
structure Tag where
  launch : Nat
  wg : Nat
  region : Nat
  epoch : Nat
deriving DecidableEq, Repr

/-- A read of a home point that a thread makes ahead of its turn: an aligned block of 8 or 16 bytes, as its words and their hidden stamps
(R271, R278, R281). -/
structure Glance where
  base : Nat
  words : List CW
  stamps : List (List Stamp)
deriving DecidableEq, Repr, Inhabited

/-! ## Token slots (R136, R397) -/

inductive SlotState where
  | free | pending | done
deriving DecidableEq, Repr, Inhabited

/-- A token slot; `scope` (coded as R104 does), `lock` and `pub` are the scope and the lock of its section, and the race set its result
hands to the collecting acquire (R297, R397, R407). -/
structure Slot where
  state : SlotState
  status : Nat
  count : Nat
  res : List CW
  scope : Nat
  lock : Nat
  pub : RSet
deriving DecidableEq, Repr, Inhabited

/-! ## Lanes and beams -/

/-- What one virtual lane of a beam holds (R14, R126, R135 to R137, R297, R397). -/
structure Lane where
  thread : Nat
  v : List CW
  x : List XReg
  m : List Mom
  /-- tk0 to tk7, then the wait slot. -/
  slots : List Slot
  exited : Bool
  /-- The stamps of the thread's release fences that no later one covers, and the relaxed or atomic reads since its previous acquire:
  location and stamps (R297). -/
  fences : List Stamp
  reads : List (Nat × List Stamp)
  /-- Reads at home points that took effect before earlier accesses of the thread (R278). -/
  early : List Glance
deriving DecidableEq, Repr, Inhabited

/-- What an entry of a frontier waits for (R422). A runnable entry may carry a switch-marker wait in `Entry.hold` (R80). -/
inductive EntryKind where
  | runnable
  | join
  | barWg
  | barCon (number : Nat)
  | pfwait (flag : Nat) (phase : Bool)
  /-- Waiting for the slot (8 is the wait slot of `ship.w`, R397) of the lanes in `active`; the results go to registers from `dst`, and
  with `zero` the other lanes' are zeroed (R397, R407). -/
  | tkwait (slot dst active : Nat) (zero : Bool)
  | extAcq
  | parked (record : Nat)
deriving DecidableEq, Repr, Inhabited

/-- A frontier entry (R422). `lanes` and `hold` are masks over virtual lanes; `hold` is the set of lanes whose outstanding
results the entry's path waits for (R80). -/
structure Entry where
  pc : Nat
  pri : Nat
  lanes : Nat
  kind : EntryKind
  hold : Nat
deriving DecidableEq, Repr, Inhabited

/-- A span of virtual addresses a page fault waits on (R160): its base, its level and its context. -/
structure Span where
  ctx : Nat
  base : Nat
  level : Nat
deriving DecidableEq, Repr, Inhabited

/-- Why a record is parked (R175). -/
inductive ParkCause where
  /-- A page fault on these spans; `addr` and `bits` are its `taddr` and access bits where it turns out fatal (R160). -/
  | page (spans : List Span) (addr bits : Nat)
  /-- A split gather: (lane, address) of each far lane not yet served, the first destination register and the width (R315). -/
  | split (far : List (Nat × Nat)) (dst width : Nat)
  /-- A NACKed `ship.w`: the lanes' requests wait at this lantern core; their results go to registers from `dst` (R381, R397). -/
  | nack (lantern dst : Nat)
  /-- Accesses of `size` bytes to a module that does not answer (R485): (lane, address, location) of each, their access bits, the module, and
  the clock of its core at which they began. -/
  | answer (asks : List (Nat × Nat × Nat)) (size bits module since : Nat)
  /-- The NACK of a `ship.t`, which has gone on: the lane waits here until its requests are accepted (R381; log entry 19). -/
  | ship
  /-- A page fault on the launch-queue slot that `launch` appends to (R410): the slot's address. -/
  | slot (span : Span) (addr : Nat)
deriving DecidableEq, Repr

/-- A parked record (R175). -/
structure Parked where
  cause : ParkCause
  pc : Nat
  pri : Nat
  lanes : Nat
  prefixed : Bool
  /-- The prefix word, where there is one, and the instruction word; none where the fetch itself faulted. -/
  words : List Nat
deriving DecidableEq, Repr

/-- A register write, whole, with its codes. -/
inductive RegWrite where
  | v (lane n : Nat) (w : CW)
  | s (n : Nat) (r : SReg)
  | k (n : Nat) (r : KReg)
  | x (lane n : Nat) (r : XReg)
  | m (lane n : Nat) (r : Mom)
deriving DecidableEq, Repr

/-- An outstanding result (R79 to R81): the write that will land and the lanes it is destined for. -/
structure Pend where
  write : RegWrite
  lanes : Nat
deriving DecidableEq, Repr

/-- A cause on its way to the trap registers (R145, R156): lanes is `tlanes`; `data` is `tdata`. -/
structure Cause where
  code : Nat
  detail : Nat
  lanes : Nat
  addr : Nat
  data : Nat
deriving DecidableEq, Repr, Inhabited

/-- A fatal page fault, or a section failure of a NACKed `ship.w` lane, waiting to trap at its instruction (R160, R397). -/
structure Fatal where
  cause : Cause
  pc : Nat
  prefixed : Bool
deriving DecidableEq, Repr

/-- A kind D cause waiting for its beam (R163, R165). `source` is the record's SOURCE (R384). -/
structure PendD where
  cause : Cause
  pc : Nat
  source : Nat
deriving DecidableEq, Repr

/-- A beam, or a section's beam of width one (R14 to R19, R126 to R151, R158 to R175, R422 to R427). -/
structure Beam where
  number : Nat
  /-- The quarter that holds it (R16); a regrouped beam keeps its own (R458). -/
  quarter : Nat
  width : Nat
  /-- 0 none, 1 copy, 2 matrix, 3 epilogue (R142). -/
  role : Nat
  base : Nat
  extDecl : Nat
  ext : Nat
  /-- Registers per lane that the latest `ext.acq` of the path that runs asked for, and that of the program while its handler runs (R166,
  R201). -/
  asked : Nat
  keptAsked : Nat
  /-- PHYS of each virtual lane (R427). -/
  phys : List Nat
  lanes : List Lane
  s : List SReg
  k : List KReg
  rm : Nat
  ftz : Bool
  nvc : Bool
  inh : Bool
  hck : Bool
  ord : Bool
  wb : Nat
  tcause : Nat
  tpc : Nat
  tlanes : Nat
  taddr : Nat
  tdata : Nat
  /-- The agent of the cause in `tcause`, for a record's SOURCE (R384). -/
  tsource : Nat
  held : Nat
  prefixed : Bool
  /-- `tpc` as handler entry wrote it: a double fault records it, and a `tpc` that differs redirects the return (R165, R166). -/
  entryPc : Nat
  /-- The frontier kept aside while the handler runs (R162, R426). -/
  kept : Option (List Entry)
  pendD : List PendD
  pendPreempt : Bool
  frontier : List Entry
  parked : SMap Parked
  fatals : List Fatal
  outstanding : List Pend
  /-- Operand latch: (register, reads left, lanes of the path that holds it), oldest first (R150). -/
  latch : List (Nat × Nat × Nat)
  /-- The clocks left of a pause, while it holds the beam at the lowered level (R378). -/
  paused : Option Nat
  regWait : Nat
  barStall : Nat
  pauseLoop : Nat
  /-- The counts of the three watchdogs kept aside while the handler runs: `regWait`, `barStall`, `pauseLoop` (R473). -/
  keptCounts : Nat × Nat × Nat
  yielded : Bool
  /-- The turn of its quarter in which it last issued, and the turns in a row in which it was ready and passed over, at that level (R377). -/
  lastTurn : Nat
  passed : Nat
  passedLevel : Nat
  /-- Clocks that a stall hint has held it since its last issue (R390). -/
  hinted : Nat
  /-- The latest group of 16 turns in which it issued, and its issues in it (R379). -/
  gang : Nat × Nat
deriving DecidableEq, Repr, Inhabited

/-- A fault record (R384), SEQ given when it is posted. -/
structure FaultRec where
  kind : Nat
  cause : Nat
  detail : Nat
  reason : Nat
  source : Nat
  level : Nat
  lid : Nat
  wg : Nat
  unit : Nat
  addr : Nat
  pc : Nat
  data : Nat
  lanes : Nat
  seq : Nat
deriving DecidableEq, Repr, Inhabited

/-! ## Workgroups and launches -/

/-- A write on its way to a workgroup's scratchpad: its path (0 THREAD, 1 COPY, 2 MATRIX), the offset of its word, and the word (R31,
R270). -/
structure PoolWrite where
  path : Nat
  off : Nat
  word : CW
deriving DecidableEq, Repr

/-- A lane waiting in a regroup bucket (R428). -/
structure Bucketed where
  quarter : Nat
  key : Nat
  seq : Nat
  beam : Nat
  lane : Nat
  /-- The address and priority at which a new beam starts: after the `regroup` (R429). -/
  pc : Nat
  pri : Nat
deriving DecidableEq, Repr

inductive WgStatus where
  /-- In its die's dispatch queue, its granules being zeroed or restored (R374, R243). -/
  | queued
  | resident
  /-- Pre-empted and not resident; its state stands in its save record (R171). -/
  | preempted
  /-- Every thread exited or terminated; engine commands drain before its granules are freed (R170, R363). -/
  | ended
deriving DecidableEq, Repr, Inhabited

/-- A write of a per-workgroup control register (0 to 7 for fmt0 to fmt7, 8 for `trapctl`) that other beams may not see yet: the beam that
wrote, the value before, and whether that beam has reached a `bar.wg` since (R148). -/
structure Unseen where
  beam : Nat
  reg : Nat
  old : Nat
  reached : Bool
deriving DecidableEq, Repr

/-- A workgroup (R20, R25, R126, R129 to R148, R242 to R245, R285, R286, R296, R454). -/
structure Wg where
  launch : Nat
  id : Nat
  ctx : Nat
  core : Nat
  status : WgStatus
  /-- Pre-emption of it has begun (R171, R172); `deadline`: the deadline has expired, and the hardware full save runs. -/
  preempting : Bool
  deadline : Bool
  frame : Option Nat
  /-- The order in which workgroups were dispatched (R376). -/
  dispatched : Nat
  rf : Nat
  sp : Nat
  acc : Nat
  width : Nat
  threads : Nat
  moment : Bool
  psave : Bool
  brk : Bool
  trapvec : Nat
  fmt : List Word
  /-- Writes of fmt0 to fmt7 and `trapctl`, oldest first (R148). -/
  unseen : List Unseen
  scratch : Mem
  /-- Writes on their way to the scratchpad, oldest first (R31, R270). -/
  pool : List PoolWrite
  /-- Accumulator words that are not zero with code 0, keyed granule × 4,096 + word (R245, R330). -/
  tiles : SMap CW
  beams : SMap Beam
  reserve : Nat
  /-- Requests for an extended block, in grant order: beam and registers per lane (R130). -/
  extQueue : List (Nat × Nat)
  extIndex : Nat
  barArrived : Nat
  barGen : Nat
  /-- Threads counted in the current generation, as a mask (R456). -/
  barThreads : Nat
  /-- The service island's clock at which PREEMPT was raised (R466, R472). -/
  raised : Nat
  /-- It held a graph node when it yielded or was saved: it is redispatched to the same core only (R434). -/
  pinned : Bool
  /-- Threads that have exited, as a mask (R454). -/
  exitedThreads : Nat
  cons : List Nat
  /-- Constellation barriers that completed while it was not resident, to be applied at redispatch (R455). -/
  owed : List Nat
  /-- Page services posted while it was not resident, to be applied at redispatch (R173): address, and whether fatal. -/
  served : List (Nat × Bool)
  buckets : List Bucketed
  bucketSeq : Nat
  /-- Buckets, as (quarter, key), that a flush found without a context (R430, R458). -/
  due : List (Nat × Nat)
  triggered : Bool
  region : Nat
  rset : RSet
  /-- Lines its threads and engines wrote that no release has covered: (die, line offset / 64) packed as a cell line number. -/
  uncovered : List Nat
  sigCopy : Nat
  sigMatrix : Nat
  /-- Terminated: the fault record that is posted once its engine commands have completed (R170). -/
  fate : Option FaultRec
deriving DecidableEq, Repr, Inhabited

/-- A constellation of a live launch (R431, R432). -/
structure Group where
  number : Nat
  gang : Bool
  coresident : Bool
  ranges : List (Nat × Nat)
  members : Nat
  arrived : Nat
  /-- Threads of members that have exited or been terminated, as a mask per workgroup identity. -/
  gone : SMap Nat
  gen : Nat
  /-- Threads counted in the current generation, as a mask per workgroup identity (R456). -/
  who : SMap Nat
  /-- Publications of the arrivals of the current generation (R297). -/
  pub : RSet
deriving DecidableEq, Repr

/-- A ticket counter (R459, R465), with its hidden race set (R297). -/
structure Ticket where
  next : Nat
  faulted : Bool
  pub : RSet
deriving DecidableEq, Repr, Inhabited

/-- The fields of a launch record (R368). -/
structure LaunchRec where
  ctx : Nat
  prio : Nat
  moment : Bool
  strict : Bool
  dies : Nat
  width : Nat
  rf : Nat
  sp : Nat
  acc : Nat
  roles : Bool
  copies : Nat
  epilogues : Nat
  /-- (base, ext) of the copy role or the one budget, of the matrix role, of the epilogue role. -/
  regs : List (Nat × Nat)
  threads : Nat
  gx : Nat
  gy : Nat
  gz : Nat
  lid : Nat
  entry : Nat
  trapvec : Nat
  args : Nat
  compl : Nat
deriving DecidableEq, Repr, Inhabited

/-- A live launch (R367, R371 to R373, R431, R459, R299, R75). -/
structure Launch where
  record : LaunchRec
  queue : Nat
  slotAddr : Nat
  groups : List Group
  /-- Bound predecessors still to be waited for, by launch key (R372). -/
  preds : List Nat
  /-- The order in which launches became eligible, once this one is (R373). -/
  eligible : Option Nat
  nextWg : Nat
  ended : List Nat
  triggered : List Nat
  /-- Workgroups that were terminated (R460). -/
  terminated : List Nat
  tickets : List Ticket
  /-- What each workgroup that exited published with its exit release (R297, R460). -/
  exitPubs : SMap RSet
  /-- What its workgroups published with the releases of their `trig`s (R297, R411). -/
  trigPub : RSet
  epoch : Nat
  /-- Words that have been overwritten since eligibility: by location, the word as it stood then, and the latest word this grid
  itself has stored there (R75). -/
  oldCode : SMap (CW × Option CW)
  /-- Spans of its context that page service has mapped since eligibility (R160; log entry 42). -/
  served : List Span
  /-- The graph node whose record this launch is, as (core, node) (R416), and the race set that its `launch`, its node and the launches it
  depends on pass to it (R297). -/
  node : Option (Nat × Nat)
  pub : RSet
  /-- Waiting for page service of the completion word's increment (R371). -/
  waiting : Option Span
  /-- Rejected: it runs no workgroup and counts as complete (R370). -/
  rejected : Bool
deriving DecidableEq, Repr, Inhabited

/-! ## Engine queues (R334, R382) -/

/-- What an engine entry does. Operands are the values read at issue (R333, R337, R341). -/
inductive EngOp where
  /-- A multiply command: op7 − 0x58 (0 mm, 1 mmloop, 2 mmsp, 3 mmgat, 4 mma.mom), shape5, tile, D0 to D5, the gather base, the
  scale words by register then lane, SEL, the format register and `mctl.NVC`. -/
  | multiply (op shape tile : Nat) (desc : List Nat) (gather : Nat) (scales : List (List CW)) (sel : Nat) (fmt : Word)
      (nvc : Bool)
  | accz (tile : Nat)
  /-- An `accwr`: its words and their data, in the order of its lanes (R354). -/
  | write (tile : Nat) (words : List (Nat × Nat))
  /-- An `accrd` of a path, whose lanes wait at it until the entry has been chosen: `step` is 1 from then on (R354). -/
  | read (tile lanes : Nat)
  /-- `accld` (store = false) or `accst`: tile, address or offset, stride, SPACE. -/
  | transfer (store : Bool) (tile addr stride : Nat) (mem : Bool)
  /-- A copy: destination, source, bytes per row, rows, strides, and whether each side is scratchpad (R412). -/
  | copy (dst src len rows : Nat) (dstride sstride : Int) (dsp ssp : Bool)
deriving DecidableEq, Repr

/-- An entry of a core's matrix or copy sub-queue (R334, R382). `step` counts finished steps, rows or words; `wait`: the spans it is
suspended on, each with the address and the access bits of the access that met it (R359). -/
structure EngEntry where
  wg : Nat
  beam : Nat
  lane : Nat
  pc : Nat
  op : EngOp
  /-- Completion kind and target (R337, R355). -/
  ck : Nat
  tgt : Nat
  step : Nat
  seq : Nat
  passed : Nat
  wait : List (Span × Nat × Nat)
  /-- Lines it has written, which releases count once it has completed (R286). -/
  wrote : List Nat
deriving DecidableEq, Repr

/-! ## Cores -/

/-- How a line came into a cache: a demand access, a `pref` of a context, or a read that took effect ahead of its turn (R278, R325, R468). -/
inductive LineOrigin where
  | demand
  | prefetch (ctx : Nat)
  | early
deriving DecidableEq, Repr, Inhabited

/-- A line of an L1 or of a lantern core's caches (R249 to R251, R255, R285): 16 words; the words marked dirty, each with the bytes of the
widest access that wrote it since it was clean (R271) and the workgroups that did, the latest last (0 for a section); the eviction priority, its latest use, and the
hidden stamps that its words carry, by word (R297). -/
structure Line where
  words : List CW
  dirty : SMap (Nat × List Nat)
  evp : Nat
  used : Nat
  origin : LineOrigin
  stamps : SMap (List Stamp)
deriving DecidableEq, Repr, Inhabited

/-- A line that its home slice holds: its eviction priority, its latest use, and whether it is dirty: then its words stand in
`State.l2mem`, and the stack has not got all of them (R249 to R251). -/
structure SliceLine where
  evp : Nat
  used : Nat
  dirty : Bool
deriving DecidableEq, Repr, Inhabited

/-- A translation held by a TLB (R260): context, base of the page, level of its leaf, the leaf entry. -/
structure TlbEntry where
  ctx : Nat
  base : Nat
  level : Nat
  entry : Nat
deriving DecidableEq, Repr, Inhabited

/-- A write on its way to its home point (R270): the location and its codeword; the tag it leaves there, where it leaves one
(`none` keeps the tag, `some none` sets NONE, R295); the hidden stamps it carries (R297); the launch whose store it is (R75); the keys of
the workgroups that made it (0 for a section) and the thread; its path (0 THREAD, 1 COPY, 2 MATRIX); the bytes of the single-copy atomic
access it is part of (R271); whether threads of its workgroup other than its own have it before them (R277); and the priority with which
its home slice allocates its line, where it does (R250). -/
structure Flight where
  loc : Nat
  word : CW
  tag : Option (Option Tag)
  stamps : List Stamp
  launches : List Nat
  wgs : List Nat
  thread : Nat
  path : Nat
  size : Nat
  shared : Bool
  alloc : Option Nat
deriving DecidableEq, Repr, Inhabited

inductive NodeState where
  | free | held | launched | completing
deriving DecidableEq, Repr, Inhabited

/-- A dependence-graph node (R433). `arrivals`: flag arrivals held for a workgroup that is not resident (R434). -/
structure Node where
  state : NodeState
  wg : Nat
  launchKind : Bool
  lq : Nat
  flag : Option Nat
  succs : List Nat
  count : Nat
  record : Nat
  ctx : Nat
  /-- A LAUNCH node's append is still to be made: the queue is full, or a page is served (`wait`). -/
  due : Bool
  wait : Option Span
  pub : RSet
deriving DecidableEq, Repr, Inhabited

/-- Error counts of a unit (R469). -/
structure Errs where
  corr : Nat
  uncorr : Nat
  nvc : Nat
deriving DecidableEq, Repr, Inhabited

/-- What a throughput core holds, and the caches and counters of a lantern core (R249, R255, R260, R289, R334, R382, R433, R467,
R469). Global throughput core c has key c, global lantern core n has key 288 + n. -/
structure Core where
  lines : SMap Line
  /-- Uses of its cache, which order its lines by use (R251). -/
  uses : Nat
  last : Nat
  tlb : List TlbEntry
  nodes : SMap Node
  heldFlags : List (Nat × Nat)
  /-- Four sub-queues each. -/
  matrixQ : List (List EngEntry)
  copyQ : List (List EngEntry)
  flights : List Flight
  errs : Errs
  pmc : List Nat
  pmcsel : List Nat
  /-- Turns that each quarter has had, and the beam number its round-robin chose last (R377). -/
  turns : List Nat
  robin : List (Option Nat)
deriving DecidableEq, Repr, Inhabited

/-! ## Sections (R380, R381, R396 to R405) -/

/-- A request to a lantern core. `slot` 8 is the wait slot; `scope` (coded as R104 does) is that of its ordering (R29, R486); `pub` is
the sender's publication (R297). `line` is the lock's line, `ordinal` the move of its first send, which orders the requests of one thread
(R28); `dst` is where a `ship.w` takes its results; `bucket` the lodestar bucket that named its home (R436); `void` says that its ticket was
cancelled while its retry was under way (R381). -/
structure Request where
  ctx : Nat
  wg : Nat
  /-- Launch identity of the sender, for the fault records of the section (R384). -/
  lid : Nat
  beam : Nat
  lane : Nat
  thread : Nat
  core : Nat
  entry : Nat
  lock : Nat
  line : Nat
  args : List CW
  slot : Nat
  scope : Nat
  dst : Nat
  bucket : Option Nat
  resent : Bool
  nacked : Bool
  void : Bool
  ordinal : Nat
  pub : RSet
  /-- The sender's module, where it is another one (R486), whose workgroup `wg` then names by its identity alone. -/
  module : Option Nat
  /-- Its core's clock at its first send, from which its latency counts (R468), and at its latest one (R485), or, while its backoff runs, at
  the arrival of its NACK (R381). -/
  first : Int
  sent : Nat
deriving DecidableEq, Repr, Inhabited

/-- A C1 message in flight (R380, R381, R387). -/
inductive Msg where
  | request (lantern : Nat) (r : Request)
  | retry (lantern ticket tries : Nat) (r : Request)
  /-- A NACK on its way to the sender; `tries` counts NACKs of this request. -/
  | nack (lantern ticket tries : Nat) (r : Request)
  /-- The sender holds the NACK and its backoff runs. -/
  | backoff (lantern ticket tries : Nat) (r : Request)
  | wake (lantern ticket : Nat)
  | cancel (lantern ticket : Nat)
  /-- A request whose ticket was cancelled at its sender's pre-emption, to be sent again at redispatch. -/
  | held (lantern : Nat) (r : Request)
  | result (r : Request) (status count : Nat) (res : List CW) (pub : RSet)
deriving DecidableEq, Repr

/-- A section in execution: its request, its beam of width one, its workgroup-level registers, the instructions executed, the
fault spans it is suspended on, and the end it has reached where only the count-word update is still suspended, with the stamp of its release
(R297, R401, R405). -/
structure Section where
  req : Request
  beam : Beam
  fmt : List Word
  psave : Bool
  brk : Bool
  steps : Nat
  wait : List Span
  ending : Option (Nat × Nat × List CW)
  stamp : Stamp
  /-- Lines the section wrote, to be signed at its end (R286). -/
  uncovered : List Nat
  /-- What its acquires have synchronised with, its entry's among them (R297). -/
  rset : RSet
deriving DecidableEq, Repr

structure Lantern where
  queue : List Request
  running : Option Section
  next : Nat
  serve : Nat
  /-- Tickets given out and neither accepted nor void. -/
  outstanding : List Nat
  voids : List Nat
deriving DecidableEq, Repr, Inhabited

/-! ## Dies, contexts, queues -/

/-- A post on a beacon board (R437). -/
structure Post where
  seq : Nat
  sig : Nat
  poster : Nat
  launch : Nat
  wg : Nat
  region : Nat
  set : RSet
deriving DecidableEq, Repr, Inhabited

structure Die where
  /-- Posts still on the board, newest last, at most 256. -/
  board : List Post
  tail : Nat
  tlb : List TlbEntry
  /-- Records held back, with their contexts, oldest first; and those of agents that stall because no more can be held (R383). -/
  holding : List (Nat × FaultRec)
  stalled : List (Nat × FaultRec)
deriving DecidableEq, Repr, Inhabited

/-- A launch queue's registers (R364). `wait`: its head waits for page service, of the group table where `inTable` (R367, R369);
`tableFatal`: that service was fatal, and the group table counts as unreadable (R369). `nodes`: the graph nodes, as (core, node),
whose records stand in pending slots, by the slot's count (R416); `pubs`: what the appends of the records in pending slots published (R297). -/
structure LaunchQueue where
  en : Bool
  device : Bool
  err : Bool
  log2 : Nat
  ctx : Nat
  base : Nat
  head : Nat
  tail : Nat
  wait : Option Span
  inTable : Bool
  tableFatal : Bool
  nodes : SMap (Nat × Nat)
  pubs : SMap RSet
deriving DecidableEq, Repr, Inhabited

/-- Per-context state the device keeps outside the entry (R160, R383, R438, R440). -/
structure Ctx where
  /-- The cached entry's words, where it is cached. -/
  cached : Option (List CW)
  seq : Nat
  spans : List Span
  frames : List Nat
deriving DecidableEq, Repr, Inhabited

/-! ## The module's edges (R464 to R499) -/

/-- A wick budget register and its level (R471). -/
structure Island where
  cycle : Nat
  unlimited : Bool
  cap : Nat
  refill : Nat
  level : Int
  point : Nat
  stopped : Bool
  /-- Windows of 4,096 clocks that have ended, and the core of the island that started an engine step last, with the clock. -/
  windows : Nat
  started : Nat × Nat
  /-- Cores whose engines waited when the level last rose to 0 or more, and have not started a step since. -/
  waiting : List Nat
deriving DecidableEq, Repr, Inhabited

/-- QoS setting of a die's slices or memory ports, per class 1 to 3: BUDGET and BORROW, and the counts of the current window (R388). -/
structure Qos where
  budgets : List Nat
  borrow : List Bool
  accepted : List Nat
deriving DecidableEq, Repr, Inhabited

/-- A mailbox (R478): MBCFG, MBHEAD, MBTAIL, its 64 slots of 64 bytes, and the quote buffer (R492). -/
structure Mailbox where
  ien : Bool
  vec : Nat
  head : Nat
  tail : Nat
  slots : SMap (List Byte)
  quote : List Byte
deriving DecidableEq, Repr, Inhabited

/-- An MSI-X vector: message address, data, mask and pending bit (R482). -/
structure Vector where
  addr : Nat
  data : Nat
  masked : Bool
  pending : Bool
deriving DecidableEq, Repr, Inhabited

/-- An entry of the self-test report (R496): UNIT, the physical index, the result, the action, SUB and the reset count. -/
structure ReportEntry where
  unit : Nat
  physical : Nat
  result : Nat
  action : Nat
  sub : Nat
  resets : Nat
deriving DecidableEq, Repr, Inhabited

/-- Who waits for a module that does not answer, besides threads, whose waits stand in parked records (R485). -/
inductive Waiter where
  | lantern (n : Nat)
  | engine (core path q : Nat)
  | queue (q : Nat)
  | launch (k : Nat)
  | node (core n : Nat)
deriving DecidableEq, Repr

/-- A wait for a module that does not answer: for which location, and the clock of its core at which it began. -/
structure Wait where
  who : Waiter
  loc : Nat
  since : Nat
deriving DecidableEq, Repr

/-- What the Binnacle has begun and not finished: a module reset (R488), or a QUIESCE with its argument, for a mailbox (R494). -/
inductive Task where
  | reset (findings : ResetFindings)
  | quiesce (svc : Bool) (arg : Nat) (failed : List Nat)
deriving DecidableEq, Repr

/-- The module's own registers and tables outside its cores and queues. -/
structure Module where
  /-- STATUS.STATE (4, the model's own: no power), PLCAUSE, DEGR (R477, R499). -/
  status : Nat
  plcause : Nat
  degr : Bool
  number : Nat
  domain : Nat
  winbase : Nat
  powercap : Nat
  patrol : Bool
  /-- Error thresholds by class of unit (R470). -/
  thresholds : List Nat
  bsl : Nat
  pll : Nat
  ctxBase : Nat
  ctxCount : Nat
  /-- Buckets of the main table and of the die sub-tables that differ from their reset contents (R435, R436). -/
  lodestar : SMap Nat
  substar : SMap Nat
  /-- Buckets held by a lodestar command that has not completed, and their new contents (R436); a bucket b of die d's sub-table has
  number 4096 + 512 d + b. -/
  starHold : List (Nat × Nat)
  /-- Physical units that are not in their initial state (R441), by `chartKey`. -/
  chart : SMap UnitState
  /-- Physical index of a part, where a substitution changed it (`Chart.lean` numbers parts). -/
  mapping : SMap Nat
  /-- Parts whose entry in the chart has lost its valid bit: failed at a reset, with no spare (R441, R488). -/
  invalid : List Nat
  /-- Parts flagged for substitution (R493). -/
  candidates : List Nat
  report : List ReportEntry
  reportOverwritten : Nat
  resets : Nat
  meas : List (BitVec 256)
  staging : SMap Byte
  /-- Firmware slots written by FWLOAD: slot and its image's length and digest (R490). -/
  flash : SMap (Nat × Nat)
  control : Mailbox
  service : Mailbox
  /-- Whether the service mailbox is served next (R386). -/
  serveService : Bool
  msix : SMap Vector
  svcMsix : SMap Vector
  /-- Messages sent to the host: (address, data), newest last. -/
  sent : List (Nat × Nat)
  /-- The words the latest BAR 2 or register read returned, poisoned ones marked. -/
  reply : List (Nat × Bool)
  /-- Modules of the domain that do not answer (R483, R485), and the waits for them. -/
  silent : List Nat
  waits : List Wait
  /-- The reset sequence or the quiesce point that is under way. -/
  task : Option Task
  /-- Lines that the host or another module has written since the latest doorbell (R365). -/
  outside : List Nat
deriving DecidableEq, Repr, Inhabited

/-! ## The machine -/

/-- The instruction being issued: its agent, the path's entry as it stood, the address after the instruction, whether it was
prefixed (R80 to R91, R162), and its words (R175); which of its V sources HOLD names, in the order a, b, c (R85); and, where the beam's other port issues in the
same clock, the beam as the clock began (R147, R179, R217). The model's own: `step` sets it before `exec` runs. -/
structure Issue where
  agent : Agent
  pc : Nat
  next : Nat
  pri : Nat
  lanes : Nat
  prefixed : Bool
  words : List Nat
  held : Option Nat
  view : Option Beam
deriving DecidableEq, Repr, Inhabited

/-- The whole machine. -/
structure State where
  /-- The stacks' cells, and other modules' memory by system address. -/
  mem : Mem
  /-- Lines that the home slices hold, the words of the dirty ones, and a count of uses that orders them (R249 to R251). -/
  l2 : SMap SliceLine
  l2mem : Mem
  l2uses : Nat
  /-- Writer tags and hidden stamps by word location (R295, R297). -/
  tags : SMap Tag
  stamps : SMap (List Stamp)
  /-- Words of this module's own memory that switch slices hold, by their system address; the flag marks those written there (R247,
  R249, R484). -/
  twins : SMap (CW × Bool)
  lqs : List LaunchQueue
  lastQueue : Nat
  launches : SMap Launch
  nextLaunch : Nat
  eligibleCount : Nat
  wgs : SMap Wg
  dispatchCount : Nat
  cores : List Core
  lanterns : List Lantern
  dies : List Die
  slices : List Errs
  channels : SMap Errs
  bridge : Errs
  ctxs : SMap Ctx
  msgs : List Msg
  lockSets : SMap RSet
  islands : List Island
  /-- By 8 × target + die: targets 0 slices, 1 memory ports. -/
  qos : List Qos
  hints : List Nat
  mod : Module
  /-- A sequence number for engine entries (R362). -/
  engSeq : Nat
  /-- The model's own (log entry 1): the moves still to be made, the move counter that picks further ones, the current issue,
  and the counter of free values. -/
  agenda : List Move
  moves : Nat
  /-- Moves that the schedule still picks before everything that is pending has its turn (R35). -/
  sweep : Nat
  cur : Option Issue
  free : Nat
deriving DecidableEq, Repr, Inhabited

/-- Why a step stops with a fault. -/
inductive Fault where
  /-- Raised by a meaning run with no issue in `State.cur`, or with one whose agent or path does not exist: `step` never makes
  such a state. Safe: nothing happens. -/
  | noIssue
deriving DecidableEq, Repr

/-- Why a step is refused. -/
inductive Refusal where
  /-- Raised by `exec` for a constructor without a meaning. Safe: nothing happens. -/
  | notModelled (mnemonic : String)
deriving DecidableEq, Repr

/-! ## Reset -/

def Mem.empty : Mem := ⟨[], []⟩
def RSet.empty : RSet := ⟨[], false⟩
def Errs.zero : Errs := ⟨0, 0, 0⟩

/-- A core after reset: empty caches, TLB, tables and queues, counters 0 (R260, R289, R433, R467, R469). -/
def Core.reset : Core where
  lines := []
  uses := 0
  last := 0
  tlb := []
  nodes := []
  heldFlags := []
  matrixQ := [[], [], [], []]
  copyQ := [[], [], [], []]
  flights := []
  errs := .zero
  pmc := List.replicate 16 0
  pmcsel := List.replicate 16 0
  turns := [0, 0, 0, 0]
  robin := [none, none, none, none]

def Lantern.reset : Lantern := ⟨[], none, 0, 0, [], []⟩
def Die.reset : Die := ⟨[], 0, [], [], []⟩
/-- R364: every field 0. -/
def LaunchQueue.reset : LaunchQueue := ⟨false, false, false, 0, 0, 0, 0, 0, none, false, false, [], []⟩
/-- R466, R471: counter 0, UNL 1, CAP 0, REFILL 0, level 0; the nominal operating point is DESIGN CHOICE 0 (log entry 2). -/
def Island.reset : Island := ⟨0, true, 0, 0, 0, 0, false, 0, (0, 0), []⟩
/-- R388, R479: budgets 1,024, no borrowing. -/
def Qos.reset : Qos := ⟨[1024, 1024, 1024], [false, false, false], [0, 0, 0]⟩
/-- R478: 0; the quote buffer's bytes are DESIGN CHOICE 0 (log entry 2). -/
def Mailbox.reset : Mailbox := ⟨false, 0, 0, 0, [], []⟩
/-- PRESUMED from PCI Express (log entry 4): a vector is masked at reset, its address and data 0. -/
def Vector.reset : Vector := ⟨0, 0, true, false⟩

/-- The measurements at the end of a reset sequence whose images stand as they stood at power-on, with no unit substituted (R491). -/
def bootMeasures : List (BitVec 256) :=
  [measExtend 0 Config.romDigest, measExtend 0 (Config.slotDigest 0), measExtend 0 (Config.slotDigest 1),
   measExtend 0 (Config.slotDigest 2), measExtend 0 (Config.slotDigest 3), measExtend 0 (sm3 (chartSummary [])), 0, 0]

/-- The module's registers after the reset sequence has ended in READY with every unit sound (R477, R479, R488, R496). -/
def Module.reset : Module where
  status := 1
  plcause := 0
  degr := false
  number := 0
  domain := 1
  winbase := 0
  powercap := 3200
  patrol := false
  thresholds := List.replicate 5 0xFFFFFFFF
  bsl := 26
  pll := 26
  ctxBase := 0
  ctxCount := 0
  lodestar := []
  substar := []
  starHold := []
  chart := []
  mapping := []
  invalid := []
  candidates := []
  report := []
  reportOverwritten := 0
  resets := 1
  meas := bootMeasures
  staging := []
  flash := []
  control := .reset
  service := .reset
  serveService := false
  msix := []
  svcMsix := []
  sent := []
  reply := []
  silent := []
  waits := []
  task := none
  outside := []

/-- The machine right after reset (R126, R243, R364, R433 to R437, R466 to R479, R488). -/
def State.reset : State where
  mem := .empty
  l2 := []
  l2mem := .empty
  l2uses := 0
  tags := []
  stamps := []
  twins := []
  lqs := List.replicate 64 .reset
  lastQueue := 63
  launches := []
  nextLaunch := 1
  eligibleCount := 0
  wgs := []
  dispatchCount := 0
  cores := List.replicate 416 .reset
  lanterns := List.replicate 128 .reset
  dies := List.replicate 8 .reset
  slices := List.replicate 256 .zero
  channels := []
  bridge := .zero
  ctxs := []
  msgs := []
  lockSets := []
  islands := List.replicate 41 .reset
  qos := List.replicate 16 .reset
  hints := []
  mod := .reset
  engSeq := 0
  agenda := []
  moves := 0
  sweep := 0
  cur := none
  free := 0

end Sys2Proof.Machine
end

