-- ==== Sys2Proof/Machine/Sparse.lean ====
section
/-!
DEFINITION. Sys2Proof/Machine/Sparse.lean: the sparse maps and the byte memory that State is made of, with the operations that
keep their canonical form.
-/

namespace Sys2Proof.Machine

/-! ## Maps with rising keys -/

def smGet? {α : Type} : SMap α → Nat → Option α
  | [], _ => none
  | (k', v) :: rest, k => if k = k' then some v else smGet? rest k

def smGet {α : Type} [Inhabited α] (m : SMap α) (k : Nat) : α := (smGet? m k).getD default

/-- Put a value at a key, keeping the keys rising. -/
def smSet {α : Type} : SMap α → Nat → α → SMap α
  | [], k, v => [(k, v)]
  | (k', v') :: rest, k, v =>
    if k < k' then (k, v) :: (k', v') :: rest
    else if k = k' then (k, v) :: rest
    else (k', v') :: smSet rest k v

def smErase {α : Type} : SMap α → Nat → SMap α
  | [], _ => []
  | (k', v) :: rest, k => if k = k' then rest else (k', v) :: smErase rest k

/-- Change the value at a key, where there is one. -/
def smModify {α : Type} (m : SMap α) (k : Nat) (f : α → α) : SMap α :=
  match smGet? m k with
  | some v => smSet m k (f v)
  | none => m

/-- The least natural number below `n` that is not a key. -/
def smFree {α : Type} (m : SMap α) (n : Nat) : Option Nat := (List.range n).find? fun k => (smGet? m k).isNone

def smSorted {α : Type} : SMap α → Bool
  | [] => true
  | [_] => true
  | (a, _) :: (b, v) :: rest => decide (a < b) && smSorted ((b, v) :: rest)

/-! ## Bytes at addresses -/

/-- The byte at an address; an unlisted address reads as 0 (R243, R488; log entry 3 for system addresses). -/
def cellGet (m : List Host.Cell) (a : Nat) : Byte := (smGet? m a).getD 0

/-- Write a byte; writing 0 removes the entry. -/
def cellSet (m : List Host.Cell) (a : Nat) (b : Byte) : List Host.Cell := if b = 0 then smErase m a else smSet m a b

/-- The canonical form of a list of cells: rising addresses, no byte 0. -/
def cellsWf (m : List Host.Cell) : Bool := smSorted m && m.all fun c => c.2 != 0

/-- The canonical form of a memory. -/
def Mem.wf (m : Mem) : Bool := cellsWf m.data && cellsWf m.codes

/-- One byte of a memory. -/
def Mem.byte (m : Mem) (a : Nat) : Byte := cellGet m.data a

/-- The aligned word at or below `a`, with its code; the low byte at the lowest address (R6, R69). -/
def Mem.word (m : Mem) (a : Nat) : CW :=
  let w := a - a % 4
  ⟨m.byte (w + 3) ++ m.byte (w + 2) ++ m.byte (w + 1) ++ m.byte w, cellGet m.codes w⟩

/-- Write the four bytes of a word. -/
def setBytes (m : List Host.Cell) (a : Nat) (d : Word) : List Host.Cell :=
  cellSet (cellSet (cellSet (cellSet m a (d.setWidth 8)) (a + 1) (d.extractLsb' 8 8)) (a + 2) (d.extractLsb' 16 8)) (a + 3)
    (d.extractLsb' 24 8)

/-- Write the aligned word at or below `a`, with its code. -/
def Mem.setWord (m : Mem) (a : Nat) (c : CW) : Mem :=
  let w := a - a % 4
  ⟨setBytes m.data w c.data, cellSet m.codes w c.code⟩

/-- Write words at rising word addresses from `a`. -/
def Mem.setWords (m : Mem) (a : Nat) : List CW → Mem
  | [] => m
  | c :: cs => (m.setWord a c).setWords (a + 4) cs

/-- `n` words from `a`. -/
def Mem.words (m : Mem) (a : Nat) : Nat → List CW
  | 0 => []
  | n + 1 => m.word a :: m.words (a + 4) n

/-! ## Numbers and words -/

/-- The number a list of 32-bit words holds, the low word first. -/
def natOfWords : List Word → Nat
  | [] => 0
  | w :: ws => w.toNat + 2 ^ 32 * natOfWords ws

/-- `n` 32-bit words of a number, the low word first. -/
def wordsOfNat : Nat → Nat → List Word
  | 0, _ => []
  | n + 1, x => .ofNat 32 x :: wordsOfNat n (x / 2 ^ 32)

/-- Bits `lo` to `lo + n - 1` of a number. -/
def bits (x lo n : Nat) : Nat := x / 2 ^ lo % 2 ^ n

/-- The signed value of the low `n` bits of a number. -/
def signedBits (n x : Nat) : Int :=
  let v := x % 2 ^ n
  if n ≠ 0 ∧ 2 ^ (n - 1) ≤ v then (v : Int) - 2 ^ n else v

/-- An integer modulo 2^n. -/
def wrap (n : Nat) (x : Int) : Nat := (x % (2 ^ n : Int)).toNat

/-! ## Lane masks -/

def laneBit (l : Nat) : Nat := 2 ^ l

/-- The lanes of a mask below a width, rising. -/
def lanesOf (mask width : Nat) : List Nat := (List.range width).filter fun l => mask.testBit l

/-- A mask without the lanes of another. -/
def maskSub (a b : Nat) : Nat := a - (a &&& b)

/-- The mask of a list of lanes. -/
def maskOf : List Nat → Nat
  | [] => 0
  | l :: ls => laneBit l ||| maskOf ls

/-- The lowest lane of a mask below a width. -/
def lowestLane (mask width : Nat) : Option Nat := (List.range width).find? fun l => mask.testBit l

end Sys2Proof.Machine
end

