-- ==== Sys2Proof/Machine/Access.lean ====
section
/-!
DEFINITION. Sys2Proof/Machine/Access.lean: the one place through which meanings reach the parts of State: cores, dies, beams and
workgroups; where an agent stands; and the error and performance counters that events charge.
-/

namespace Sys2Proof.Machine

/-! ## Places (R4, R498) -/

/-- Index in `State.cores` of global lantern core n. -/
def lanternIx (n : Nat) : Nat := 288 + n

def isLantern (core : Nat) : Bool := decide (288 ≤ core)

def dieOfCore (core : Nat) : Nat := if core < 288 then core / 36 else (core - 288) / 16

/-- Global island of a core (R4, R498). -/
def islandOfCore (core : Nat) : Nat :=
  if core < 288 then core / 36 * 5 + core % 36 / 12 else (core - 288) / 16 * 5 + 3

/-- The unit number of a core or lantern core (R479). -/
def unitOfCore (core : Nat) : Nat := if core < 288 then core else 0x8000 + (core - 288)

/-- POSTER of a beacon-board entry (R437). -/
def posterOfCore (core : Nat) : Nat := unitOfCore core

/-! ## Parts of the state -/

def State.core (s : State) (c : Nat) : Core := s.cores.getD c default
def State.modCore (s : State) (c : Nat) (f : Core → Core) : State := { s with cores := s.cores.modify c f }
def State.die (s : State) (d : Nat) : Die := s.dies.getD d default
def State.modDie (s : State) (d : Nat) (f : Die → Die) : State := { s with dies := s.dies.modify d f }
def State.lantern (s : State) (n : Nat) : Lantern := s.lanterns.getD n default
def State.modLantern (s : State) (n : Nat) (f : Lantern → Lantern) : State := { s with lanterns := s.lanterns.modify n f }
def State.wg? (s : State) (w : Nat) : Option Wg := smGet? s.wgs w
def State.setWg (s : State) (w : Nat) (g : Wg) : State := { s with wgs := smSet s.wgs w g }
def State.modWg (s : State) (w : Nat) (f : Wg → Wg) : State := { s with wgs := smModify s.wgs w f }
def State.launch? (s : State) (l : Nat) : Option Launch := smGet? s.launches l
def State.modLaunch (s : State) (l : Nat) (f : Launch → Launch) : State := { s with launches := smModify s.launches l f }
def State.modMod (s : State) (f : Module → Module) : State := { s with mod := f s.mod }
def State.modLq (s : State) (q : Nat) (f : LaunchQueue → LaunchQueue) : State := { s with lqs := s.lqs.modify q f }
def State.lq (s : State) (q : Nat) : LaunchQueue := s.lqs.getD q .reset
def State.ctx (s : State) (c : Nat) : Ctx := smGet s.ctxs c
def State.modCtx (s : State) (c : Nat) (f : Ctx → Ctx) : State := { s with ctxs := smSet s.ctxs c (f (s.ctx c)) }
def State.modIsland (s : State) (i : Nat) (f : Island → Island) : State := { s with islands := s.islands.modify i f }
def State.section? (s : State) (n : Nat) : Option Section := (s.lantern n).running

/-- Key of the workgroup with this identity in this launch. -/
def wgKey (launch id : Nat) : Nat := launch * 2 ^ 32 + id

/-- The next free value, and the state that has used it (log entry 6). -/
def State.freeWord (s : State) : BitVec 256 × State := (Config.freeValue s.free, { s with free := s.free + 1 })

/-! ## The agent that issues -/

/-- The beam an agent issues from: a workgroup's, or the section's of a lantern core (R27). -/
def State.beam? (s : State) : Agent → Option Beam
  | .beam w n => (s.wg? w).bind fun g => smGet? g.beams n
  | .lantern n => (s.section? n).map (·.beam)

def State.modBeam (s : State) (a : Agent) (f : Beam → Beam) : State :=
  match a with
  | .beam w n => s.modWg w fun g => { g with beams := smModify g.beams n f }
  | .lantern n => s.modLantern n fun l => { l with running := l.running.map fun r => { r with beam := f r.beam } }

def State.setBeam (s : State) (a : Agent) (b : Beam) : State := s.modBeam a fun _ => b

def State.modSection (s : State) (n : Nat) (f : Section → Section) : State :=
  s.modLantern n fun l => { l with running := l.running.map f }

/-- Where an agent stands: its core, its context, and its launch and workgroup (0 for a section). -/
structure Place where
  core : Nat
  ctx : Nat
  wg : Nat
  wgId : Nat
  launch : Nat
  lid : Nat
  lantern : Bool
deriving DecidableEq, Repr, Inhabited

def Place.die (p : Place) : Nat := dieOfCore p.core

def State.wgPlace (s : State) (w : Nat) : Place :=
  match s.wg? w with
  | some g => ⟨g.core, g.ctx, w, g.id, g.launch, ((s.launch? g.launch).map (·.record.lid)).getD 0, false⟩
  | none => default

def State.place (s : State) : Agent → Place
  | .beam w _ => s.wgPlace w
  | .lantern n => ⟨lanternIx n, ((s.section? n).map (·.req.ctx)).getD 0, 0, 0, 0, 0, true⟩

/-- The quarter a workgroup's beam is dispatched to (R16). -/
def quarterOf (beam : Nat) : Nat := beam % 4

/-! ## Error counters (R469, R470, R493) -/

/-- Who a counted word is charged to. -/
inductive Payer where
  | core (c : Nat)
  | slice (n : Nat)
  | channel (n : Nat)
  | bridge
deriving DecidableEq, Repr

/-- The unit number of R479. -/
def Payer.unit : Payer → Nat
  | .core c => unitOfCore c
  | .slice n => 0x4000 + n
  | .channel n => 0x2000 + n
  | .bridge => 0x1000

/-- Its class for ERRTHRESH (R479). -/
def Payer.cls : Payer → Nat
  | .core c => if c < 288 then 0 else 1
  | .slice _ => 2
  | .channel _ => 3
  | .bridge => 4

def State.errs (s : State) : Payer → Errs
  | .core c => (s.core c).errs
  | .slice n => s.slices.getD n default
  | .channel n => smGet s.channels n
  | .bridge => s.bridge

def State.setErrs (s : State) (p : Payer) (e : Errs) : State :=
  match p with
  | .core c => s.modCore c fun k => { k with errs := e }
  | .slice n => { s with slices := s.slices.set n e }
  | .channel n => { s with channels := smSet s.channels n e }
  | .bridge => { s with bridge := e }

/-- A counter of 32 bits that saturates. -/
def satAdd32 (a n : Nat) : Nat := min (a + n) (2 ^ 32 - 1)

/-- Add an entry to the report's ring of 1,000 (R496). -/
def Module.addReport (m : Module) (e : ReportEntry) : Module :=
  if m.report.length < 1000 then { m with report := m.report ++ [e] }
  else { m with report := m.report.drop 1 ++ [e], reportOverwritten := m.reportOverwritten + 1 }

/-- The physical index of a part within its class and scope: its logical index unless the chart moved it (R441). -/
def Module.physical (m : Module) (part : Nat) : Nat :=
  (smGet? m.mapping part).getD (((partPlace part).map (·.2.2)).getD 0)

/-- A part becomes a candidate for substitution: flagged in the report and in STATUS.DEGR (R493). -/
def Module.flag (m : Module) (part result : Nat) : Module :=
  if m.candidates.contains part then m
  else { m.addReport ⟨partUnit part, m.physical part, result, 0, partSub part, m.resets⟩ with
           candidates := m.candidates ++ [part], degr := true }

def State.flag (s : State) (part result : Nat) : State := s.modMod fun m => m.flag part result

/-- Charge counted words to a unit; a counter that crosses its class's threshold makes the unit a candidate (R470). -/
def State.charge (s : State) (p : Payer) (corr uncorr nvc : Nat) : State :=
  if corr = 0 ∧ uncorr = 0 ∧ nvc = 0 then s
  else
    let e := s.errs p
    let e' : Errs := ⟨satAdd32 e.corr corr, satAdd32 e.uncorr uncorr, satAdd32 e.nvc nvc⟩
    let th := s.mod.thresholds.getD p.cls 0xFFFFFFFF
    let crosses := fun (x y : Nat) => decide (x ≤ th ∧ th < y)
    let s := s.setErrs p e'
    if crosses e.corr e'.corr || crosses e.uncorr e'.uncorr || crosses e.nvc e'.nvc then s.flag p.unit 2 else s

/-! ## Performance counters (R467, R468) -/

/-- Add `n` to each counter of a core that counts this event for this context. -/
def Core.count (k : Core) (evt ctx n : Nat) : Core :=
  { k with
    pmc := (List.range 16).map fun i =>
      let sel := k.pmcsel.getD i 0
      let v := k.pmc.getD i 0
      if sel.testBit 31 && bits sel 0 8 == evt && (!sel.testBit 30 || bits sel 8 16 == ctx)
      then (v + n) % 2 ^ 64 else v }

/-- The context of an event that belongs to no workgroup and no section: no selector names it (R468). -/
def noContext : Nat := 65536

def State.count (s : State) (core evt ctx n : Nat) : State :=
  if n = 0 ∨ ((s.core core).pmcsel.all fun sel => !sel.testBit 31) then s else s.modCore core fun k => k.count evt ctx n

/-! ## The module's state (R477, R499) -/

/-- Whether the supply is on: without it nothing on the module runs (R499). -/
def State.powered (s : State) : Bool := s.mod.status != 4

/-- STATUS.STATE = READY. -/
def State.ready (s : State) : Bool := s.mod.status == 1

/-! ## Clocks (R466) -/

/-- The clock of a core's island; the dispatcher, which is no core, counts die 0's (log entry 13). -/
def State.clockAt (s : State) (core : Nat) : Nat := (s.islands.getD (if core < 416 then islandOfCore core else 0) default).cycle

/-! ## Race sets (R296, R297) -/

/-- The larger region number wins; more than 16 workgroups set SAT. -/
def RSet.add (r : RSet) (wg region : Nat) : RSet :=
  match r.entries.find? (·.1 == wg) with
  | some _ => { r with entries := r.entries.map fun e => if e.1 = wg then (wg, max e.2 region) else e }
  | none => if r.entries.length < 16 then { r with entries := r.entries ++ [(wg, region)] } else { r with sat := true }

def RSet.addAll : RSet → List (Nat × Nat) → RSet
  | r, [] => r
  | r, (w, n) :: es => (r.add w n).addAll es

/-- Merge two sets. -/
def RSet.merge (a b : RSet) : RSet :=
  let r := a.addAll b.entries
  { r with sat := r.sat || b.sat }

/-- Merge a published set into a workgroup's own. -/
def Wg.absorb (g : Wg) (p : RSet) : Wg := { g with rset := g.rset.merge p }

/-- Advance a workgroup's region by 1; at 2^32 − 1 it stops and SAT is set (R296). -/
def Wg.advance (g : Wg) : Wg :=
  if g.region + 1 < 2 ^ 32 - 1 then { g with region := g.region + 1 }
  else { g with region := 2 ^ 32 - 1, rset := { g.rset with sat := true } }

/-- What a release of the workgroup publishes: its own region before the release advances it, and its set (R297). -/
def Wg.publication (g : Wg) (key : Nat) : RSet :=
  { entries := (key, g.region) :: g.rset.entries, sat := g.rset.sat }

end Sys2Proof.Machine
end

