-- ==== Sys2Proof/Machine/Home.lean ====
section
/-!
DEFINITION. Sys2Proof/Machine/Home.lean: physical addresses and home points (spec R246 to R248), what a home point does with a
write and a read (R270, R295, R297, R75), and the caches of the cores between an agent and its home points (R249 to R255, R285).
-/

namespace Sys2Proof.Machine

/-! ## Physical addresses (R246, R248) -/

/-- Bytes of one die's stacks. -/
def dieBytes : Nat := 0x1800000000

/-- The location of a device cell's byte: die × 96 GiB + die offset; nothing for an unassigned address (R246). -/
def cellLoc (pa : Nat) : Option Nat :=
  if pa < 0xC000000000 then some (bits pa 16 3 * dieBytes + bits pa 19 21 * 65536 + pa % 65536)
  else if 0x10000000000 ≤ pa ∧ pa < 0x1C000000000 then some (pa - 0x10000000000)
  else none

/-- Whether a location is a system address (PA[57] = 1, R246). -/
def isSystem (loc : Nat) : Bool := decide (2 ^ 57 ≤ loc)

/-- The location a physical address names: a cell, or a system address itself (R247). -/
def physLoc (pa : Nat) : Option Nat := if isSystem pa then some pa else cellLoc pa

/-- The module a system address names (R246). -/
def moduleOf (loc : Nat) : Nat := bits loc 50 7

def dieOfLoc (loc : Nat) : Nat := loc / dieBytes

/-- Slice of the die a die offset is homed at (R248). -/
def fold5 (off : Nat) : Nat :=
  bits off 6 5 ^^^ bits off 11 5 ^^^ bits off 16 5 ^^^ bits off 21 5 ^^^ bits off 26 5 ^^^ bits off 31 5 ^^^ bits off 36 1

/-- Global slice of a cell (R4, R248). -/
def sliceOf (loc : Nat) : Nat := dieOfLoc loc * 32 + fold5 (loc % dieBytes)

/-- The cell that a system address naming this module reaches here; any other location is itself (R246, R247). -/
def State.resolve (s : State) (loc : Nat) : Nat :=
  if isSystem loc && moduleOf loc == s.mod.number then (cellLoc (loc % 2 ^ 50)).getD loc else loc

/-- Who pays for a check made at a location's home point (R469); a switch slice keeps no count of this module. -/
def chargeHome (s : State) (loc corr uncorr : Nat) : State :=
  if isSystem loc then s else s.charge (.slice (sliceOf loc)) corr uncorr 0

/-! ## Sets and victims (R251) -/

/-- The least element of a list by an order. -/
def leastBy {α : Type} (lt : α → α → Bool) : List α → Option α
  | [] => none
  | x :: xs => match leastBy lt xs with
    | some y => if lt y x then some y else some x
    | none => some x

/-- Sets of a cache of a kind: 0 an L1, 1 a lantern core's L1D and private L2 together, 2 an L2 slice; each set has `wayCount` lines (R249,
R251, R255; log entry 17). -/
def setCount : Nat → Nat
  | 0 => 256
  | 1 => 1088
  | _ => 2048

def wayCount : Nat := 16

/-- Whether two lines fall into one set of a cache of a kind. -/
def sameSet (kind a b : Nat) : Bool :=
  Config.setOf kind a % setCount kind == Config.setOf kind b % setCount kind && (kind != 2 || sliceOf (a * 64) == sliceOf (b * 64))

/-- The victim among lines with their priority and latest use: the lowest priority, and of these the one used least recently. -/
def victimOf (ls : List (Nat × Nat × Nat)) : Option Nat :=
  (leastBy (fun (a b : Nat × Nat × Nat) => decide (a.2.1 < b.2.1) || (a.2.1 == b.2.1 && decide (a.2.2 < b.2.2))) ls).map (·.1)

/-! ## Home points -/

/-- The word with its location rounded down to a word. -/
def wordLoc (loc : Nat) : Nat := loc - loc % 4

/-- Words an access of `e` bytes touches. -/
def wordsIn (e : Nat) : Nat := if e < 4 then 1 else e / 4

/-- What a switch slice holds of a word of this module's own memory (R249, R484). -/
def State.twin? (s : State) (loc : Nat) : Option (CW × Bool) := if s.resolve loc = loc then none else smGet? s.twins (wordLoc loc)

/-- Whether a home slice holds a line whose words the stack has not all got (R249, R250). -/
def State.sliceDirty (s : State) (ln : Nat) : Bool := ((smGet? s.l2 ln).map (·.dirty)).getD false

/-- The word of a cell: its home slice's, where that holds the line dirty, or else the stack's, which a clean line equals (R249). -/
def State.cellWord (s : State) (loc : Nat) : CW := if s.sliceDirty (loc / 64) then s.l2mem.word loc else s.mem.word loc

/-- The word performed last at a location; for a system address of this module, what a switch slice holds, or else the cell's (R247; log
entry 10). -/
def State.homeWord (s : State) (loc : Nat) : CW :=
  match s.twin? loc with
  | some (w, _) => w
  | none => s.cellWord (s.resolve loc)

/-- The 16 words of a line, copied from one memory to another with their codes. -/
def copyLine (src dst : Mem) (ln : Nat) : Mem :=
  (List.range 16).foldl (fun m i => m.setWord (ln * 64 + 4 * i) (src.word (ln * 64 + 4 * i))) dst

/-- A slice writes a dirty line to its stack, in the plain form whatever the page's CMP (R254; log entry 53); the line stays, clean (R250,
R251). -/
def State.sliceClean (s : State) (ln : Nat) : State :=
  if s.sliceDirty ln then
    { s with
      mem := copyLine s.l2mem s.mem ln
      l2mem := copyLine .empty s.l2mem ln
      l2 := s.l2.map fun (k, l) => (k, if k = ln then { l with dirty := false } else l) }
  else s

/-- A slice evicts a line: a dirty one is written to its stack first, and the tags of its words are lost (R251, R295). -/
def State.sliceEvict (s : State) (ln : Nat) : State :=
  match smGet? s.l2 ln with
  | none => s
  | some _ =>
    let s := s.sliceClean ln
    { s with l2 := s.l2.filter fun (k, _) => k != ln, tags := s.tags.filter fun (k, _) => k / 64 != ln }

/-- The slice's lines in the set of a line. -/
def State.sliceSet (s : State) (ln : Nat) : List (Nat × Nat × Nat) :=
  (s.l2.filter fun (k, _) => sameSet 2 k ln).map fun (k, l) => (k, l.evp, l.used)

/-- A home slice uses a line, and takes it where it does not hold it; a full set gives up its victim (R249, R251). -/
def State.sliceTake (s : State) (ln evp : Nat) : State :=
  let n := s.l2uses + 1
  match smGet? s.l2 ln with
  | some l => { s with l2uses := n, l2 := smSet s.l2 ln { l with used := n } }
  | none =>
    let s := if decide (s.l2.length < wayCount) || decide ((s.sliceSet ln).length < wayCount) then s
      else match victimOf (s.sliceSet ln) with
        | some v => s.sliceEvict v
        | none => s
    { s with l2uses := n, l2 := smSet s.l2 ln ⟨evp, n, false⟩ }

/-- A read at a home slice: it takes the line where the page asks for it (R250). -/
def State.sliceRead (s : State) (loc : Nat) (alloc : Option Nat) : State :=
  match alloc with
  | some evp => if isSystem loc then s else s.sliceTake (loc / 64) evp
  | none => s

/-- A cell's word becomes this, at its slice where that holds or takes the line, or else at the stack (R250). -/
def State.setCell (s : State) (loc : Nat) (w : CW) (alloc : Option Nat) : State :=
  let s := s.sliceRead loc alloc
  match smGet? s.l2 (loc / 64) with
  | some l =>
    { s with l2mem := (if l.dirty then s.l2mem else copyLine s.mem s.l2mem (loc / 64)).setWord loc w
             l2 := smSet s.l2 (loc / 64) { l with dirty := true } }
  | none => { s with mem := s.mem.setWord loc w }

/-- A grid remembers what its instruction memory held when it became eligible (R75). -/
def Launch.remember (l : Launch) (key loc : Nat) (old new : CW) (by_ : List Nat) : Launch :=
  if l.eligible.isNone then l
  else
    let own := if by_.contains key then some new else none
    match smGet? l.oldCode loc with
    | none => { l with oldCode := smSet l.oldCode loc (old, own) }
    | some (o, mine) => { l with oldCode := smSet l.oldCode loc (o, if own.isSome then own else mine) }

/-- What every write does at its home point besides changing the word: its tag, its stamps, and what grids remember (R75, R295, R297). -/
def State.noted (s : State) (loc : Nat) (old : CW) (f : Flight) : State :=
  { s with
    tags := match f.tag with
      | none => s.tags
      | some none => smErase s.tags loc
      | some (some t) => smSet s.tags loc t
    stamps := if f.stamps.isEmpty then smErase s.stamps loc else smSet s.stamps loc f.stamps
    launches := s.launches.map fun (k, l) => (k, l.remember k loc old f.word f.launches) }

/-- A write is performed: its home point accepts it (R270), with what it does to the word's tag and stamps (R295, R297). -/
def State.perform (s : State) (f : Flight) : State :=
  let loc := wordLoc f.loc
  (if s.resolve loc = loc then s.setCell loc f.word f.alloc else { s with twins := smSet s.twins loc (f.word, true) }).noted loc
    (s.homeWord loc) f

/-- What a write by an agent that is no thread, such as the device or the host, does: it sets the tag NONE (R295). -/
def deviceWrite (loc : Nat) (w : CW) : Flight := ⟨loc, w, some none, [], [], [], 0, 0, 4, false, none⟩

/-- Switch slices drop a line of this module's memory; what was written there goes to its cells first (R249, R484). -/
def State.switchEvict (s : State) (line : Nat) : State :=
  let mine := s.twins.filter fun (k, _) => k / 64 == line
  let s := mine.foldl (fun s (k, w, dirty) => if dirty then s.perform (deviceWrite (s.resolve k) w) else s) s
  { s with twins := s.twins.filter fun (k, _) => k / 64 != line }

/-- A switch slice takes a line of this module's memory, as its cells hold it (R249, R484). -/
def State.switchFetch (s : State) (line : Nat) : State :=
  { s with twins := (List.range 16).foldl (fun tw i =>
      let k := line * 64 + 4 * i
      if s.resolve k = k ∨ (smGet? tw k).isSome then tw else smSet tw k (s.cellWord (s.resolve k), false)) s.twins }

/-- Perform writes in order. -/
def State.performAll (s : State) (fs : List Flight) : State := fs.foldl State.perform s

/-- Write words at rising locations from a physical address, as the device does; they carry the codes given. -/
def State.deviceWords (s : State) (pa : Nat) : List CW → State
  | [] => s
  | w :: ws =>
    let s := match physLoc pa with
      | some loc => s.perform (deviceWrite loc w)
      | none => s
    s.deviceWords (pa + 4) ws

/-- Words that a write may have left: each is a free value, code and all. -/
def State.freeWrites (s : State) (loc : Nat) : Nat → State
  | 0 => s
  | n + 1 =>
    let (v, s) := s.freeWord
    (s.perform (deviceWrite loc ⟨v.setWidth 32, v.extractLsb' 32 8⟩)).freeWrites (loc + 4) n

/-- A write to `n` words that R485 reports: a free value says whether it was performed, and what its words hold then (log entry 13). -/
def State.doubt (s : State) (loc n : Nat) : State :=
  let (v, s) := s.freeWord
  if v.getLsbD 0 then s.freeWrites (wordLoc loc) n else s

/-- The word at a physical address, zero where none exists. -/
def State.physWord (s : State) (pa : Nat) : CW :=
  match physLoc pa with
  | some loc => s.homeWord loc
  | none => .zero

/-- `n` words from a physical address. -/
def State.physWords (s : State) (pa : Nat) : Nat → List CW
  | 0 => []
  | n + 1 => s.physWord pa :: s.physWords (pa + 4) n

/-- Whether a later write of the same path reaches into the bytes that a write is performed with (R271, R272, R306). -/
def Flight.under (f g : Flight) : Bool := g.path == f.path && g.loc / f.size == f.loc / f.size

/-- The writes that `p` picks, with those before them that they overwrite; and the ones that are left. -/
def pickFlights (p : Flight → Bool) : List Flight → List Flight × List Flight
  | [] => ([], [])
  | f :: fs =>
    let (out, left) := pickFlights p fs
    if p f || out.any f.under then (f :: out, left) else (out, f :: left)

/-- Perform, in order, those of a core's writes in flight that `p` picks, none before an older one of its path to the same word (R272, R283,
R306). -/
def State.drain (s : State) (core : Nat) (p : Flight → Bool) : State :=
  let fs := (s.core core).flights
  if fs.any p then (s.modCore core fun k => { k with flights := (pickFlights p fs).2 }).performAll (pickFlights p fs).1
  else s

/-- The writes of threads and sections to a line. -/
def State.drainLine (s : State) (core loc : Nat) : State := s.drain core fun f => f.loc / 64 == loc / 64 && f.path == 0

/-- Every core's writes to words of a page with RD = 1 are performed before another access to them is checked there (R294, R298). -/
def State.drainChecked (s : State) (loc n : Nat) : State :=
  (List.range s.cores.length).foldl (fun s c => s.drain c fun f => (List.range n).any fun i => f.loc / 4 == loc / 4 + i) s

/-! ## Lines of a core's caches (R249 to R252, R255) -/

/-- A page's attributes as an access sees them, with the location reached (R250, R257), whether the access takes effect at its home
point before any later one of its beam, as `beamctl.ORD` = 1 asks (R453), and the bytes that it takes as one (R271). -/
structure Page where
  loc : Nat
  cl : Nat
  wp : Nat
  evp : Nat
  rd : Bool
  dpv : Bool
  die : Nat
  now : Bool
  unit : Nat
deriving DecidableEq, Repr, Inhabited

/-- Whether a core's cache may hold the page's lines (R250, R255, R294). -/
def Page.cached (p : Page) : Bool := p.cl == 0 && !p.rd

/-- The priority with which its home slice takes the page's lines, where it does: an uncached page's it does not (R250). -/
def Page.alloc (p : Page) : Option Nat := if p.cl ≤ 1 then some p.evp else none

/-- The same for a write: a streaming one allocates at priority 0. -/
def Page.writeAlloc (p : Page) : Option Nat := if p.wp = 2 then p.alloc.map fun _ => 0 else p.alloc

/-- The launch of a dirty word's latest writer. -/
def ownerLaunch (ws : List Nat) : List Nat := ws.getLast?.toList.map (· / 2 ^ 32)

/-- The workgroups that made the dirty words of the bytes that word `i` goes home with (R271). -/
def Line.makers (l : Line) (i size : Nat) : List Nat :=
  (l.dirty.filter fun (j, _) => 4 * j / size == 4 * i / size).foldl (fun m (_, _, ws) => m ++ ws.filter fun g => !m.contains g) []

/-- The writes that carry dirty words of a line home (R285); those that one access made go together (R271). -/
def Line.flights (l : Line) (core ln : Nat) (out : SMap (Nat × List Nat)) : List Flight :=
  out.map fun (i, size, ws) =>
    { deviceWrite (ln * 64 + 4 * i) (l.words.getD i .zero) with
      tag := if isLantern core then some none else none
      stamps := (smGet? l.stamps i).getD []
      launches := ownerLaunch ws
      wgs := l.makers i size
      size := size
      shared := true
      alloc := some l.evp }

/-- The dirty words of a line that `pick` takes by their writers leave for their home points; the line stays, and keeps the others dirty
(R285, R286). -/
def State.unload (s : State) (core ln : Nat) (pick : List Nat → Bool) : State :=
  match smGet? (s.core core).lines ln with
  | none => s
  | some l =>
    let out := l.dirty.filter fun (i, size, _) => pick (l.makers i size)
    if out.isEmpty then s
    else s.modCore core fun k =>
      { k with lines := smSet k.lines ln { l with dirty := l.dirty.filter fun (i, size, _) => !pick (l.makers i size) }
               flights := k.flights ++ l.flights core ln out }

/-- Write a line's dirty words back; the line stays, clean (R285, R286). -/
def State.writeBack (s : State) (core ln : Nat) : State := (s.unload core ln fun _ => true).drainLine core (ln * 64)

/-- A line leaves the cache, its dirty words first sent home (R251); a prefetched line never touched counts 0x0A for the context that
prefetched it (R468). -/
def State.dropLine (s : State) (core ln : Nat) : State :=
  let s := s.unload core ln fun _ => true
  match smGet? (s.core core).lines ln with
  | none => s
  | some l =>
    let s := s.modCore core fun k => { k with lines := smErase k.lines ln }
    match l.origin with
    | .prefetch ctx => s.count core 0x0A ctx 1
    | .demand => s
    | .early => s

/-- The stamps a location carries at its home. -/
def State.stampsAt (s : State) (loc : Nat) : List Stamp := (smGet? s.stamps (wordLoc loc)).getD []

/-- The stamps of a line's words at its home, by word. -/
def State.homeStamps (s : State) (ln : Nat) : SMap (List Stamp) :=
  if s.stamps.isEmpty then []
  else (List.range 16).filterMap fun i =>
    let st := s.stampsAt (ln * 64 + 4 * i)
    if st.isEmpty then none else some (i, st)

/-- The 16 words of a line at its home. -/
def State.homeLine (s : State) (ln : Nat) : List CW := (List.range 16).map fun i => s.homeWord (ln * 64 + 4 * i)

/-- A core's lines in the set of a line. -/
def State.lineSet (s : State) (core ln : Nat) : List (Nat × Nat × Nat) :=
  ((s.core core).lines.filter fun (k, _) => sameSet (if isLantern core then 1 else 0) k ln).map fun (k, l) => (k, l.evp, l.used)

/-- Room for a line in a core's cache: a full set gives up its victim (R251). -/
def State.lineRoom (s : State) (core ln : Nat) : State :=
  if decide ((s.core core).lines.length < wayCount) || decide ((s.lineSet core ln).length < wayCount) then s
  else match victimOf (s.lineSet core ln) with
    | some v => s.dropLine core v
    | none => s

/-- Bring a line into the cache where it is not there. -/
def State.fetchLine (s : State) (core ln evp : Nat) (origin : LineOrigin) : State :=
  match smGet? (s.core core).lines ln with
  | some _ => s
  | none =>
    let s := ((s.lineRoom core ln).drainLine core (ln * 64)).sliceRead (ln * 64) (some evp)
    let words := s.homeLine ln
    s.modCore core fun k =>
      { k with lines := smSet k.lines ln ⟨words, [], evp, k.uses + 1, origin, s.homeStamps ln⟩, uses := k.uses + 1 }

/-- A demand access touches a line: a hit or a miss is counted, and a prefetched line becomes useful; whether it was still in flight is a free
value (R251, R468; log entry 20). -/
def State.touchLine (s : State) (core ctx ln evp : Nat) : State :=
  match smGet? (s.core core).lines ln with
  | some l =>
    let s := s.modCore core fun k =>
      { k with lines := smSet k.lines ln { l with origin := .demand, used := k.uses + 1 }, uses := k.uses + 1 }
    match l.origin with
    | .demand => s.count core 0x05 ctx 1
    | .prefetch _ =>
      let (v, s) := s.freeWord
      ((s.count core 0x05 ctx 1).count core 0x08 ctx 1).count core 0x09 ctx (if v.getLsbD 0 then 1 else 0)
    | .early => s.count core 0x06 ctx 1
  | none => (s.fetchLine core ln evp .demand).count core 0x06 ctx 1

/-- Before an access of a core goes past its cache to a location's home, its own earlier writes to that line go first and
its copy of the line goes (R272). -/
def State.passCache (s : State) (core loc : Nat) : State := (s.dropLine core (loc / 64)).drainLine core loc

/-- A plain read of a word through a core's cache, or at its home where the page is not cached (R249, R250, R281); an access that takes
effect at its home point finds its line fetched afresh (R453). -/
def State.readWord (s : State) (core ctx : Nat) (p : Page) (loc : Nat) : CW × State :=
  if p.cached then
    let s := s.touchLine core ctx (loc / 64) p.evp
    let s := if p.now then (s.dropLine core (loc / 64)).fetchLine core (loc / 64) p.evp .demand else s
    match smGet? (s.core core).lines (loc / 64) with
    | some l => (l.words.getD (loc % 64 / 4) .zero, s)
    | none => (s.homeWord loc, s)
  else
    let s := (s.passCache core loc).sliceRead loc p.alloc
    (s.homeWord loc, s)

/-- A word of a cached line becomes this, with the stamps it carries; where `dirty` gives the access's bytes and its workgroup, the word is
dirty from then on, and goes home with what the widest access since it was clean wrote beside it (R271). -/
def State.putLine (s : State) (core loc : Nat) (w : CW) (stamps : List Stamp) (dirty : Option (Nat × Nat)) : State :=
  let i := loc % 64 / 4
  s.modCore core fun k =>
    { k with
      lines := smModify k.lines (loc / 64) fun l =>
        { l with
          words := l.words.set i w
          stamps := if stamps.isEmpty then smErase l.stamps i else smSet l.stamps i stamps
          dirty := match dirty with
            | some (size, g) =>
              let old := (smGet? l.dirty i).getD (0, [])
              smSet l.dirty i (max size old.1, old.2.filter (· != g) ++ [g])
            | none => l.dirty } }

/-- A write leaves its core for its home point. -/
def State.send (s : State) (core : Nat) (f : Flight) : State := s.modCore core fun k => { k with flights := k.flights ++ [f] }

/-- A write of a whole word by a core's thread or section, through its cache as the page's policy says (R250, R252): write-back
leaves it dirty in the cache, write-through and streaming forward it, and a page that is not cached is written at its home. -/
def State.putWord (s : State) (core ctx : Nat) (p : Page) (f : Flight) : State :=
  if p.cached then
    if p.wp = 0 then
      (s.touchLine core ctx (f.loc / 64) p.evp).putLine core f.loc f.word f.stamps (some (f.size, f.wgs.headD 0))
    else
      let s := if p.wp = 1 then s.touchLine core ctx (f.loc / 64) p.evp else s
      ((s.unload core (f.loc / 64) fun _ => true).putLine core f.loc f.word f.stamps none).send core f
  else (s.dropLine core (f.loc / 64)).send core f

/-- Such a write, which goes on to its home point at once where the access takes effect there (R453). -/
def State.writeWord (s : State) (core ctx : Nat) (p : Page) (f : Flight) : State :=
  let s := s.putWord core ctx p f
  if p.now then s.writeBack core (f.loc / 64) else s

/-! ## Reads ahead of their turn (R278, R281) -/

/-- The words of a glance at a location, where it covers them. -/
def Glance.find (gs : List Glance) (loc n : Nat) : Option (List CW × List Stamp) :=
  (gs.find? fun g => decide (g.base ≤ loc) && decide (loc + 4 * n ≤ g.base + 4 * g.words.length)).map fun g =>
    ((g.words.drop ((loc - g.base) / 4)).take n, ((g.stamps.drop ((loc - g.base) / 4)).take n).flatten)

/-- Glances that cover no part of an aligned block of 16 bytes. -/
def Glance.apart (gs : List Glance) (loc : Nat) : List Glance := gs.filter fun g => g.base / 16 != loc / 16

/-! ## Race detection (R294 to R298) -/

/-- Whether an access by a workgroup to a word races with the write that left its tag (R298). -/
def State.races (s : State) (wg loc : Nat) : Bool :=
  match smGet? s.tags (wordLoc loc), s.wg? wg with
  | some t, some g =>
    t.wg != wg && t.launch == g.launch && t.epoch == ((s.launch? g.launch).map (·.epoch)).getD 0 && !g.rset.sat
      && !(g.rset.entries.any fun (w, r) => w == t.wg && decide (t.region ≤ r))
  | _, _ => false

/-- The tag a checked plain write leaves (R295). -/
def State.tagOf (s : State) (wg : Nat) : Option (Option Tag) :=
  match s.wg? wg with
  | some g => some (some ⟨g.launch, wg, g.region, ((s.launch? g.launch).map (·.epoch)).getD 0⟩)
  | none => some none

end Sys2Proof.Machine
end

