-- ==== Sys2Proof/Machine/Context.lean ====
section
/-!
DEFINITION. Sys2Proof/Machine/Context.lean: context-table entries (spec R438 to R440), messages to the host (R482), and fault
records on their way to a context's fault queue (R383, R384).
-/

namespace Sys2Proof.Machine

/-! ## Context entries -/

/-- A context entry's fields (R438). -/
structure CtxEntry where
  inj : Bool
  nopre : Bool
  pdead : Nat
  slog2 : Nat
  ptroot : Nat
  fqbase : Nat
  fqirq : Nat
  fqlog2 : Nat
  sfcount : Nat
  sfbase : Nat
  sfsize : Nat
deriving DecidableEq, Repr, Inhabited

/-- Physical address of entry c. -/
def State.ctxAddr (s : State) (c : Nat) : Nat := s.mod.ctxBase + 128 * c

/-- How many words of a list check as corrected, and how many as uncorrectable (R71). -/
def tally (ws : List CW) : Nat × Nat :=
  (ws.countP fun w => (lccCheck w).isCorrected, ws.countP fun w => (lccCheck w).data?.isNone)

/-- The data of words that all check, or nothing (R71). -/
def checkedData : List CW → Option (List Word)
  | [] => some []
  | w :: ws => match (lccCheck w).data?, checkedData ws with
    | some d, some ds => some (d :: ds)
    | _, _ => none

/-- Read an entry into the device's copy where it has none; its words are checked and counted at their slice (R438, R439). -/
def State.loadCtx (s : State) (c : Nat) : State :=
  if s.mod.ctxCount ≤ c ∨ (s.ctx c).cached.isSome then s
  else
    let ws := s.physWords (s.ctxAddr c) 32
    let (corr, unc) := tally ws
    let s := match physLoc (s.ctxAddr c) with
      | some loc => chargeHome s loc corr unc
      | none => s
    s.modCtx c fun x => { x with cached := some ws }

/-- The fields of an entry given as one number. -/
def ctxFields (n : Nat) : CtxEntry where
  inj := n.testBit 30
  nopre := n.testBit 29
  pdead := bits n 48 16
  slog2 := bits n 32 5
  ptroot := bits n 64 58
  fqbase := bits n 128 58
  fqirq := bits n 208 16
  fqlog2 := bits n 192 5
  sfcount := bits n 288 16
  sfbase := bits n 320 58
  sfsize := bits n 384 32

/-- Bytes of a save record's header and of the token save area (R174, R438). -/
def tokenArea : Nat := 294912

/-- Whether an entry's fields make it usable (R439): valid, reserved bits zero, every field in its range. Bits [31:16] of bytes 36 to 39 and
bits [63:58] of FQBASE and SFBASE, of which R438 says nothing, count as reserved bits (DESIGN CHOICE, log entry 49). -/
def ctxUsable (n : Nat) : Bool :=
  let e := ctxFields n
  n.testBit 31 && bits n 0 29 == 0 && bits n 37 11 == 0 && decide (e.pdead ≤ 10000)
    && (e.slog2 == 0 || (decide (10 ≤ e.slog2) && decide (e.slog2 ≤ 30)))
    && bits n 122 6 == 0 && e.ptroot % 2 ^ 21 == 0 && bits n 186 6 == 0 && e.fqbase % 64 == 0 && decide (e.fqirq ≤ 2047)
    && bits n 197 11 == 0 && decide (4 ≤ e.fqlog2) && decide (e.fqlog2 ≤ 16) && bits n 304 16 == 0 && bits n 378 6 == 0
    && e.sfbase % 4096 == 0 && e.sfsize % 4096 == 0 && n / 2 ^ 416 == 0
    && (e.sfcount == 0 || decide (tokenArea + 256 ≤ e.sfsize))

/-- The usable entry of a context, once loaded (R439). -/
def State.ctxEntry? (s : State) (c : Nat) : Option CtxEntry :=
  match (s.ctx c).cached with
  | some ws =>
    match checkedData ws with
    | some ds =>
      let n := natOfWords ds
      -- FQHEAD and FQTAIL (bytes 28 to 35) are judged by no range.
      if s.mod.ctxCount ≤ c then none else if ctxUsable n then some (ctxFields n) else none
    | none => none
  | none => none

/-- Load an entry and give it where it is usable. -/
def State.useCtx (s : State) (c : Nat) : Option CtxEntry × State :=
  let s := s.loadCtx c
  (s.ctxEntry? c, s)

/-! ## Messages to the host (R478, R482) -/

/-- Send the message of a vector, or set its pending bit while it is masked. -/
def State.sendMsix (s : State) (svc : Bool) (vec : Nat) : State :=
  s.modMod fun m =>
    let table := if svc then m.svcMsix else m.msix
    let v := (smGet? table vec).getD .reset
    if v.masked then
      let table := smSet table vec { v with pending := true }
      if svc then { m with svcMsix := table } else { m with msix := table }
    else { m with sent := m.sent ++ [(v.addr, v.data)] }

/-! ## Fault records (R383, R384) -/

/-- A record's 64 bytes as one number (R384). -/
def FaultRec.number (r : FaultRec) : Nat :=
  r.kind + r.cause * 2 ^ 8 + r.detail * 2 ^ 16 + r.reason * 2 ^ 24 + r.source * 2 ^ 32 + r.level * 2 ^ 40 + r.lid * 2 ^ 64
    + r.wg * 2 ^ 128 + r.unit * 2 ^ 160 + r.addr * 2 ^ 192 + r.pc * 2 ^ 264 + r.data * 2 ^ 336 + r.lanes * 2 ^ 384
    + r.seq * 2 ^ 448

/-- Fresh codewords of `n` words of a number (R132). -/
def freshWords (n x : Nat) : List CW := (wordsOfNat n x).map CW.make

/-- Die whose holding buffer takes a unit's records (R383); the dispatcher's go to die 0 (log entry 11). -/
def dieOfUnit (u : Nat) : Nat := if u < 288 then u / 36 else if u < 0xC000 then (u - 0x8000) / 16 else 0

/-- Free slots of a context's ring, with its tail; nothing where the context has no usable entry or no valid ring (R383). -/
def State.ring? (s : State) (c : Nat) : Option (CtxEntry × Nat × Nat) :=
  match s.ctxEntry? c with
  | none => none
  | some e =>
    let size := 2 ^ e.fqlog2
    match physLoc e.fqbase, physLoc (e.fqbase + 64 * size - 4), (lccCheck (s.physWord (s.ctxAddr c + 28))).data?,
        (lccCheck (s.physWord (s.ctxAddr c + 32))).data? with
    | some _, some _, some head, some tail =>
      if isSystem e.fqbase then none else some (e, size - min size ((tail - head).toNat), tail.toNat)
    | _, _, _, _ => none

/-- Write a record at the tail, advance FQTAIL, then signal the context's interrupt (R383, R482). -/
def State.writeRecord (s : State) (c : Nat) (e : CtxEntry) (tail : Nat) (r : FaultRec) : State :=
  let seq := (s.ctx c).seq + 1
  let s := s.modCtx c fun x => { x with seq := seq }
  let s := s.deviceWords (e.fqbase + 64 * (tail % 2 ^ e.fqlog2)) (freshWords 16 { r with seq := seq }.number)
  let s := s.deviceWords (s.ctxAddr c + 32) [CW.make (.ofNat 32 (tail + 1))]
  s.sendMsix false e.fqirq

/-- The device looks at FQHEAD and FQTAIL: what their words show is counted at their slice (R439, R469). -/
def State.lookRing (s : State) (c : Nat) : State :=
  if (s.ctxEntry? c).isNone then s
  else
    let (corr, unc) := tally (s.physWords (s.ctxAddr c + 28) 2)
    match physLoc (s.ctxAddr c + 28) with
    | some loc => chargeHome s loc corr unc
    | none => s

/-- Whether a record of this context is held back. -/
def State.heldBack (s : State) (c : Nat) : Bool := s.dies.any fun d => (d.holding ++ d.stalled).any fun (x, _) => x == c

/-- Records a die's holding buffer holds (R383). -/
def holdingSize : Nat := 64

/-- A record that finds no room in its ring: it waits in the holding buffer, or, while that is full, with its agent, which stalls (R383). -/
def Die.hold (d : Die) (c : Nat) (r : FaultRec) : Die :=
  if d.holding.length < holdingSize ∧ d.stalled.isEmpty then { d with holding := d.holding ++ [(c, r)] }
  else { d with stalled := d.stalled ++ [(c, r)] }

/-- Post a record: into the ring, or into the die's holding buffer while the ring has no room or no usable entry stands. -/
def State.postRecord (s : State) (c : Nat) (r : FaultRec) : State :=
  let s := (s.loadCtx c).lookRing c
  match s.ring? c with
  | some (e, free, tail) => if free = 0 ∨ s.heldBack c then s.modDie (dieOfUnit r.unit) fun d => d.hold c r else s.writeRecord c e tail r
  | none => s.modDie (dieOfUnit r.unit) fun d => d.hold c r

/-- Whether an agent of a unit that posts a record would not stall (R383). -/
def State.mayPost (s : State) (c unit : Nat) : Bool :=
  let d := s.die (dieOfUnit unit)
  let room := match s.ring? c with
    | some (_, free, _) => free != 0 && !s.heldBack c
    | none => false
  room || (decide (d.holding.length < holdingSize) && d.stalled.isEmpty)

/-- The dispatcher stalls while a record that it posts finds no room (R383). -/
def State.dispatcherStalls (s : State) : Bool := s.dies.any fun d => d.stalled.any fun (_, r) => r.source == 5

/-- Agents of a die that stall post again, in order (R383). -/
def State.retryStalled (s : State) (d : Nat) : State :=
  let late := (s.die d).stalled
  if late.isEmpty then s
  else late.foldl (fun s (c, r) => s.postRecord c r) (s.modDie d fun x => { x with stalled := [] })

/-- The first held record of a context, with its die. -/
def State.firstHeld (s : State) (c : Nat) : Option (Nat × FaultRec) :=
  (List.range 8).findSome? fun d => ((s.die d).holding.find? fun (x, _) => x == c).map fun (_, r) => (d, r)

/-- Drop the first held record of a context on a die. -/
def dropHeld (c : Nat) : List (Nat × FaultRec) → List (Nat × FaultRec)
  | [] => []
  | (x, r) :: rest => if x = c then rest else (x, r) :: dropHeld c rest

/-- Move held records of a context into its ring while it has room. -/
def State.flushHeld (s : State) (c : Nat) : Nat → State
  | 0 => s
  | n + 1 =>
    let s := s.lookRing c
    match s.ring? c, s.firstHeld c with
    | some (e, free, tail), some (d, r) =>
      if free = 0 then s
      else ((s.modDie d fun x => { x with holding := dropHeld c x.holding }).writeRecord c e tail r).flushHeld c n
    | _, _ => s

/-- A page fault's span becomes a waiting span of its context; its record is posted once (R160). -/
def State.waitSpan (s : State) (sp : Span) (r : FaultRec) : State :=
  if (s.ctx sp.ctx).spans.contains sp then s
  else (s.modCtx sp.ctx fun x => { x with spans := x.spans ++ [sp] }).postRecord sp.ctx r

end Sys2Proof.Machine
end

