-- ==== Sys2Proof/Machine/Translate.lean ====
section
/-!
DEFINITION. Sys2Proof/Machine/Translate.lean: the five-level page tables, the walk, the TLBs and the rights of an access (spec R256
to R261, R156).
-/

namespace Sys2Proof.Machine

/-! ## Entries (R256 to R258) -/

/-- Lowest virtual-address bit a level indexes (R256). -/
def levelShift : Nat → Nat
  | 5 => 55 | 4 => 39 | 3 => 30 | 2 => 21 | _ => 16

/-- Bits a level indexes. -/
def levelBits : Nat → Nat
  | 5 => 17 | 4 => 16 | 3 => 9 | 2 => 9 | _ => 5

/-- log2 of the bytes a fault span or a leaf of this level covers (R160, R256). -/
def spanBits (level : Nat) : Nat := levelShift level

/-- A virtual address with its low bits cleared to a level's span. -/
def spanBase (level va : Nat) : Nat := va - va % 2 ^ spanBits level

/-- Bytes of a level's table (R256). -/
def tableBytes (level : Nat) : Nat := 16 * 2 ^ levelBits level

/-- Whether a range lies wholly in view I, wholly in view P, or wholly in the system addresses of one module (R258). -/
def rangeOk (pa size : Nat) : Bool :=
  decide (pa + size ≤ 0xC000000000) || (decide (0x10000000000 ≤ pa) && decide (pa + size ≤ 0x1C000000000))
    || (isSystem pa && decide (pa % 2 ^ 50 + size ≤ 2 ^ 50) && decide (pa < 2 ^ 58))

def inViewP (pa : Nat) : Bool := decide (0x10000000000 ≤ pa) && decide (pa < 0x1C000000000)

/-- Fields of an entry (R257). -/
def pteLeaf (e : Nat) : Bool := e.testBit 1
def pteAddr (e : Nat) : Nat := bits e 9 49 * 512
def pteCl (e : Nat) : Nat := bits e 108 2
def pteWp (e : Nat) : Nat := bits e 110 2
def pteDie (e : Nat) : Nat := bits e 113 3
def pteDpv (e : Nat) : Bool := e.testBit 116
def pteEvp (e : Nat) : Nat := bits e 117 2
def pteRd (e : Nat) : Bool := e.testBit 119

/-- R258, for an entry with V = 1 read at this level. -/
def pteMalformed (level e : Nat) : Bool :=
  let addr := pteAddr e
  let leaf := pteLeaf e
  let size := if leaf then 2 ^ spanBits level else tableBytes (level - 1)
  bits e 120 8 != 0 || bits e 58 50 != 0 || bits e 5 4 != 0
    || (!leaf && (bits e 108 12 != 0 || bits e 2 3 != 0))
    || (leaf && level == 5) || (!leaf && level == 1)
    || addr % size != 0 || !rangeOk addr size
    || (!leaf && isSystem addr)
    || (leaf && (pteWp e == 3 || ((pteCl e == 2) != isSystem addr)
        || (pteDpv e && !(inViewP addr && (addr - 0x10000000000) / dieBytes == pteDie e
              && (addr - 0x10000000000 + size - 1) / dieBytes == pteDie e))
        || (!pteDpv e && inViewP addr)
        || (e.testBit 112 && isSystem addr)))

/-! ## The walk (R259) -/

/-- What a translation answers: a leaf, or the step that ended the walk: its reason (1 NOT_VALID, 2 MALFORMED, 3 ENTRY_LCC, R384)
and the level that decided it. -/
inductive Xlat where
  | leaf (t : TlbEntry)
  | fault (reason level : Nat)
deriving DecidableEq, Repr

/-- Walk from `level` (counting down with the recursion) through the table at a physical address. -/
def walk (s : State) (ctx va : Nat) : Nat → Nat → Xlat × State
  | 0, _ => (.fault 2 1, s)
  | level + 1, table =>
    let lv := level + 1
    let pa := table + 16 * bits va (levelShift lv) (levelBits lv)
    let ws := s.physWords pa 4
    let (corr, unc) := tally ws
    let s := match physLoc pa with
      | some loc => chargeHome s loc corr unc
      | none => s
    match checkedData ws with
    | none => (.fault 3 lv, s)
    | some ds =>
      let e := natOfWords ds
      if !e.testBit 0 then (.fault 1 lv, s)
      else if pteMalformed lv e then (.fault 2 lv, s)
      else if pteLeaf e then (.leaf ⟨ctx, spanBase lv va, lv, e⟩, s)
      else walk s ctx va level (pteAddr e)

/-! ## TLBs (R260) -/

def TlbEntry.covers (t : TlbEntry) (ctx va : Nat) : Bool := t.ctx == ctx && t.base == spanBase t.level va

/-- The root of a context's tables, from the device's copy of its entry (R438). -/
def State.ptRoot (s : State) (ctx : Nat) : Nat :=
  match (s.ctx ctx).cached with
  | some ws => bits (natOfWords (ws.map fun w => ((lccCheck w).data?).getD w.data)) 64 58
  | none => 0

/-- Translate an address for an agent at a core: the core's own TLB, then the die's, then a walk, whose leaf both keep; a full
TLB gives up the translation that it filled in first (log entry 51). A lantern core uses its die's TLB only. -/
def State.translate (s : State) (core ctx va : Nat) : Xlat × State :=
  let va := va % 2 ^ 72
  let d := dieOfCore core
  let own := if isLantern core then none else (s.core core).tlb.find? (·.covers ctx va)
  match own with
  | some t => (.leaf t, s)
  | none =>
    let keep := fun (s : State) (t : TlbEntry) =>
      if isLantern core then s else s.modCore core fun k => { k with tlb := (t :: k.tlb).take 512 }
    match (s.die d).tlb.find? (·.covers ctx va) with
    | some t => (.leaf t, keep s t)
    | none =>
      let s := s.loadCtx ctx
      match walk s ctx va 5 (s.ptRoot ctx) with
      | (.leaf t, s) => (.leaf t, keep (s.modDie d fun x => { x with tlb := (t :: x.tlb).take 16384 }) t)
      | r => r

/-! ## Rights and attributes -/

/-- What an access does: it reads, writes, or fetches. -/
structure Access where
  read : Bool
  write : Bool
  fetch : Bool
  engine : Bool
deriving DecidableEq, Repr

def Access.load : Access := ⟨true, false, false, false⟩
def Access.store : Access := ⟨false, true, false, false⟩
def Access.atomic : Access := ⟨true, true, false, false⟩
def Access.fetching : Access := ⟨false, false, true, false⟩

/-- The access bits of a fault (R156); bit 3 is added by the fault itself. -/
def Access.bits (a : Access) : Nat := (if a.write then 1 else 0) + (if a.fetch then 2 else 0) + (if a.engine then 4 else 0)

/-- The page a leaf gives an address (R246, R257). -/
def TlbEntry.page (t : TlbEntry) (va : Nat) : Page :=
  let pa := pteAddr t.entry + va % 2 ^ spanBits t.level
  ⟨(physLoc pa).getD pa, pteCl t.entry, pteWp t.entry, pteEvp t.entry, pteRd t.entry, pteDpv t.entry, pteDie t.entry, false, 4⟩

/-- Whether a leaf allows an access (R259 step 4). -/
def TlbEntry.allows (t : TlbEntry) (a : Access) : Bool :=
  (!a.read || t.entry.testBit 2) && (!a.write || t.entry.testBit 3) && (!a.fetch || t.entry.testBit 4)

/-- How far an access gets: a page, a page fault, a denial with its access bits, or a location whose module does not answer. -/
inductive Reach where
  | page (p : Page)
  | fault (reason level : Nat)
  | deny (bits : Nat)
  | silent (loc bits : Nat)
deriving DecidableEq, Repr

/-- Translate an address and judge the access (R259, R483, R485). -/
def State.reach (s : State) (core ctx va : Nat) (a : Access) : Reach × State :=
  match s.translate core ctx va with
  | (.fault r l, s) => (.fault r l, s)
  | (.leaf t, s) =>
    let p := t.page (va % 2 ^ 72)
    if !t.allows a then (.deny a.bits, s)
    else if isSystem p.loc && decide (s.mod.domain ≤ moduleOf p.loc) then (.deny (a.bits + 8), s)
    else if isSystem p.loc && s.mod.silent.contains (moduleOf p.loc) then (.silent p.loc a.bits, s)
    else (.page p, s)

/-! ## Waiting for a module that does not answer (R485) -/

/-- Clocks of its core that an access waits. -/
def answerLimit : Nat := 2 ^ 24

/-- An agent waits for a location whose module does not answer: whether it has waited long enough, and the state that keeps its wait, or
has ended it. -/
def State.waited (s : State) (who : Waiter) (core loc : Nat) : Bool × State :=
  match s.mod.waits.find? fun w => w.who == who && w.loc == loc with
  | some w =>
    if w.since + answerLimit ≤ s.clockAt core then (true, s.modMod fun m => { m with waits := m.waits.erase w }) else (false, s)
  | none => (false, s.modMod fun m => { m with waits := m.waits ++ [⟨who, loc, s.clockAt core⟩] })

end Sys2Proof.Machine
end

