-- ==== Sys2Proof/Machine/Order.lean ====
section
/-!
DEFINITION. Sys2Proof/Machine/Order.lean: scopes and their regions (spec R33, R34, R279), signatures and beacon boards (R286 to
R289), the steps of a release and of an acquire, and the race sets they carry (R296, R297).
-/

namespace Sys2Proof.Machine

/-- The scopes of R33, numbered as instructions encode them where they name all five. -/
inductive Scope where
  | beam | wg | die | dev | sys
deriving DecidableEq, Repr, Inhabited

/-- Scope codes (R104). -/
def scopeOf : Nat → Scope
  | 0 => .beam
  | 1 => .wg
  | 2 => .die
  | 3 => .dev
  | _ => .sys

/-- Whether the scope is die or wider. -/
def Scope.wide : Scope → Bool
  | .beam => false | .wg => false | .die => true | .dev => true | .sys => true

/-- Whether a location lies in the region of a scope for an agent of a die (R279); workgroup and beam scope govern no home point. -/
def Scope.region (sc : Scope) (die loc : Nat) : Bool :=
  match sc with
  | .beam => false
  | .wg => false
  | .die => !isSystem loc && dieOfLoc loc == die
  | .dev => !isSystem loc
  | .sys => true

/-! ## Signatures (R287) -/

/-- The line key of a line of a cell. -/
def lineKey (ln : Nat) : Nat := dieOfLoc (ln * 64) * 2 ^ 31 + bits (ln * 64 % dieBytes) 6 31

def foldKey (key : Nat) : Nat := bits key 0 9 ^^^ bits key 9 9 ^^^ bits key 18 9 ^^^ bits key 27 7

/-- The two bits a line sets. -/
def lineSig (ln : Nat) : Nat :=
  let key := lineKey ln
  laneBit (foldKey key) ||| laneBit (foldKey (key ^^^ (key >>> 13)))

def sigOf : List Nat → Nat
  | [] => 0
  | ln :: lns => lineSig ln ||| sigOf lns

def sigMatches (sig ln : Nat) : Bool := lineSig ln &&& sig == lineSig ln

/-! ## Boards (R288, R437) -/

/-- Add one entry to a die's board; the newest 256 stand. -/
def Die.post (d : Die) (p : Post) : Die :=
  { d with tail := d.tail + 1, board := (d.board ++ [{ p with seq := d.tail + 1 }]).drop (d.board.length + 1 - 256) }

/-- Post to the given dies; answers the entries' names. -/
def State.post (s : State) (p : Post) : List Nat → Stamp × State
  | [] => ([], s)
  | d :: ds =>
    let s := s.modDie d fun x => x.post p
    let (st, s') := s.post p ds
    ((d, (s.die d).tail) :: st, s')

/-! ## Release (R286) -/

/-- Lines an agent wrote that no release has covered. -/
def State.uncovered (s : State) (pl : Place) : List Nat :=
  if pl.lantern then ((s.section? (pl.core - 288)).map (·.uncovered)).getD []
  else ((s.wg? pl.wg).map (·.uncovered)).getD []

def State.setUncovered (s : State) (pl : Place) (ls : List Nat) : State :=
  if pl.lantern then s.modSection (pl.core - 288) fun r => { r with uncovered := ls }
  else s.modWg pl.wg fun g => { g with uncovered := ls }

/-- Lines are to be signed. -/
def State.addUncovered (s : State) (pl : Place) (ls : List Nat) : State :=
  let un := s.uncovered pl
  s.setUncovered pl (un ++ ls.filter fun ln => !un.contains ln)

/-- Whether a written line is to be signed: its page's lines may be held by an L1 (R286). -/
def Page.signed (p : Page) (loc : Nat) : Bool := p.cl == 0 && !isSystem loc

/-- A line was written on a page that an L1 may hold: it is to be signed. -/
def State.noteWritten (s : State) (pl : Place) (p : Page) (loc : Nat) : State :=
  if p.signed loc then s.addUncovered pl [loc / 64] else s

/-- Lines of a core's cache that hold words an agent wrote and that lie in the region. -/
def State.ownDirty (s : State) (pl : Place) (sc : Scope) : List Nat :=
  ((s.core pl.core).lines.filter fun (ln, l) =>
    (l.dirty.any fun (_, _, ws) => pl.lantern || ws.contains pl.wg) && sc.region pl.die (ln * 64)).map (·.1)

/-- The boards a release posts to (R286 step 4). -/
def Scope.boards (sc : Scope) (die : Nat) : List Nat := if sc = .die then [die] else List.range 8

/-- The flights that an agent's workgroup has made. -/
def flightOfWg (wg : Nat) (f : Flight) : Bool := f.wgs.contains wg

/-- Writes of a core that a release below die scope orders before what its workgroup does later (R273, R277). -/
def State.share (s : State) (core : Nat) (p : Flight → Bool) : State :=
  if (s.core core).flights.any p then
    s.modCore core fun k => { k with flights := k.flights.map fun f => if p f then { f with shared := true } else f }
  else s

/-- The region and the set that an agent's release publishes (R297). -/
def State.published (s : State) (pl : Place) : Nat × RSet :=
  if pl.lantern then (0, ((s.section? (pl.core - 288)).map (·.rset)).getD RSet.empty)
  else match s.wg? pl.wg with
    | some g => (g.region, g.rset)
    | none => (0, RSet.empty)

/-- The steps of a release before its releasing write (R286): the thread's earlier writes are performed, and those of its workgroup that
stand before them; the agent's dirty lines of the region go home; and the lines written and not covered are signed and posted. A line that a
write of the workgroup is still on its way to stays to be signed again. Answers the stamp of the post; a release below die scope needs none
of it (R283). `mine` picks the flights of the releasing thread. -/
def State.release (s : State) (pl : Place) (sc : Scope) (mine : Flight → Bool) : Stamp × State :=
  if sc.wide then
    let own := fun (f : Flight) => pl.lantern || flightOfWg pl.wg f
    let s := (s.ownDirty pl sc).foldl (fun s ln => s.unload pl.core ln fun _ => true) s
    let s := s.drain pl.core fun f => (mine f || (own f && f.shared)) && sc.region pl.die f.loc
    let un := s.uncovered pl
    let late := ((s.core pl.core).flights.filter own).map fun f => f.loc / 64
    let s := s.setUncovered pl (un.filter fun ln => !sc.region pl.die (ln * 64) || late.contains ln)
    let (region, set) := s.published pl
    s.post ⟨0, sigOf (un.filter fun ln => sc.region pl.die (ln * 64)), posterOfCore pl.core, pl.launch, pl.wg, region, set⟩
      (sc.boards pl.die)
  else ([], s.share pl.core mine)

/-- The flights of one thread of a workgroup on the THREAD path. -/
def flightOf (wg thread : Nat) (f : Flight) : Bool := f.wgs.contains wg && f.thread == thread && f.path == 0

/-- A region advances at a release, acquire or fence of die or wider scope (R296). -/
def State.advanceRegion (s : State) (pl : Place) (sc : Scope) : State :=
  if sc.wide then s.modWg pl.wg Wg.advance else s

/-! ## Acquire (R289) -/

/-- The steps of an acquire after its read: the core's cache drops the lines that newer posts of other posters name, or all of
them where the board has wrapped; LAST becomes the tail. -/
def State.acquire (s : State) (pl : Place) (sc : Scope) : State :=
  if sc.wide then
    let d := s.die pl.die
    let k := s.core pl.core
    let s :=
      if d.tail - k.last ≤ 256 then
        let news := d.board.filter fun p => decide (k.last < p.seq) && p.poster != posterOfCore pl.core
        let hit := k.lines.filter fun (ln, _) => news.any fun p => sigMatches p.sig ln
        hit.foldl (fun s (ln, _) => s.dropLine pl.core ln) s
      else k.lines.foldl (fun s (ln, _) => s.dropLine pl.core ln) s
    s.modCore pl.core fun k => { k with last := d.tail }
  else s

/-! ## Synchronising through stamps (R274, R297) -/

def dieOfPoster (p : Nat) : Nat := if p < 0x8000 then p / 36 else (p - 0x8000) / 16

/-- What an agent acquires joins its workgroup's set, or its section's (R297). -/
def State.absorb (s : State) (pl : Place) (r : RSet) : State :=
  if pl.lantern then s.modSection (pl.core - 288) fun x => { x with rset := x.rset.merge r } else s.modWg pl.wg fun g => g.absorb r

/-- What an acquire of an agent at scope `sc` takes from one stamp of a word at `loc`: nothing where the release does not
synchronise with it; SAT where the entry has been overwritten. -/
def State.takeStamp (s : State) (pl : Place) (sc : Scope) (loc : Nat) (st : Stamp) : State :=
  match st.find? (·.1 == pl.die) with
  | none => s
  | some (d, n) =>
    if (st.length == 1 || sc == .die) && (isSystem loc || dieOfLoc loc != pl.die) then s
    else
      match (s.die d).board.find? (·.seq == n) with
      | none => s.absorb pl ⟨[], true⟩
      | some p =>
        if sc == .die && dieOfPoster p.poster != pl.die then s
        else s.absorb pl { entries := (if p.wg = 0 then [] else [(p.wg, p.region)]) ++ p.set.entries, sat := p.set.sat }

/-- Merge the stamps a location carries (R297). -/
def State.takeStamps (s : State) (pl : Place) (sc : Scope) (loc : Nat) (sts : List Stamp) : State :=
  if sc.wide then sts.foldl (fun s st => s.takeStamp pl sc loc st) s else s

end Sys2Proof.Machine
end

