-- ==== Sys2Proof/Machine/Frontier.lean ====
section
/-!
DEFINITION. Sys2Proof/Machine/Frontier.lean: the frontier of a beam and how lanes move in it (spec R422 to R426), its parked records
(R160, R175), and the outstanding results of its lanes (R79 to R83).
-/

namespace Sys2Proof.Machine

/-! ## Lanes of a beam -/

/-- Virtual lanes in use (R427): a regrouped beam may hold fewer than its width. -/
def Beam.count (b : Beam) : Nat := b.lanes.length

def Beam.lane (b : Beam) (l : Nat) : Lane := b.lanes.getD l default

def Beam.modLane (b : Beam) (l : Nat) (f : Lane → Lane) : Beam := { b with lanes := b.lanes.modify l f }

/-- A lane's thread no longer uses a read that took effect ahead of its turn (R278). -/
def Lane.forget (l : Lane) : Lane := { l with early := [] }

/-- The mask of lanes that have not exited. -/
def Beam.live (b : Beam) : Nat := maskOf ((List.range b.count).filter fun l => !(b.lane l).exited)

/-- The allocation per lane (R128, R151). -/
def Beam.total (b : Beam) : Nat := b.base + b.ext

/-! ## Entries (R422 to R424) -/

/-- Put an entry into a frontier: a runnable one merges with a runnable entry of the same priority and address. -/
def placeEntry : List Entry → Entry → List Entry
  | [], e => if e.lanes = 0 then [] else [e]
  | x :: xs, e =>
    if e.lanes = 0 then x :: xs
    else if x.kind = .runnable ∧ e.kind = .runnable ∧ x.pc = e.pc ∧ x.pri = e.pri then
      { x with lanes := x.lanes ||| e.lanes, hold := x.hold ||| e.hold } :: xs
    else x :: placeEntry xs e

/-- Put entries into a frontier, one after another. -/
def placeEntries (fr es : List Entry) : List Entry := es.foldl placeEntry fr

/-- Lanes leave whatever entries they stand in. The others go on waiting for the results of the path that they issued in (R80). -/
def removeLanes (fr : List Entry) (lanes : Nat) : List Entry :=
  (fr.map fun e => { e with lanes := maskSub e.lanes lanes }).filter (·.lanes != 0)

def Entry.run (pc pri lanes hold : Nat) : Entry := ⟨pc % 2 ^ 72, pri, lanes, .runnable, hold⟩

/-- Whether `a` issues before `b`: the higher priority, then the lower address (R424). -/
def Entry.before (a b : Entry) : Bool := decide (b.pri < a.pri) || (a.pri == b.pri && decide (a.pc < b.pc))

/-- The first of the runnable entries (R424). -/
def firstOf : List Entry → Option Entry
  | [] => none
  | e :: es =>
    match firstOf es with
    | none => if e.kind = .runnable then some e else none
    | some x => if e.kind = .runnable ∧ e.before x then some e else some x

/-- Whether lanes have outstanding results. -/
def Beam.waiting (b : Beam) (lanes : Nat) : Bool := b.outstanding.any fun p => p.lanes &&& lanes != 0

/-- The entries that can issue: those that are runnable and whose path does not wait for results (R80, R424; log entry 1). -/
def Beam.ready (b : Beam) : List Entry := b.frontier.filter fun e => e.kind == .runnable && !b.waiting e.hold

/-- The entry of the primary port, or of the second port (R377, R424). -/
def Beam.entry? (b : Beam) (second : Bool) : Option Entry :=
  match firstOf b.ready with
  | none => none
  | some e => if second then firstOf (b.ready.filter (· != e)) else some e

def Beam.setFrontier (b : Beam) (fr : List Entry) : Beam := { b with frontier := fr }

/-- Lanes leave their entries and stand in the given ones. -/
def Beam.move (b : Beam) (lanes : Nat) (es : List Entry) : Beam :=
  { b with frontier := placeEntries (removeLanes b.frontier lanes) es }

/-- The lanes of a frontier's parked entries. -/
def parkedLanes (fr : List Entry) : Nat :=
  fr.foldl (fun m e => match e.kind with
    | .parked _ => m ||| e.lanes
    | _ => m) 0

/-! ## Register writes -/

/-- Write registers of one lane. -/
def Beam.write (b : Beam) : RegWrite → Beam
  | .v l n w => b.modLane l fun x => { x with v := x.v.set n w }
  | .s n r => { b with s := b.s.set n r }
  | .k n r => if n = 0 then b else { b with k := b.k.set n r }
  | .x l n r => b.modLane l fun y => { y with x := y.x.set n r }
  | .m l n r => b.modLane l fun y => { y with m := y.m.set n r }

def Beam.writes (b : Beam) (ws : List RegWrite) : Beam := ws.foldl Beam.write b

/-- A register by class and number, for the latch, the outstanding results and hazards. -/
inductive RegName where
  | v (n : Nat) | s (n : Nat) | k (n : Nat) | x (n : Nat) | m (n : Nat)
deriving DecidableEq, Repr

def RegWrite.name : RegWrite → RegName
  | .v _ n _ => .v n
  | .s n _ => .s n
  | .k n _ => .k n
  | .x _ n _ => .x n
  | .m _ n _ => .m n

/-- The lanes a write is destined for, where it names one lane. -/
def RegWrite.lanes (dflt : Nat) : RegWrite → Nat
  | .v l _ _ => laneBit l
  | .x l _ _ => laneBit l
  | .m l _ _ => laneBit l
  | .s _ _ => dflt
  | .k _ _ => dflt

/-- Writes free the latch entries of their v registers at once (R150). -/
def Beam.unlatch (b : Beam) (ws : List RegWrite) : Beam :=
  { b with latch := b.latch.filter fun (n, _) => !(ws.any fun w => w.name == .v n) }

/-! ## Outstanding results (R79 to R83) -/

/-- Apply a change to the frontier that holds these parked lanes: the current one, or the one kept aside (R426). -/
def Beam.onFrontiers (b : Beam) (f : List Entry → List Entry) : Beam :=
  { b with frontier := f b.frontier, kept := b.kept.map f }

/-- Whether the results that a switch-marker wait waits for are all outstanding once its instruction has issued: those of a `tkwait`, and of a
parked instruction, are still to come. -/
def EntryKind.resultsKnown : EntryKind → Bool
  | .tkwait _ _ _ _ => false
  | .parked _ => false
  | _ => true

/-- An entry that waits for results of which none is outstanding any more waits for none: those of later instructions do not hold it (R80). -/
def Beam.freed (b : Beam) (e : Entry) : Entry :=
  if e.kind.resultsKnown && !b.waiting e.hold then { e with hold := 0 } else e

/-- Switch-marker waits that are over end (R80). -/
def Beam.unhold (b : Beam) : Beam := b.onFrontiers fun fr => fr.map b.freed

/-- Land one outstanding result. -/
def Beam.land (b : Beam) (idx : Nat) : Beam :=
  match b.outstanding[idx]? with
  | some p => ({ (b.write p.write).unlatch [p.write] with outstanding := b.outstanding.eraseIdx idx } : Beam).unhold
  | none => b

/-- Land, oldest first, every outstanding result destined for any of these lanes. -/
def Beam.landFor (b : Beam) (lanes : Nat) : Beam :=
  let now := (b.outstanding.filter fun p => p.lanes &&& lanes != 0).map (·.write)
  ({ (b.writes now).unlatch now with outstanding := b.outstanding.filter fun p => p.lanes &&& lanes == 0 } : Beam).unhold

/-- R83: every outstanding result of the lanes that are not parked is written. -/
def Beam.settle (b : Beam) : Beam :=
  let parked := parkedLanes b.frontier ||| parkedLanes (b.kept.getD [])
  b.landFor (maskSub (2 ^ 64 - 1) parked)

/-- Whether a register has an outstanding result for one of these lanes (R82). -/
def Beam.hazard (b : Beam) (names : List RegName) (lanes : Nat) : Bool :=
  b.outstanding.any fun p => p.lanes &&& lanes != 0 && names.contains p.write.name

/-! ## Parked records (R160, R175) -/

/-- Parked instructions a beam may hold. -/
def parkLimit : Nat := 40

/-- Park lanes under new records, each with its cause; nothing where the records do not suffice. `sw` is the instruction's switch marker:
a lane that goes on after the instruction without a replay waits then as it asks (R80; log entry 52). -/
def Beam.park (b : Beam) (pc pri : Nat) (sw prefixed : Bool) (words : List Nat) : List (ParkCause × Nat) → Option Beam
  | [] => some b
  | (c, lanes) :: rest =>
    match smFree b.parked parkLimit with
    | none => none
    | some i =>
      ({ b.move lanes [⟨pc, pri, lanes, .parked i, if sw then lanes else 0⟩] with
          parked := smSet b.parked i ⟨c, pc, pri, lanes, prefixed, words⟩ }).park pc pri sw prefixed words rest

/-- Lanes of the entry of a parked record, as runnable lanes at this address; `after`: they go on after their instruction, with its
switch-marker wait. -/
def unparkEntry (i pc lanes : Nat) (after : Bool) (fr : List Entry) : List Entry :=
  match fr.find? (·.kind == .parked i) with
  | none => fr
  | some e =>
    let stay := fr.filterMap fun x => if x.kind = .parked i then
        (if maskSub x.lanes lanes = 0 then none else some { x with lanes := maskSub x.lanes lanes }) else some x
    placeEntry stay (.run pc e.pri (e.lanes &&& lanes) (if after then e.hold &&& lanes else 0))

/-- Lanes of a parked record become runnable at an address: to replay their instruction, or after it; the record goes with its last lane. -/
def Beam.unpark (b : Beam) (i pc lanes : Nat) (after : Bool) : Beam :=
  match smGet? b.parked i with
  | none => b
  | some r =>
    let b := (b.onFrontiers (unparkEntry i pc lanes after)).unhold
    let rest := maskSub r.lanes lanes
    { b with parked := if rest = 0 then smErase b.parked i else smSet b.parked i { r with lanes := rest } }

end Sys2Proof.Machine
end

