-- ==== Sys2Proof/Machine/Finish.lean ====
section
/-!
DEFINITION. Sys2Proof/Machine/Finish.lean: reading instruction memory (spec R75, R447, R537), barriers (R432, R454 to R456), joins
(R452), tickets (R459, R460), eligibility (R372), and how threads, workgroups and their claims end (R170, R451).
-/

namespace Sys2Proof.Machine

/-! ## Instruction memory -/

/-- Whether a span contains an address of a context. -/
def Span.holds (sp : Span) (ctx va : Nat) : Bool := sp.ctx == ctx && sp.base == spanBase sp.level (va % 2 ^ 72)

/-- The word a fetch of an agent's grid reads at an address and its location: as it stood at eligibility, or, where the grid itself has
stored there since, the old or the new word as `old` chooses (R75); in a span that page service has mapped since then, as it stands
(R160; log entry 42). -/
def State.codeWord (s : State) (pl : Place) (va loc : Nat) (old : Bool) : CW :=
  match s.launch? pl.launch with
  | none => s.homeWord loc
  | some l =>
    if l.served.any fun sp => sp.holds pl.ctx va then s.homeWord loc
    else match smGet? l.oldCode (wordLoc loc) with
      | some (o, own) => if old then o else own.getD o
      | none => s.homeWord loc

/-- The word at an address as a fetch would read it, where it can be fetched (R259 step 4, R537). -/
def State.peek (s : State) (pl : Place) (pc : Nat) : Option Word :=
  match (s.reach pl.core pl.ctx pc .fetching).1 with
  | .page p => (lccCheck (s.codeWord pl pc p.loc false)).data?
  | _ => none

/-- The priority an address gives lanes placed at it: that of a `pri` word there (R447). -/
def State.priAt (s : State) (pl : Place) (pc pri : Nat) : Nat :=
  match s.peek pl pc with
  | some w => if bits w.toNat 24 7 = 0x6B ∧ bits w.toNat 16 8 = 0 then bits w.toNat 0 16 else pri
  | none => pri

/-- The address after the instruction at `pc` (R446). -/
def State.nextOf (s : State) (pl : Place) (pc : Nat) : Nat :=
  match s.peek pl pc with
  | some w => if isPrefix w.toNat then pc + 8 else pc + 4
  | none => pc + 4

/-- The lanes of a runnable entry that already stood at its address. -/
def stoodAt (was : List Entry) (pc : Nat) : Nat :=
  was.foldl (fun m e => if e.kind = .runnable ∧ e.pc = pc then m ||| e.lanes else m) 0

/-- Lanes that are newly placed at an address take the priority of a `pri` word there; entries then merge (R423, R447). -/
def State.settlePri (s : State) (pl : Place) (was fr : List Entry) : List Entry :=
  placeEntries [] (fr.flatMap fun e =>
    let fresh := maskSub e.lanes (stoodAt was e.pc)
    if e.kind ≠ .runnable ∨ fresh = 0 then [e]
    else [{ e with lanes := maskSub e.lanes fresh }, { e with lanes := fresh, pri := s.priAt pl e.pc e.pri }])

/-- The frontiers that a beam's frontier and its kept one have come from: at handler entry the one is kept aside and the other is new, and the
return brings the kept one back (R162, R166, R426). -/
def Beam.wasAt (old b : Beam) : List Entry × List Entry :=
  match old.kept, b.kept with
  | none, none => (old.frontier, [])
  | none, some _ => ([], old.frontier)
  | some k, none => (k, [])
  | some k, some _ => (old.frontier, k)

/-- Change a beam and give the lanes that it places their priorities. -/
def State.modFrontier (s : State) (a : Agent) (f : Beam → Beam) : State :=
  let old := (s.beam? a).getD default
  let s := s.modBeam a f
  let pl := s.place a
  s.modBeam a fun b =>
    { b with frontier := s.settlePri pl (old.wasAt b).1 b.frontier, kept := b.kept.map (s.settlePri pl (old.wasAt b).2) }

/-- The beams of a workgroup, as agents. -/
def Wg.agents (g : Wg) (key : Nat) : List Agent := g.beams.map fun (n, _) => .beam key n

/-- Change every beam of a workgroup. -/
def State.modBeams (s : State) (w : Nat) (f : Beam → Beam) : State :=
  match s.wg? w with
  | some g => (g.agents w).foldl (fun s a => s.modFrontier a f) s
  | none => s

/-! ## `bar.wg` (R454, R456) -/

/-- Number of bits set among the low `n`. -/
def popMask (m n : Nat) : Nat := (List.range n).countP fun i => m.testBit i

/-- Release every wait of a kind at the instruction after it. -/
def releaseAll (kind : EntryKind) (fr : List Entry) : List Entry :=
  placeEntries (fr.filter (·.kind != kind)) ((fr.filter (·.kind == kind)).map fun e => .run (e.pc + 4) e.pri e.lanes e.hold)

/-- The beam's pause-loop count returns to 0, and the one kept aside with it (R473). -/
def Beam.endPause (b : Beam) : Beam := { b with pauseLoop := 0, keptCounts := (b.keptCounts.1, b.keptCounts.2.1, 0) }

/-- The barrier of the oldest barrier entry of a frontier (R472). -/
def oldestBarrier (fr : List Entry) : Option EntryKind :=
  (fr.find? fun e => match e.kind with
    | .barWg => true
    | .barCon _ => true
    | _ => false).map (·.kind)

/-- A barrier's count has changed: the barrier-stall counts of entries that wait longest for it start afresh (R472, R473). -/
def Beam.recount (b : Beam) (kind : EntryKind) : Beam :=
  { b with
    barStall := if oldestBarrier b.frontier = some kind then 0 else b.barStall
    keptCounts := if (b.kept.bind oldestBarrier) = some kind then (b.keptCounts.1, 0, b.keptCounts.2.2) else b.keptCounts }

/-- Lanes of a beam synchronise: their reads ahead of their turn are used no more (R278). -/
def Beam.forget (b : Beam) (lanes : Nat) : Beam := (lanesOf lanes b.count).foldl (fun b l => b.modLane l Lane.forget) b

/-- The lanes that wait in entries of a kind. -/
def Beam.waitingFor (b : Beam) (kind : EntryKind) : Nat :=
  ((b.frontier ++ b.kept.getD []).filter (·.kind == kind)).foldl (fun m e => m ||| e.lanes) 0

/-- A barrier completes for a beam: its waits are over (R454, R455, R473), and what its lanes read comes after it (R273, R278). -/
def Beam.passBarrier (b : Beam) (kind : EntryKind) : Beam :=
  if (b.frontier ++ b.kept.getD []).any (·.kind == kind) then
    (((b.recount kind).onFrontiers (releaseAll kind)).forget (b.waitingFor kind)).endPause.unhold
  else b

/-- The writes that a completed barrier makes visible, and the older ones of the same registers, are no longer in doubt (R148). -/
def dropReached : List Unseen → List Unseen
  | [] => []
  | x :: xs => if x.reached || xs.any fun y => y.reached && y.reg == x.reg then dropReached xs else x :: dropReached xs

/-- The workgroup's barrier completes when the threads arrived and every exited thread number its threads. -/
def State.checkBarWg (s : State) (w : Nat) : State :=
  match s.wg? w with
  | none => s
  | some g =>
    if g.barArrived ≠ 0 ∧ g.threads ≤ g.barArrived + popMask (maskSub g.exitedThreads g.barThreads) g.threads then
      let g' : Wg := { g with
        barArrived := 0
        barThreads := 0
        barGen := (g.barGen + 1) % 65536
        unseen := dropReached g.unseen }
      (s.setWg w g').modBeams w fun b => b.passBarrier .barWg
    else s

/-! ## `bar.con` (R432, R455) -/

/-- Whether a workgroup identity is a member of a constellation (R431). -/
def Group.holds (c : Group) (id : Nat) : Bool := c.ranges.any fun (a, b) => decide (a ≤ id) && decide (id ≤ b)

/-- The threads that count as exited and have not arrived in the current generation. -/
def Group.exited (c : Group) (threads : Nat) : Nat :=
  (c.gone.map fun (id, m) => popMask (maskSub m (smGet c.who id)) threads).sum

/-- Release a member's lanes waiting at a constellation's barrier, with the acquire of its completion; a member that is not
resident is owed it (R273, R455). -/
def State.releaseMember (s : State) (con w : Nat) (pub : RSet) : State :=
  let s := s.modWg w fun g => (g.absorb pub).advance
  match s.wg? w with
  | none => s
  | some g =>
    match g.status with
    | .resident =>
      let held := g.beams.any fun (_, b) => (b.frontier ++ b.kept.getD []).any (·.kind == .barCon con)
      let s := s.modBeams w fun b => b.passBarrier (.barCon con)
      if held then s.acquire (s.wgPlace w) .dev else s
    | _ => s.setWg w { g with owed := g.owed ++ [con] }

/-- A constellation's barrier completes when ARRIVED + EXITED reaches MEMBERS × THREADS; the epoch advances where it holds the whole
grid (R299). -/
def State.checkBarCon (s : State) (lk con : Nat) : State :=
  match s.launch? lk with
  | none => s
  | some l =>
    match l.groups.find? (·.number == con) with
    | none => s
    | some c =>
      if c.arrived ≠ 0 ∧ c.members * l.record.threads ≤ c.arrived + c.exited l.record.threads then
        let c' := { c with arrived := 0, who := [], gen := (c.gen + 1) % 65536, pub := RSet.empty }
        let whole := c.members == l.record.gx * l.record.gy * l.record.gz
        let s := s.modLaunch lk fun l =>
          { l with groups := l.groups.map (fun x => if x.number = con then c' else x),
                   epoch := if whole then l.epoch + 1 else l.epoch }
        let mine := (s.wgs.filter fun (_, g) => g.launch == lk && c.holds g.id).map (·.1)
        let pub := (l.exitPubs.filter fun (id, _) => c.holds id).foldl (fun r (_, p) => r.merge p) c.pub
        let s := mine.foldl (fun s w => s.releaseMember con w pub) s
        if whole then
          { s with wgs := s.wgs.map fun (k, g) => (k, if g.launch = lk then { g with rset := RSet.empty } else g) }
        else s
      else s

/-! ## `join` (R452) -/

/-- Lanes of a beam that wait in a regroup bucket. -/
def Wg.bucketLanes (g : Wg) (beam : Nat) : Nat := maskOf ((g.buckets.filter (·.beam == beam)).map (·.lane))

/-- Complete the join at an address when every unexited lane outside the buckets stands there. -/
def joinAt (all pc : Nat) (fr : List Entry) : List Entry :=
  let mine := fr.filter fun e => e.kind == .join && e.pc == pc
  if all ≠ 0 ∧ maskSub all (mine.foldl (fun m e => m ||| e.lanes) 0) = 0 then
    placeEntries (fr.filter fun e => !(e.kind == .join && e.pc == pc)) (mine.map fun e => .run (pc + 4) e.pri e.lanes e.hold)
  else fr

/-- Complete whatever join of a beam is complete. -/
def Beam.joins (b : Beam) (buckets : Nat) : Beam :=
  let all := maskSub b.live buckets
  let go := fun (fr : List Entry) => (fr.filter (·.kind == .join)).foldl (fun fr e => joinAt all e.pc fr) fr
  let b' := b.onFrontiers go
  if b' = b then b else b'.endPause.unhold

def State.checkJoin (s : State) (a : Agent) : State :=
  match a with
  | .lantern _ => s
  | .beam w n =>
    let m := ((s.wg? w).map (·.bucketLanes n)).getD 0
    s.modFrontier a fun b => b.joins m

/-! ## Tickets (R459, R460) -/

/-- `pass(n)`: NEXT goes past workgroups that ended without taking the ticket. -/
def Launch.pass (l : Launch) (n : Nat) : Nat → Launch
  | 0 => l
  | fuel + 1 =>
    let t := l.tickets.getD n default
    if l.ended.contains t.next then
      let t' : Ticket := ⟨t.next + 1, t.faulted || l.terminated.contains t.next,
        t.pub.merge ((smGet? l.exitPubs t.next).getD RSet.empty)⟩
      ({ l with tickets := l.tickets.set n t' }).pass n fuel
    else l

def Launch.passAll (l : Launch) : Launch := (List.range 8).foldl (fun l n => l.pass n (l.ended.length + 1)) l

/-! ## Eligibility (R372) -/

/-- Workgroups of a launch's grid. -/
def Launch.total (l : Launch) : Nat := l.record.gx * l.record.gy * l.record.gz

/-- Whether every workgroup has executed `trig`, exited or been terminated; a rejected launch counts as if they had (R370). -/
def Launch.released (l : Launch) : Bool := l.rejected || decide (l.total ≤ l.triggered.length)

/-- What the releases of a launch's workgroups have published: those of their `trig`s and of their exits (R297). -/
def Launch.published (l : Launch) : RSet := (l.exitPubs.map (·.2)).foldl RSet.merge l.trigPub

/-- Launches whose predecessors have all released become eligible, in the order their records were taken; what those have published passes to
them (R297). -/
def State.checkEligible (s : State) : State :=
  s.launches.foldl (fun s (k, l) =>
    if l.eligible.isSome then s
    else
      let done := fun (p : Nat) => match s.launch? p with
        | some q => q.released
        | none => true
      let left := l.preds.filter fun p => !done p
      let pub := ((l.preds.filter done).filterMap s.launch?).foldl (fun r q => r.merge q.published) l.pub
      let s := s.modLaunch k fun l => { l with preds := left, pub := pub }
      if left.isEmpty then
        { s.modLaunch k fun l => { l with eligible := some s.eligibleCount } with eligibleCount := s.eligibleCount + 1 }
      else s) s

/-! ## Ends of threads and workgroups -/

/-- Threads of a workgroup count as exited at its barriers and its constellations' (R35, R451). -/
def State.countGone (s : State) (w threads : Nat) : State :=
  match s.wg? w with
  | none => s
  | some g =>
    let s := s.setWg w { g with exitedThreads := g.exitedThreads ||| threads }
    s.modLaunch g.launch fun l =>
      { l with groups := l.groups.map fun c =>
          if c.holds g.id then { c with gone := smSet c.gone g.id (smGet c.gone g.id ||| threads) } else c }

/-- The barriers that an end of threads may complete. -/
def State.checkBarriers (s : State) (w : Nat) : State :=
  match s.wg? w with
  | none => s
  | some g =>
    let s := s.checkBarWg w
    let cons := ((s.launch? g.launch).map fun l => (l.groups.filter (·.holds g.id)).map (·.number)).getD []
    cons.foldl (fun s c => s.checkBarCon g.launch c) s

/-- Whether an engine queue holds an entry of the workgroup (R363). -/
def State.engineHolds (s : State) (w : Nat) : Bool :=
  match s.wg? w with
  | none => false
  | some g =>
    let k := s.core g.core
    (k.matrixQ.any fun q => q.any (·.wg == w)) || (k.copyQ.any fun q => q.any (·.wg == w))

/-- The tickets of a terminated workgroup's NACKed requests become void: a cancel leaves for each, and a retry that is under way is the last
(R381). -/
def State.cancelRequests (s : State) (w : Nat) : State :=
  { s with msgs := s.msgs.flatMap fun m => match m with
      | .backoff n t k r => if r.wg = w then [.cancel n t] else [.backoff n t k r]
      | .nack n t k r => if r.wg = w then [.cancel n t] else [.nack n t k r]
      | .retry n t k r => if r.wg = w then [.retry n t k { r with void := true }, .cancel n t] else [.retry n t k r]
      | .held n r => if r.wg = w then [] else [.held n r]
      | m => [m] }

/-- Graph nodes that stand for nobody, whose appends are still to be made, have numbers from here on (R434). -/
def orphanBase : Nat := 64

/-- Free the graph nodes of a workgroup, without launching them; a launch that a node made runs on, and an append that a LAUNCHED node has
still to make is made (R416, R434). -/
def State.freeNodes (s : State) (w core : Nat) : State :=
  let mine := fun (x : Nat × Nat) => x.1 == core && ((smGet? (s.core core).nodes x.2).map (·.wg == w)).getD false
  let lqs := s.lqs.map fun q => { q with nodes := q.nodes.filter fun (_, x) => !mine x }
  let launches := s.launches.map fun (k, l) => (k, { l with node := l.node.filter fun x => !mine x })
  let s := { s with lqs := lqs, launches := launches }
  let due := (s.core core).nodes.filter fun (_, x) => x.wg == w && x.due
  s.modCore core fun k =>
    let left := k.nodes.filter fun (_, x) => x.wg != w
    let first := left.foldl (fun m (n, _) => max m (n + 1)) orphanBase
    { k with nodes := left ++ due.mapIdx fun i (_, x) => (first + i, { x with wg := 0, flag := none, succs := [] })
             heldFlags := k.heldFlags.filter (·.1 != w) }

/-- Everything that a workgroup has written is performed, and what no release has covered is released at system scope (R170, R371, R451). -/
def State.settleWg (s : State) (w : Nat) : State :=
  let pl := s.wgPlace w
  let s := (s.ownDirty pl .sys).foldl (fun s ln => s.writeBack pl.core ln) s
  let s := s.drain pl.core (flightOfWg w)
  if (s.uncovered pl).isEmpty then s else (s.release pl .sys (flightOfWg w)).2

/-- An ended workgroup whose engine entries have drained leaves. A terminated one's record is posted and its threads count as exited (R170);
its untaken tickets pass, its graph nodes and its granules are free, and its end counts for `trig` and for dependants (R290, R363, R451). It
stays while its record finds no room (R383). -/
def State.reap (s : State) (w : Nat) : State :=
  match s.wg? w with
  | some g =>
    if g.status = .ended ∧ !s.engineHolds w ∧ (g.fate.isNone ∨ s.mayPost g.ctx (unitOfCore g.core)) then
      let s := s.settleWg w
      let s := match g.fate with
        | some r => ((s.postRecord g.ctx r).countGone w (2 ^ g.threads - 1)).checkBarriers w
        | none => s
      let s := s.modLaunch g.launch fun l =>
        ({ l with ended := l.ended ++ [g.id]
                  terminated := if g.fate.isSome then l.terminated ++ [g.id] else l.terminated }).passAll
      let s := s.freeNodes w g.core
      let s := match g.frame with
        | some f => s.modCtx g.ctx fun c => { c with frames := c.frames.filter (· != f) }
        | none => s
      let s := { s with wgs := smErase s.wgs w }
      (s.modLaunch g.launch fun l =>
        if l.triggered.contains g.id then l else { l with triggered := l.triggered ++ [g.id] }).checkEligible
    else s
  | none => s

/-- Whether an entry is an `accrd` that a path of the workgroup waits at (R354). -/
def EngEntry.readOf (e : EngEntry) (w : Nat) : Bool :=
  match e.op with
  | .read _ _ => e.wg == w
  | _ => false

/-- A workgroup ends: none of its beams issues any more, and it leaves when its engine queues have drained (R170, R451). The graph nodes of
a terminated one are free at once (R434); those of one that exits are with its exit, which the signals of its engine entries precede (R363). -/
def State.endWg (s : State) (w : Nat) (fate : Option FaultRec) : State :=
  let core := ((s.wg? w).map (·.core)).getD 0
  let s := s.modCore core fun k => { k with matrixQ := k.matrixQ.map fun es => es.filter fun e => !e.readOf w }
  let s := if fate.isSome then s.freeNodes w core else s
  (s.modWg w fun g => { g with status := .ended, beams := [], buckets := [], extQueue := [], fate := fate }).reap w

/-- A beam whose last lane has exited frees its context; when no beam is left, the workgroup exits, with the release of R290, which its
tickets pass on (R297, R426, R451, R460). -/
def State.checkWgExit (s : State) (w : Nat) : State :=
  match s.wg? w with
  | none => s
  | some g =>
    let dead := g.beams.filter fun (n, b) => b.live == 0 && g.bucketLanes n == 0
    let s := s.setWg w { g with beams := g.beams.filter fun (n, b) => !(b.live == 0 && g.bucketLanes n == 0) }
    if g.status = .resident ∧ dead.length = g.beams.length ∧ g.buckets.isEmpty then
      let pl := s.wgPlace w
      let (_, s) := s.release pl .dev (flightOfWg w)
      let s := s.modLaunch g.launch fun l => { l with exitPubs := smSet l.exitPubs g.id (g.publication w) }
      (s.advanceRegion pl .dev).endWg w none
    else s

/-- A workgroup is terminated; the record of its cause waits for its engine commands (R170, R384), and its NACKed requests are cancelled. -/
def State.terminate (s : State) (w : Nat) (r : FaultRec) : State :=
  match s.wg? w with
  | none => s
  | some g =>
    let pl := s.wgPlace w
    (s.cancelRequests w).endWg w (some { r with kind := 2, lid := pl.lid, wg := g.id, unit := unitOfCore g.core })

/-! ## Extended blocks (R130, R201) -/

/-- Bytes of a workgroup's extension reserve that are not granted (R129). -/
def Wg.reserveFree (g : Wg) : Nat :=
  g.reserve - (g.beams.map fun (_, b) => b.width * b.ext * 4).sum

/-- A beam receives its block: new registers read zero, and the path whose request it was goes on after its `ext.acq`. A beam has one request
at a time (R201): that of the path that runs, where this waits, or else that of the frontier kept aside, which REG_WAIT withdraws (R166). -/
def State.grant (s : State) (w n regs : Nat) : State :=
  let a := Agent.beam w n
  let pl := s.place a
  s.modFrontier a fun b =>
    let b : Beam := { b with
      ext := regs
      lanes := b.lanes.map fun l => { l with v := l.v ++ List.replicate regs .zero } }
    let go := fun (fr : List Entry) =>
      placeEntries (fr.filter (·.kind != .extAcq))
        ((fr.filter (·.kind == .extAcq)).map fun e => .run (s.nextOf pl e.pc) e.pri e.lanes e.hold)
    (if b.frontier.any (·.kind == EntryKind.extAcq) then { b with frontier := go b.frontier, regWait := 0 }
      else { b with kept := b.kept.map go, keptCounts := (0, b.keptCounts.2) }).unhold

/-- Grant requests in arrival order while they fit; one that does not fit holds back the rest (R130). -/
def State.grants (s : State) (w : Nat) : Nat → State
  | 0 => s
  | fuel + 1 =>
    match s.wg? w with
    | none => s
    | some g =>
      match g.extQueue with
      | [] => s
      | (n, regs) :: rest =>
        match smGet? g.beams n with
        | none => (s.setWg w { g with extQueue := rest }).grants w fuel
        | some b =>
          if b.width * regs * 4 ≤ g.reserveFree then
            ((s.setWg w { g with extQueue := rest, extIndex := g.extIndex + 1 }).grant w n regs).grants w fuel
          else s

/-- Serve a workgroup's waiting requests. -/
def State.serveExt (s : State) (w : Nat) : State := s.grants w (((s.wg? w).map (·.extQueue.length)).getD 0)

end Sys2Proof.Machine
end

