-- ==== Sys2Proof/Machine/Ops.lean ====
section
/-!
DEFINITION. Sys2Proof/Machine/Ops.lean: the end of a section (spec R401 to R405), TAKING AN EXCEPTION and the return from one
(R158 to R166), and the frame of an issued instruction: who issues it, on which lanes, and how it retires (R80 to R91).
-/

namespace Sys2Proof.Machine

/-! ## Cause codes (R156) -/

def causeIllegal : Nat := 0x01
def causePrefix : Nat := 0x02
def causeSection : Nat := 0x03
def causeBound : Nat := 0x04
def causeHazard : Nat := 0x05
def causeFormat : Nat := 0x06
def causeShape : Nat := 0x07
def causeBusy : Nat := 0x08
def causeAlign : Nat := 0x09
def causeAccess : Nat := 0x0A
def causeIndex : Nat := 0x0B
def causePage : Nat := 0x0C
def causeLcc : Nat := 0x0D
def causeRace : Nat := 0x0E
def causeVariance : Nat := 0x0F
def causeDomain : Nat := 0x10
def causeMeta : Nat := 0x11
def causeFaulted : Nat := 0x12
def causeOverrun : Nat := 0x13
def causeUser : Nat := 0x14
def causeBreak : Nat := 0x15
def causeRegWait : Nat := 0x20
def causeBarrier : Nat := 0x21
def causePause : Nat := 0x22
def causePreempt : Nat := 0x23
def causeDouble : Nat := 0x30
def causeExit : Nat := 0x31
def causeRestore : Nat := 0x32

/-- A cause with neither detail, address nor data. -/
def Cause.plain (code : Nat) : Cause := ⟨code, 0, 0, 0, 0⟩
def Cause.at_ (code detail addr : Nat) : Cause := ⟨code, detail, 0, addr, 0⟩
/-- LCC_FAULT: the address, or 0 for a register, and the word as received (R267). -/
def Cause.lcc (addr : Nat) (w : CW) : Cause := ⟨causeLcc, 0, 0, addr, w.code.toNat * 2 ^ 32 + w.data.toNat⟩

/-! ## Sections end (R401 to R405) -/

/-- A lantern core with a free slot wakes the ticket SERVE names (R380, R381). -/
def State.wakeFree (s : State) (n : Nat) : State :=
  let l := s.lantern n
  if l.queue.length + (if l.running.isSome then 1 else 0) < 256 ∧ l.outstanding.contains l.serve then
    { s with msgs := s.msgs ++ [.wake n l.serve] }
  else s

/-- The section leaves its lantern core and its result goes to the sender (R403); the lock's hidden set goes with it (R297). -/
def State.leaveSection (s : State) (n status count : Nat) (res : List CW) : State :=
  match s.section? n with
  | none => s
  | some r =>
    let pub := (smGet s.lockSets r.req.line).merge r.rset
    let s := { s.modLantern n fun l => { l with running := none } with lockSets := smSet s.lockSets r.req.line pub }
    let s := { s with msgs := s.msgs ++ [Msg.result r.req status count res pub] }
    (s.count (lanternIx n) 0x14 r.req.ctx 1).wakeFree n

/-- One atomic update of the count word at its home (R401): COUNT advances, and FAIL is set by a failed end; an uncorrectable word
is left as it is. Answers whether it was made. -/
def State.countWord (s : State) (n loc : Nat) (fail : Bool) (st : List Stamp) : Bool × State :=
  let s := s.passCache (lanternIx n) loc
  let w0 := s.homeWord loc
  let w1 := s.homeWord (loc + 4)
  let (corr, unc) := tally [w0, w1]
  let s := chargeHome s loc corr unc
  match (lccCheck w0).data?, (lccCheck w1).data? with
  | some a, some b =>
    let v := b.toNat * 2 ^ 32 + a.toNat
    let v' := (v + 1) % 2 ^ 63 + (if v.testBit 63 || fail then 2 ^ 63 else 0)
    let f := fun (l : Nat) (x : Nat) => { deviceWrite l (CW.make (.ofNat 32 x)) with stamps := st }
    (true, (s.perform (f loc v')).perform (f (loc + 4) (v' / 2 ^ 32)))
  | _, _ => (false, s)

/-- The count-word update of an end whose release steps have run, with the stamp of their post (R297), and then its result; a page fault
suspends it, and a module that does not answer holds it up (R401, R405, R485). Where the context has no usable entry, whose page tables would
name the word, it is the one of the lock's line (R487). -/
def State.closeSection (s : State) (n status count : Nat) (res : List CW) : State :=
  match s.section? n with
  | none => s
  | some r =>
    let fail := fun (s : State) (code : Nat) =>
      if status = 0 then s.leaveSection n (0x40 + code) 0 [] else s.leaveSection n status count res
    let update := fun (s : State) (loc : Nat) => match s.countWord n loc (status != 0) [r.stamp] with
      | (true, s) => s.leaveSection n status count res
      | (false, s) => fail s causeLcc
    if (s.ctxEntry? r.req.ctx).isNone then update s (r.req.line * 64)
    else match s.reach (lanternIx n) r.req.ctx r.req.lock .atomic with
    | (.page p, s) => update s p.loc
    | (.deny _, s) => fail s causeAccess
    | (.silent loc _, s) => match s.waited (.lantern n) (lanternIx n) loc with
      | (true, s) => fail (s.doubt loc 2) causeAccess
      | (false, s) => s
    | (.fault reason level, s) =>
      let sp : Span := ⟨r.req.ctx, spanBase level r.req.lock, level⟩
      let s := s.modSection n fun r => { r with wait := [sp], ending := some (status, count, res) }
      s.waitSpan sp ⟨1, 0, 1, reason, 4, level, r.req.lid, r.req.wg % 2 ^ 32, 0x8000 + n, sp.base, r.beam.frontier.headD default |>.pc, 0, 1, 0⟩

/-- Scope of a section's entry, end and the acquire of its sender (R29, R486). -/
def Request.ordering (r : Request) : Scope := scopeOf r.scope

/-- A section ends: every dirty line is cleaned and stays (R255), its release steps run, its count word is updated, its result is sent
(R402, R403). -/
def State.endSection (s : State) (n status count : Nat) (res : List CW) : State :=
  match s.section? n with
  | none => s
  | some r =>
    let s := ((s.core (lanternIx n)).lines.map (·.1)).foldl (fun s ln => s.writeBack (lanternIx n) ln) s
    let (st, s) := s.release (s.place (.lantern n)) r.req.ordering fun _ => true
    let s := s.modSection n fun r => { r with ending := some (status, count, res), stamp := st }
    s.closeSection n status count res

/-! ## Taking an exception (R161 to R165) -/

/-- The trap registers as a cause writes them, with the beam's record of how to return (R158, R162, R166, R175). -/
def Beam.setTrap (b : Beam) (c : Cause) (held pc : Nat) (prefixed : Bool) (source : Nat) : Beam :=
  { b with
    tcause := c.code + c.detail % 256 * 256
    tpc := pc
    tlanes := c.lanes
    taddr := c.addr % 2 ^ 72
    tdata := c.data
    tsource := source
    held := held
    prefixed := prefixed
    entryPc := pc
    inh := true }

/-- Lanes of a frontier at the handler's address, each with its block priority, which only `pri` changes (R13, R162 to R164). -/
def handlerEntries (fr : List Entry) (path trapvec : Nat) : List Entry :=
  placeEntries [] (fr.map fun e => .run trapvec e.pri (e.lanes &&& path) 0)

/-- Entering the handler: outstanding results are written, the frontier is kept aside, and the path's lanes that are neither exited
nor parked start at `trapvec` (R83, R162). The latch is freed (R150), and the watchdogs' counts stop, a delivered one at 0 (R473). -/
def Beam.enter (b : Beam) (trapvec : Nat) (c : Cause) (held path pc : Nat) (prefixed : Bool) (source : Nat) : Beam :=
  let b := b.settle
  let lanes := maskSub (path &&& b.live) (parkedLanes b.frontier)
  { b.setTrap c held pc prefixed source with
    keptAsked := b.asked
    kept := some b.frontier
    frontier := handlerEntries b.frontier lanes trapvec
    latch := []
    keptCounts := (b.regWait, b.barStall, b.pauseLoop)
    regWait := 0
    barStall := 0
    pauseLoop := 0 }

/-- The fields of a WORKGROUP record that a cause gives (R384). -/
def Cause.record (c : Cause) (pc source : Nat) : FaultRec :=
  { (default : FaultRec) with cause := c.code, detail := c.detail % 256, source := source, addr := c.addr % 2 ^ 72, pc := pc,
                              data := c.data, lanes := c.lanes }

/-- A record that carries the trap registers as they stand (R168). -/
def Beam.trapRecord (b : Beam) (code detail source : Nat) : FaultRec :=
  { (default : FaultRec) with cause := code, detail := detail % 256, source := source, addr := b.taddr, pc := b.tpc,
                              data := b.tdata, lanes := b.tlanes }

/-- The record of a double fault: the trap registers as they stood when the handler was entered (R165). -/
def Beam.doubleRecord (b : Beam) (code source : Nat) : FaultRec :=
  { b.trapRecord causeDouble code source with pc := b.entryPc }

/-- TAKING AN EXCEPTION, for every cause a handler takes: a section ends FAULTED (R403); in a handler it is a double fault, and with
`trapvec` = 0 it terminates the workgroup with the cause in the record (R161, R165); otherwise the handler is entered (R162). `held`
are the lanes whose part of the instruction has not taken effect, `path` those that run the handler. -/
def State.trap (s : State) (a : Agent) (c : Cause) (held path pc : Nat) (prefixed : Bool) (source : Nat) : State :=
  match a with
  | .lantern n => s.endSection n (0x40 + c.code) 0 []
  | .beam w _ =>
    match s.wg? w, s.beam? a with
    | some g, some b =>
      if b.inh then s.terminate w (b.doubleRecord c.code source)
      else if g.trapvec = 0 then s.terminate w (c.record pc (if source = 1 ∨ source = 2 then source else 0))
      else s.modFrontier a fun b => b.enter g.trapvec c held path pc prefixed source
    | _, _ => s

/-- Whether the hardware full save has stopped an agent's workgroup (R172). -/
def State.saving (s : State) (a : Agent) : Bool :=
  match a with
  | .beam w _ => (s.wg? w).any (·.deadline)
  | .lantern _ => false

/-- Whether an agent's workgroup runs: it is resident, and no full save stops it (R171, R172). -/
def State.runs (s : State) (a : Agent) : Bool :=
  match a with
  | .beam w _ => (s.wg? w).any fun g => g.status == .resident && !g.deadline
  | .lantern _ => true

/-- A fatal page fault, or the failure of a NACKed section, on lanes that stand at their instruction: it traps there at once, and is a double
fault where the handler that runs has raised it (R160, R162, R165, R397). One of lanes outside the path of a running handler waits for the
return, and one of a workgroup that is not resident, or is stopped by the full save, for its redispatch (R426; log entry 54). -/
def State.raiseFatal (s : State) (a : Agent) (c : Cause) (pc : Nat) (prefixed : Bool) : State :=
  match a, s.beam? a with
  | .beam _ _, some b =>
    let here := (b.frontier.foldl (fun m e => m ||| e.lanes) 0) &&& c.lanes != 0
    if c.lanes &&& b.live = 0 then s
    else if s.runs a && (!b.inh || here) then s.trap a { c with lanes := c.lanes &&& b.live } (c.lanes &&& b.live) (c.lanes &&& b.live) pc prefixed 0
    else s.modBeam a fun b => { b with fatals := b.fatals ++ [⟨c, pc, prefixed⟩] }
  | _, _ => s

/-- The first fatal fault that waits for a beam traps where no handler runs: before anything else takes its lanes (R160, R165). -/
def State.nextFatal (s : State) (a : Agent) : Option State :=
  match s.beam? a with
  | none => none
  | some b => if b.inh then none else (b.fatals.find? fun x => x.cause.lanes &&& b.live != 0).map fun x =>
      (s.modBeam a fun b => { b with fatals := b.fatals.erase x }).raiseFatal a x.cause x.pc x.prefixed

/-! ## The return (R166) -/

/-- Kind of the cause in `tcause`, as the return needs it: a held set, a waiting instruction, or neither. -/
inductive TrapKind where
  | held | wait | kept
deriving DecidableEq, Repr

def Beam.trapKind (b : Beam) : TrapKind :=
  let code := b.tcause % 256
  if code = causeRegWait ∨ code = causeBarrier ∨ code = causePause then .wait
  else if b.held ≠ 0 then .held else .kept

/-- The instruction after the one at `tpc` (R166). -/
def Beam.afterTrap (b : Beam) : Nat := b.tpc + (if b.prefixed then 8 else 4)

/-- The handler has written another address to `tpc`, where the return goes (R166). -/
def Beam.redirected (b : Beam) : Bool := b.tpc != b.entryPc

/-- Lanes of a kept frontier resume at an address, each with its priority. -/
def resumeAt (fr : List Entry) (lanes pc : Nat) : List Entry :=
  placeEntries (removeLanes fr lanes)
    ((fr.filter fun e => e.lanes &&& lanes != 0).map fun e => .run pc e.pri (e.lanes &&& lanes) 0)

/-- Parked records that belong to the handler frontier go with it (R166, R426). -/
def dropParked (fr : List Entry) (ps : SMap Parked) : SMap Parked :=
  ps.filter fun (i, _) => !(fr.any fun e => e.kind == .parked i)

/-- The return: `skip` is `tret.skip`. Handler lanes leave the handler's frontier; every lane resumes as R166's table says. -/
def Beam.tret (b : Beam) (skip : Bool) : Beam :=
  let kept := removeLanes (b.kept.getD []) (maskSub (2 ^ 64 - 1) b.live)
  let held := b.held &&& b.live
  let tl := b.tlanes &&& b.live
  let fr := match b.trapKind with
    | .kept => kept
    | .held =>
      let past := if skip then tl &&& held else 0
      let fr := resumeAt kept past b.afterTrap
      resumeAt fr (maskSub held past) b.tpc
    | .wait => if skip then resumeAt kept tl b.afterTrap else if b.redirected then resumeAt kept tl b.tpc else kept
  { b with
    inh := false
    parked := dropParked b.frontier b.parked
    frontier := placeEntries [] fr
    kept := none
    held := 0
    asked := b.keptAsked
    keptAsked := 0
    yielded := false
    regWait := b.keptCounts.1
    barStall := b.keptCounts.2.1
    pauseLoop := b.keptCounts.2.2
    keptCounts := (0, 0, 0) }

/-! ## The frame of an issue -/

/-- What an issued instruction sees: who issues it, where that agent stands, its beam as it stood, its prefix and switch marker,
and the active lanes (R88). -/
structure Frame where
  a : Agent
  i : Issue
  pl : Place
  b : Beam
  sw : Bool
  pfx : Option Prefix
  active : Nat

/-- The prefix's field values, or those of no prefix (R85). -/
def Frame.p (f : Frame) : Prefix := f.pfx.getD default

/-- The mask register K selects with; k0 reads as ones (R88, R93). -/
def Beam.kmask (b : Beam) (k : Nat) : Nat := if k = 0 then 2 ^ 64 - 1 else (b.k.getD k default).v.toNat

/-- A beam as an instruction sees it whose beam issues another one in the same clock: its registers as they stood when the clock began
(R147, R179, R198, R217). -/
def Beam.asOf (b old : Beam) : Beam :=
  { b with
    s := old.s
    k := old.k
    rm := old.rm
    ftz := old.ftz
    nvc := old.nvc
    hck := old.hck
    ord := old.ord
    wb := old.wb
    tpc := old.tpc
    lanes := b.lanes.zipWith (fun x y => { x with v := y.v, x := y.x, m := y.m }) old.lanes }

def State.frame? (s : State) (m : Mods) : Option Frame :=
  match s.cur with
  | none => none
  | some i =>
    match (s.beam? i.agent).map fun b => match i.view with
      | some old => b.asOf old
      | none => b with
    | none => none
    | some b =>
      let k := match m.pfx with
        | some p => p.k.toNat
        | none => 0
      some ⟨i.agent, i, s.place i.agent, b, m.sw, m.pfx, i.lanes &&& b.kmask k &&& (2 ^ b.count - 1)⟩

def Frame.lanes (f : Frame) : List Nat := lanesOf f.active f.b.count

/-- The elected lane (R24, R88). -/
def Frame.elected (f : Frame) : Nat := (f.lanes.headD 0)

def Frame.lantern (f : Frame) : Bool := f.pl.lantern

/-- The fourth operand's name: field C, or d7's with no prefix (R89). -/
def Frame.c (f : Frame) (d : Nat) : Nat :=
  match f.pfx with
  | some p => p.c.toNat
  | none => d

/-! ## Retiring -/

/-- A request to park lanes: on page faults, each span with its reason (R160); on the page fault of a launch-queue slot (R410); or for
another cause (R315, R381, R485). -/
inductive ParkReq where
  | page (sps : List (Span × Nat)) (addr bits : Nat)
  | slot (sp : Span) (reason addr : Nat)
  | other (c : ParkCause)
deriving DecidableEq, Repr

def ParkReq.cause : ParkReq → ParkCause
  | .page sps addr bits => .page (sps.map (·.1)) addr bits
  | .slot sp _ addr => .slot sp addr
  | .other c => c

/-- The spans a request waits on, with their reasons, and the access bits of their records. -/
def ParkReq.spans : ParkReq → List (Span × Nat) × Nat
  | .page sps _ bits => (sps, bits)
  | .slot sp reason _ => ([(sp, reason)], 1)
  | .other _ => ([], 0)

/-- The launch and workgroup identities in the records of an agent's faults; a section's are its sender's (R384, R400). -/
def State.recordIds (s : State) (pl : Place) : Nat × Nat :=
  if pl.lantern then ((s.section? (pl.core - 288)).map fun r => (r.req.lid, r.req.wg % 2 ^ 32)).getD (0, 0)
  else (pl.lid, pl.wgId)

/-- Post the records of page faults that park lanes, one per span (R160, R384). -/
def State.postPark (s : State) (f : Frame) (r : ParkReq) (lanes : Nat) : State :=
  let (lid, wg) := s.recordIds f.pl
  r.spans.1.foldl (fun s (sp, reason) =>
    s.waitSpan sp ⟨1, 0, r.spans.2, reason, if f.pl.lantern then 4 else 0, sp.level, lid, wg,
      unitOfCore f.pl.core, sp.base, f.i.pc, 0, lanes, 0⟩) s

/-- One record for two requests to park, where one serves both: a fault span has one record, a module that does not answer one, and
a split gather one for its issue (R160, R261, R315, R485). The lower lane's request gives the address. -/
def ParkReq.join? : ParkReq → ParkReq → Option ParkReq
  | .page sps a b, .page sqs _ _ => if sps.map (·.1) = sqs.map (·.1) then some (.page sps a b) else none
  | .slot sp r a, .slot sq _ _ => if sp = sq then some (.slot sp r a) else none
  | .other (.answer xs e b m t), .other (.answer ys _ _ n _) => if m = n then some (.other (.answer (xs ++ ys) e b m t)) else none
  | .other (.split far d w), .other (.split far' _ _) => some (.other (.split (far ++ far') d w))
  | _, _ => none

/-- A lane's own access stands under its number. -/
def ParkReq.mark (l : Nat) : ParkReq → ParkReq
  | .other (.answer xs e b m t) => .other (.answer (xs.map fun x => (l, x.2)) e b m t)
  | r => r

/-- Put a lane's request first among the groups, joined with the group it belongs to. -/
def addPark (l : Nat) (r : ParkReq) : List (ParkReq × Nat) → List (ParkReq × Nat)
  | [] => [(r, laneBit l)]
  | (q, m) :: gs =>
    match r.join? q with
    | some x => (x, m ||| laneBit l) :: gs
    | none => match addPark l r gs with
      | [] => [(q, m)]
      | g :: rest => g :: (q, m) :: rest

/-- Group lanes that park under one record, the groups in the order of their lowest lanes. -/
def groupParks : List (Nat × ParkReq) → List (ParkReq × Nat)
  | [] => []
  | (l, r) :: rest => addPark l (r.mark l) (groupParks rest)

/-- What an instruction has done before it retires: lanes that fault, lanes that park, and where the rest go; `next` entries
replace the default, every completed lane at the next instruction. -/
structure Outcomes where
  faults : List (Nat × Cause)
  parks : List (Nat × ParkReq)
  next : Option (List Entry)
deriving Repr

def Outcomes.none : Outcomes := ⟨[], [], Option.none⟩

/-- The deciding cause: the lowest code, with the values of its lowest lane; `tlanes` are its lanes (R156, R158). -/
def decide_ (fs : List (Nat × Cause)) : Option Cause :=
  match fs.map (·.2.code) with
  | [] => Option.none
  | c :: cs =>
    let code := cs.foldl min c
    let mine := fs.filter (·.2.code == code)
    match mine.foldl (fun (m : Option (Nat × Cause)) x => match m with
        | some y => if x.1 < y.1 then some x else some y
        | Option.none => some x) Option.none with
    | some (_, k) => some { k with lanes := maskOf (mine.map (·.1)) }
    | Option.none => Option.none

/-- An instruction retires (R80, R158, R160, R162, R425): parked lanes get their records, completed lanes go on, wherever they go with the
switch marker's wait for the results of the whole path where S = 1, and where lanes fault the trap is taken. `s0` is the state before the issue: an instruction that would
park more than the records allow has not issued (R175), nor has one of a section that waits for another module (R485). -/
def State.retire (s0 s : State) (f : Frame) (o : Outcomes) : State :=
  let groups := groupParks o.parks
  let faulty := maskOf (o.faults.map (·.1))
  let parkedM := maskOf (o.parks.map (·.1))
  match f.a with
  | .lantern n =>
    match decide_ o.faults, groups with
    | some c, _ => s.trap f.a c 0 0 f.i.pc f.i.prefixed 4
    | Option.none, (r, m) :: _ =>
      match r.spans.1 with
      | sp :: sps => (s.modSection n fun x => { x with wait := (sp :: sps).map (·.1) }).postPark f r m
      | [] => { s0 with mod := { s0.mod with waits := s.mod.waits } }
    | Option.none, [] =>
      s.modFrontier f.a fun b => b.move f.i.lanes (o.next.getD [.run f.i.next f.i.pri f.i.lanes 0])
  | .beam _ _ =>
    let done := maskSub f.i.lanes (faulty ||| parkedM)
    let parkedB := (s.beam? f.a).bind fun b =>
      b.park f.i.pc f.i.pri f.sw f.i.prefixed f.i.words (groups.map fun (r, m) => (r.cause, m))
    match parkedB with
    | Option.none => s0
    | some b =>
      let s := s.setBeam f.a b
      let s := groups.foldl (fun s (r, m) => s.postPark f r m) s
      let hold := if f.sw then done else 0
      let es := (o.next.getD [.run f.i.next f.i.pri done 0]).map fun e => b.freed { e with hold := hold }
      let s := s.modFrontier f.a fun b => b.move done es
      match decide_ o.faults with
      | some c => s.trap f.a c faulty (maskSub f.i.lanes parkedM) f.i.pc f.i.prefixed 0
      | Option.none => s

/-- A cause of kind W: no lane of the path has any effect; `tlanes` as given, the held set is the whole path (R158). -/
def State.whole (s : State) (f : Frame) (c : Cause) (tlanes : Nat) : State :=
  s.trap f.a { c with lanes := tlanes } f.i.lanes f.i.lanes f.i.pc f.i.prefixed (if f.lantern then 4 else 0)

/-- A cause of kind W for the active lanes. -/
def State.wholeActive (s : State) (f : Frame) (code : Nat) : State := s.whole f (.plain code) f.active

/-- A cause of kind L that every active lane takes (R536): no destination is written. -/
def State.allLanes (s : State) (f : Frame) (c : Cause) : State :=
  s.retire s f ⟨f.lanes.map fun l => (l, c), [], Option.none⟩

/-- The path goes on to the next instruction. -/
def State.goOn (s : State) (f : Frame) : State := s.retire s f .none

/-- The instruction waits where it is: nothing has happened. -/
def State.stay (s : State) : State := s

/-- Run a coded instruction (R88, R91): on a lantern core, one that is illegal in a section ends it; with no active lane the path goes
on; otherwise `body` gives its effect. -/
def coded (m : Mods) (inSection : Bool) (body : Frame → State → State) (s : State) : Host.Outcome State Fault Refusal :=
  match s.frame? m with
  | Option.none => .fault .noIssue
  | some f =>
    .next (if f.lantern && !inSection then s.whole f (.plain causeSection) f.i.lanes
      else if f.active = 0 then s.goOn f else body f s)

/-- Run an instruction that acts for its whole path, with or without active lanes. -/
def codedPath (m : Mods) (inSection : Bool) (body : Frame → State → State) (s : State) : Host.Outcome State Fault Refusal :=
  match s.frame? m with
  | Option.none => .fault .noIssue
  | some f => .next (if f.lantern && !inSection then s.whole f (.plain causeSection) f.i.lanes else body f s)

end Sys2Proof.Machine
end

