-- ==== Sys2Proof/Machine/Operands.lean ====
section
/-!
DEFINITION. Sys2Proof/Machine/Operands.lean: every operand form (spec R92 to R95, R103): where an operand's words stand, how they are
checked and counted when they are read (R132, R133, R267, R536), and how a result is written (R93, R94, R79, R88).
-/

namespace Sys2Proof.Machine

/-- An operand as an instruction names it: `cnt` V registers from a V-class field, an S-class name, or an M register. -/
inductive Opnd where
  | v (n cnt : Nat)
  | s (n : Nat)
  | m (n : Nat)
deriving DecidableEq, Repr

/-! ## Values of registers -/

def Beam.vreg (b : Beam) (l n : Nat) : CW := (b.lane l).v.getD n .zero
def Beam.sreg (b : Beam) (n : Nat) : SReg := b.s.getD n default
def Beam.kreg (b : Beam) (n : Nat) : KReg := b.k.getD n default
def Beam.xreg (b : Beam) (l n : Nat) : XReg := (b.lane l).x.getD n default
def Beam.mreg (b : Beam) (l n : Nat) : Mom := (b.lane l).m.getD n ⟨.zero, .zero⟩

/-- An s register holding a 72-bit value under fresh codes (R133). -/
def mkS (v : Nat) : SReg :=
  ⟨.ofNat 72 v, lccMake (.ofNat 32 v), lccMake (.ofNat 32 (v / 2 ^ 32)), lccMake (.ofNat 32 (bits v 64 8))⟩

/-- A k register of a beam of width `w`: bits at or above the width are 0 (R134). -/
def mkK (w v : Nat) : KReg :=
  let v := v % 2 ^ w
  ⟨.ofNat 64 v, lccMake (.ofNat 32 v), lccMake (.ofNat 32 (v / 2 ^ 32))⟩

/-- k0: all ones (R126). -/
def onesK : KReg := ⟨.ofNat 64 (2 ^ 64 - 1), lccMake 0xFFFFFFFF#32, lccMake 0xFFFFFFFF#32⟩

/-- An x register holding the low 16 bits of a value, under the code of its sign-extended word (R133). -/
def mkX (v : Nat) : XReg := ⟨.ofNat 16 v, lccMake (.ofNat 32 (wrap 32 (signedBits 16 v)))⟩

/-- The words of an s register with their codes. -/
def SReg.words (r : SReg) : List CW :=
  [⟨r.v.setWidth 32, r.c0⟩, ⟨r.v.extractLsb' 32 32, r.c1⟩, ⟨(r.v.extractLsb' 64 8).setWidth 32, r.c2⟩]

def KReg.words (r : KReg) : List CW := [⟨r.v.setWidth 32, r.c0⟩, ⟨r.v.extractLsb' 32 32, r.c1⟩]

def XReg.word (r : XReg) : CW := ⟨r.v.signExtend 32, r.code⟩

/-! ## Reading sources -/

/-- Names of S-class values (R93). -/
def isK (n : Nat) : Bool := decide (64 ≤ n) && decide (n < 72)
def isX (n : Nat) : Bool := decide (72 ≤ n) && decide (n < 76)

/-- Whether an operand is one value for the whole beam (R94, R536). -/
def Opnd.perBeam : Opnd → Bool
  | .s n => decide (n < 72) || n == 76
  | _ => false

/-- The stored words of an operand for a lane, each under the register and part it stands in. -/
def Frame.words (f : Frame) (l : Nat) : Opnd → List ((RegName × Nat) × CW)
  | .v n cnt => (List.range cnt).map fun i => ((.v (f.b.wb + n + i), 0), f.b.vreg l (f.b.wb + n + i))
  | .s n =>
    if n < 64 then (f.b.sreg n).words.mapIdx fun i w => ((.s n, i), w)
    else if isK n then
      if n = 64 then [] else (f.b.kreg (n - 64)).words.mapIdx fun i w => ((.k (n - 64), i), w)
    else if isX n then [((.x (n - 72), 0), (f.b.xreg l (n - 72)).word)]
    else []
  | .m n => let r := f.b.mreg l n; [((.m n, 0), r.mean), ((.m n, 1), r.var)]

/-- Corrected data of words; nothing where one is uncorrectable. -/
def dataOf (ws : List CW) : Option Nat := (checkedData ws).map natOfWords

/-- The value of an operand for a lane: V words as one number, an S-class value as 72 bits, a moment as its two words. -/
def Frame.value (f : Frame) (l : Nat) (o : Opnd) : Option Nat :=
  match o with
  | .s n =>
    if n < 64 then (dataOf (f.b.sreg n).words).map (· % 2 ^ 72)
    else if n = 64 then some (2 ^ 64 - 1)
    else if isK n then dataOf (f.b.kreg (n - 64)).words
    else if isX n then (dataOf [(f.b.xreg l (n - 72)).word]).map fun v => wrap 72 (signedBits 32 v)
    else if n = 77 then some (f.b.lane l).thread
    else if n = 78 then some l
    else some 0
  | o => dataOf ((f.words l o).map (·.2))

/-- Words that an issue reads, each register word once (R267). -/
def dedupWords (seen : List (RegName × Nat)) : List ((RegName × Nat) × CW) → List CW
  | [] => []
  | (k, w) :: rest => if seen.contains k then dedupWords seen rest else w :: dedupWords (k :: seen) rest

/-- The first uncorrectable word. -/
def firstBad (ws : List CW) : Option CW := ws.find? fun w => (lccCheck w).data?.isNone

/-- What reading sources answers: the values in order, or the uncorrectable word; and the words counted (R71, R267). -/
structure Got where
  vals : Except CW (List Nat)
  corr : Nat
  unc : Nat

/-- Read operands for a lane. -/
def Frame.get (f : Frame) (l : Nat) (os : List Opnd) : Got :=
  let ws := dedupWords [] (os.flatMap (f.words l))
  let (c, u) := tally ws
  ⟨match firstBad ws with
    | some w => .error w
    | none => .ok (os.map fun o => (f.value l o).getD 0), c, u⟩

/-! ## The checks before an instruction's own (R82, R91 step 4) -/

/-- Registers an operand names, for hazards. -/
def Frame.names (f : Frame) : Opnd → List RegName
  | .v n cnt => (List.range cnt).map fun i => .v (f.b.wb + n + i)
  | .s n => if n < 64 then [.s n] else if isK n then [.k (n - 64)] else if isX n then [.x (n - 72)] else []
  | .m n => [.m n]

def Frame.inBounds (f : Frame) : Opnd → Bool
  | .v n cnt => decide (f.b.wb + n + cnt ≤ f.b.total)
  | _ => true

/-- Registers of `names` and, by lane, of `more`, and the mask register of the prefix, that have an outstanding result for an active lane:
the lanes that raise HAZARD with `beamctl.HCK` = 1 (R82, R88). -/
def Frame.hazardLanes (f : Frame) (names : List RegName) (more : Nat → List RegName) : List Nat :=
  let mask := match f.pfx with
    | some p => if p.k = 0 then [] else [RegName.k p.k.toNat]
    | none => []
  if f.b.hck && !f.lantern then f.lanes.filter fun l => f.b.hazard (mask ++ names ++ more l) (laneBit l) else []

/-- The operand latch serves this path's reads of a V register, and takes the held source, for two more reads although it may have held it
before; it changes timing only (R90, R150). -/
def Beam.latchStep (b : Beam) (path : Nat) (reads : List Nat) (held : Option Nat) : Beam :=
  let mine := fun (n m : Nat) => reads.contains n && m &&& path != 0
  let served := (b.latch.map fun (n, k, m) => if mine n m then (n, k - 1, m) else (n, k, m)).filter (·.2.1 != 0)
  let l := match held with
    | some n =>
      let others := served.filter fun (x, _, m) => !(x == n && m &&& path != 0)
      (others ++ [(n, 2, path)]).drop (others.length + 1 - 3)
    | none => served
  { b with latch := l }

/-- The V registers that operands name, by their first registers. -/
def Frame.vfirsts (f : Frame) (os : List Opnd) : List Nat :=
  os.filterMap fun o => match o with
    | .v n _ => some (f.b.wb + n)
    | _ => none

/-- The V registers a list of operands reads. -/
def Frame.vregs (f : Frame) (os : List Opnd) : List Nat :=
  os.flatMap fun o => match o with
    | .v n cnt => (List.range cnt).map fun i => f.b.wb + n + i
    | _ => []

/-- The source in the position HOLD names (R85). -/
def Frame.heldSource (f : Frame) (os : List Opnd) : Option Nat := f.i.held.bind fun i => (f.vfirsts os)[i]?

def State.latch (s : State) (f : Frame) (os : List Opnd) : State :=
  if f.b.latch.isEmpty && f.i.held.isNone then s
  else s.modBeam f.a fun b => b.latchStep f.i.lanes (f.vregs os) (f.heldSource os)

/-- A relative access reads registers by their absolute numbers (R150, R199). -/
def State.latchAt (s : State) (f : Frame) (reads : List Nat) : State :=
  if f.b.latch.isEmpty then s else s.modBeam f.a fun b => b.latchStep f.i.lanes reads none

/-- REG_BOUND for the operands an instruction names (R91 step 4). -/
def State.bounded (s : State) (f : Frame) (os : List Opnd) (k : State → State) : State :=
  if os.all f.inBounds then k s else s.wholeActive f causeBound

/-- HAZARD with `beamctl.HCK` = 1 for the operands an instruction reads and those it writes; then, with the latch serving its reads, its
effect (R82, R150). -/
def State.unhazarded (s : State) (f : Frame) (reads writes : List Opnd) (k : State → State) : State :=
  let hz := f.hazardLanes ((reads ++ writes).flatMap f.names) fun _ => []
  if hz.isEmpty then k (s.latch f reads) else s.whole f (.plain causeHazard) (maskOf hz)

/-- HAZARD for the mask register of the prefix of an instruction that names no other register, then its effect (R82, R88). -/
def State.masked (s : State) (f : Frame) (k : State → State) : State := s.unhazarded f [] [] k

/-- REG_BOUND, then HAZARD, then an instruction's effect (R82, R91; log entry 45). -/
def State.guarded (s : State) (f : Frame) (reads writes : List Opnd) (k : State → State) : State :=
  s.bounded f (reads ++ writes) fun s => s.unhazarded f reads writes k

/-! ## Writing results -/

/-- The writes that put a number into an operand: words under fresh codes; `zero`, `tid` and `vlane` take none (R93). -/
def Frame.put (f : Frame) (l : Nat) (o : Opnd) (v : Nat) : List RegWrite :=
  match o with
  | .v n cnt => (wordsOfNat cnt v).mapIdx fun i w => .v l (f.b.wb + n + i) (CW.make w)
  | .s n =>
    if n < 64 then [.s n (mkS v)]
    else if isK n then (if n = 64 then [] else [.k (n - 64) (mkK f.b.width v)])
    else if isX n then [.x l (n - 72) (mkX v)]
    else []
  | .m n => [.m l n ⟨CW.make (.ofNat 32 v), CW.make (.ofNat 32 (v / 2 ^ 32))⟩]

/-- The writes that put carried words, with their codes, into V registers (R132). -/
def Frame.putWords (f : Frame) (l n : Nat) (ws : List CW) : List RegWrite := ws.mapIdx fun i w => .v l (f.b.wb + n + i) w

/-- Zeroing of the path's inactive lanes under Z = 1: zero with code 0x00 (R88, R132). -/
def Frame.zeroes (f : Frame) (o : Opnd) : List RegWrite :=
  if f.p.z then
    (lanesOf (maskSub f.i.lanes f.active) f.b.count).flatMap fun l =>
      match o with
      | .v n cnt => (List.range cnt).map fun i => .v l (f.b.wb + n + i) .zero
      | .s n => if isX n then [.x l (n - 72) (mkX 0)] else []
      | .m n => [.m l n ⟨.zero, .zero⟩]
  else []

/-- Write results: at once, or, for an instruction of variable latency on a throughput core, as outstanding results (R79, R84). The result
of a per-beam register is destined for every lane of the issuing path (R80; log entry 43). -/
def State.results (s : State) (f : Frame) (late : Bool) (ws : List RegWrite) : State :=
  if late && !f.lantern then
    s.modBeam f.a fun b => { b with outstanding := b.outstanding ++ ws.map fun w => ⟨w, w.lanes f.i.lanes⟩ }
  else s.modBeam f.a fun b => (b.writes ws).unlatch ws

/-! ## Instructions made of lanes -/

/-- What one lane's part of an instruction answers: register writes, or its cause; and the negative variances it clamped. -/
structure LaneDone where
  out : Except Cause (List RegWrite)
  nvc : Nat

def LaneDone.ok (ws : List RegWrite) : LaneDone := ⟨.ok ws, 0⟩
def LaneDone.bad (c : Cause) : LaneDone := ⟨.error c, 0⟩

/-- The sum of what lanes did. -/
structure LanesDone where
  writes : List RegWrite
  faults : List (Nat × Cause)
  corr : Nat
  unc : Nat
  nvc : Nat

/-- Run each active lane's part: its own sources are read and checked, then `g` computes from their values. -/
def Frame.eachLane (f : Frame) (os : List Opnd) (g : Nat → List Nat → LaneDone) : List Nat → LanesDone
  | [] => ⟨[], [], 0, 0, 0⟩
  | l :: ls =>
    let r := f.eachLane os g ls
    let got := f.get l os
    let r := { r with corr := r.corr + got.corr, unc := r.unc + got.unc }
    match got.vals with
    | .error w => { r with faults := (l, .lcc 0 w) :: r.faults }
    | .ok vs =>
      let d := g l vs
      let r := { r with nvc := r.nvc + d.nvc }
      match d.out with
      | .ok ws => { r with writes := ws ++ r.writes }
      | .error c => { r with faults := (l, c) :: r.faults }

/-- An instruction whose lanes read `beamSrc` once for the issue and `laneSrc` each, and write `dst` each (R91, R132, R536). `g` gets
the per-beam values first. -/
def State.laneOp (s : State) (f : Frame) (beamSrc laneSrc : List Opnd) (dst : Opnd) (late : Bool)
    (g : Nat → List Nat → List Nat → LaneDone) : State :=
  s.guarded f (beamSrc ++ laneSrc) [dst] fun s =>
    let once := f.get f.elected beamSrc
    let s' := s.charge (.core f.pl.core) once.corr once.unc 0
    match once.vals with
    | .error w => s'.allLanes f (.lcc 0 w)
    | .ok bs =>
      let r := f.eachLane laneSrc (fun l vs => g l bs vs) f.lanes
      let s' := s'.charge (.core f.pl.core) r.corr r.unc r.nvc
      let s' := s'.results f late (r.writes ++ f.zeroes dst)
      s.retire s' f ⟨r.faults, [], none⟩

/-- An instruction that computes once for the issue, from the elected lane where a source is per lane, and writes a per-beam
destination (R94, R536). -/
def State.onceOp (s : State) (f : Frame) (src : List Opnd) (dst : Opnd) (late : Bool) (g : List Nat → Nat) : State :=
  s.guarded f src [dst] fun s =>
    let once := f.get f.elected src
    let s' := s.charge (.core f.pl.core) once.corr once.unc 0
    match once.vals with
    | .error w => s'.allLanes f (.lcc 0 w)
    | .ok vs => s.retire (s'.results f late (f.put f.elected dst (g vs))) f .none

/-- What one lane's part answers where it touches more than registers: its writes, its cause, or a request to park it. -/
inductive LaneOut where
  | done (ws : List RegWrite)
  | fault (c : Cause)
  | park (r : ParkReq)

/-- The sum of what such lanes did. -/
structure StateDone where
  s : State
  writes : List RegWrite
  faults : List (Nat × Cause)
  parks : List (Nat × ParkReq)

/-- Run each active lane's part in ascending lane order, each on the state the lane before it left. -/
def Frame.eachState (f : Frame) (os : List Opnd) (g : State → Nat → List Nat → LaneOut × State) :
    List Nat → StateDone → StateDone
  | [], r => r
  | l :: ls, r =>
    let got := f.get l os
    let s := r.s.charge (.core f.pl.core) got.corr got.unc 0
    match got.vals with
    | .error w => f.eachState os g ls { r with s := s, faults := r.faults ++ [(l, .lcc 0 w)] }
    | .ok vs =>
      match g s l vs with
      | (.done ws, s) => f.eachState os g ls { r with s := s, writes := r.writes ++ ws }
      | (.fault c, s) => f.eachState os g ls { r with s := s, faults := r.faults ++ [(l, c)] }
      | (.park q, s) => f.eachState os g ls { r with s := s, parks := r.parks ++ [(l, q)] }

/-- An instruction whose lanes act on the state in ascending lane order. `extra` names further registers it reads or writes without
checking their words. -/
def State.stateOp (s : State) (f : Frame) (beamSrc laneSrc extra : List Opnd) (dst : Option Opnd) (late : Bool)
    (g : State → Nat → List Nat → List Nat → LaneOut × State) : State :=
  s.guarded f (beamSrc ++ laneSrc ++ extra) dst.toList fun s =>
    let once := f.get f.elected beamSrc
    let s' := s.charge (.core f.pl.core) once.corr once.unc 0
    match once.vals with
    | .error w => s'.allLanes f (.lcc 0 w)
    | .ok bs =>
      let r := f.eachState laneSrc (fun s l vs => g s l bs vs) f.lanes ⟨s', [], [], []⟩
      let zs := match dst with
        | some o => f.zeroes o
        | none => []
      s.retire (r.s.results f late (r.writes ++ zs)) f ⟨r.faults, r.parks, none⟩

/-- An S-class destination: x0 to x3 take each active lane's result, any other name the elected lane's (R93, R94). -/
def State.scalarOp (s : State) (f : Frame) (src : List Nat) (dst : Nat) (late : Bool) (g : List Nat → Nat) : State :=
  if isX dst then
    let ops := src.map Opnd.s
    let once := ops.filter Opnd.perBeam
    let each := ops.filter fun o => !o.perBeam
    s.laneOp f once each (.s dst) late fun l _ _ =>
      .ok (f.put l (.s dst) (g (ops.map fun o => (f.value l o).getD 0)))
  else s.onceOp f (src.map Opnd.s) (.s dst) late g

end Sys2Proof.Machine
end

