-- ==== Sys2Proof/Machine/Flags.lean ====
section
/-!
DEFINITION. Sys2Proof/Machine/Flags.lean: results that are one bit per lane of a mask register, the flags of this machine (spec R183,
R193, R210, R408, R419), and the control bits of a beam that instructions compute with (R44, R140 to R142).
-/

namespace Sys2Proof.Machine

/-! ## Mask results -/

/-- A mask register with the bits of these lanes replaced; bits at or above the width are 0, k0 takes nothing (R93, R183). The old bits
are kept as they stand, unchecked: an instruction that writes some bits of a register reads none of them (log entry 44). -/
def Beam.maskBits (b : Beam) (k lanes bits_ : Nat) : List RegWrite :=
  if k = 0 then [] else [.k k (mkK b.width (maskSub (b.kreg k).v.toNat lanes ||| (bits_ &&& lanes)))]

/-- Lanes' bits go into a mask register as it now stands, so that those of the beam's two ports merge (R179). -/
def State.setMask (s : State) (f : Frame) (k lanes bits_ : Nat) : State :=
  s.modBeam f.a fun b => b.writes (b.maskBits k lanes bits_)

/-- What lanes of a test answer: the lanes that completed, the bits they set, and the faults. -/
structure MaskDone where
  done : Nat
  bits : Nat
  faults : List (Nat × Cause)
  corr : Nat
  unc : Nat

/-- Run each active lane's test on its checked sources. -/
def Frame.eachTest (f : Frame) (os : List Opnd) (g : Nat → List Nat → Bool) : List Nat → MaskDone
  | [] => ⟨0, 0, [], 0, 0⟩
  | l :: ls =>
    let r := f.eachTest os g ls
    let got := f.get l os
    let r := { r with corr := r.corr + got.corr, unc := r.unc + got.unc }
    match got.vals with
    | .error w => { r with faults := (l, .lcc 0 w) :: r.faults }
    | .ok vs => { r with done := r.done ||| laneBit l, bits := if g l vs then r.bits ||| laneBit l else r.bits }

/-- An instruction whose active lanes each set their bit of a mask register to the truth of a test; other bits keep their values
(R183). -/
def State.maskOp (s : State) (f : Frame) (k : Nat) (beamSrc laneSrc : List Opnd) (g : Nat → List Nat → List Nat → Bool) : State :=
  s.guarded f (beamSrc ++ laneSrc) [.s (64 + k)] fun s =>
    let once := f.get f.elected beamSrc
    let s' := s.charge (.core f.pl.core) once.corr once.unc 0
    match once.vals with
    | .error w => s'.allLanes f (.lcc 0 w)
    | .ok bs =>
      let r := f.eachTest laneSrc (fun l vs => g l bs vs) f.lanes
      let s' := s'.charge (.core f.pl.core) r.corr r.unc 0
      let s' := s'.setMask f k r.done r.bits
      s.retire s' f ⟨r.faults, [], none⟩

/-! ## Control words (R139 to R146) -/

/-- `fpctl` (R140). -/
def Beam.fpctl (b : Beam) : Nat := b.rm + (if b.ftz then 8 else 0)

/-- A write of `fpctl`: the modes 0b000, 0b110 and 0b111 store 0b001 (R140). -/
def Beam.setFpctl (b : Beam) (v : Nat) : Beam :=
  let m := v % 8
  { b with rm := if m = 0 ∨ m = 6 ∨ m = 7 then 1 else m, ftz := v.testBit 3 }

/-- `beamctl` (R142). -/
def Beam.beamctl (b : Beam) : Nat :=
  (if b.ord then 1 else 0) + (if b.hck then 2 else 0) + b.width * 256 + b.role * 65536 + (if b.inh then 2 ^ 24 else 0)

/-- `alloc` (R146, R151). -/
def Beam.alloc (b : Beam) (lantern : Bool) : Nat :=
  if lantern then 256 * 65536 else b.base + b.ext * 256 + b.total * 65536

/-! ## Per-workgroup control registers (R47, R144, R148) -/

/-- `trapctl` (R144). -/
def trapctl (psave brk : Bool) : Nat := (if brk then 1 else 0) + (if psave then 2 else 0)

/-- The value of a per-workgroup register that a beam sees: its own latest write at once, and of another beam's later ones either the
value before or the value after, until a `bar.wg` (R148). -/
def Wg.seen (g : Wg) (beam reg lag now : Nat) : Nat :=
  match (g.unseen.reverse.filter (·.reg == reg)).takeWhile (·.beam != beam) with
  | [] => now
  | late => (now :: late.map (·.old)).getD (lag % (late.length + 1)) now

/-- A beam has written a per-workgroup register (R148). -/
def Wg.wrote (g : Wg) (beam reg old : Nat) : Wg := { g with unseen := g.unseen ++ [⟨beam, reg, old, false⟩] }

/-- A beam reaches a `bar.wg` (R148). -/
def Wg.reach (g : Wg) (beam : Nat) : Wg :=
  { g with unseen := g.unseen.map fun x => if x.beam = beam then { x with reached := true } else x }

/-- The value of a format register (R47): of the workgroup as the beam sees it, or of the section on a lantern core. -/
def State.fmtReg (s : State) (a : Agent) (n : Nat) : Word :=
  match a with
  | .beam w b => match s.wg? w with
    | some g => .ofNat 32 (g.seen b n (Config.lag s.moves n) (g.fmt.getD n 0).toNat)
    | none => 0
  | .lantern n' => ((s.section? n').bind fun r => r.fmt[n]?).getD 0

/-- `trapctl` (R144), as a beam sees it (R148). -/
def State.trapctlOf (s : State) (a : Agent) : Nat :=
  match a with
  | .beam w b => match s.wg? w with
    | some g => g.seen b 8 (Config.lag s.moves 8) (trapctl g.psave g.brk)
    | none => 0
  | .lantern n => ((s.section? n).map fun x => trapctl x.psave x.brk).getD 0

end Sys2Proof.Machine
end

