-- ==== Sys2Proof/Machine/IntMath.lean ====
section
/-!
DEFINITION. Sys2Proof/Machine/IntMath.lean: what the integer instructions compute on words of any width (spec R38, R181 to
R183, R187).
-/

namespace Sys2Proof.Machine

variable {w : Nat}

def iMulhiS (a b : BitVec w) : BitVec w := .ofInt w (a.toInt * b.toInt / 2 ^ w)
def iMulhiZ (a b : BitVec w) : BitVec w := .ofNat w (a.toNat * b.toNat / 2 ^ w)
/-- |a|; the most negative value gives itself (R181). -/
def iAbs (a : BitVec w) : BitVec w := if a.msb then -a else a
def iMinS (a b : BitVec w) : BitVec w := if a.slt b then a else b
def iMinZ (a b : BitVec w) : BitVec w := if a.ult b then a else b
def iMaxS (a b : BitVec w) : BitVec w := if a.slt b then b else a
def iMaxZ (a b : BitVec w) : BitVec w := if a.ult b then b else a
/-- Signed division toward zero: all ones for a zero divisor; the most negative value by −1 gives itself (R181). -/
def iDivS (a b : BitVec w) : BitVec w := if b = 0 then -1 else .ofInt w (a.toInt.tdiv b.toInt)
/-- Unsigned division: all ones for a zero divisor (R181). -/
def iDivZ (a b : BitVec w) : BitVec w := if b = 0 then -1 else a / b
/-- The remainder with the dividend's sign; a for a zero divisor (R181). -/
def iRemS (a b : BitVec w) : BitVec w := if b = 0 then a else .ofInt w (a.toInt.tmod b.toInt)
def iRemZ (a b : BitVec w) : BitVec w := if b = 0 then a else a % b

/-- The number of 1 bits, from bit 0 upward. -/
def popCount : Nat → Nat → Nat
  | 0, _ => 0
  | n + 1, x => x % 2 + popCount n (x / 2)

def iPopc (a : BitVec w) : BitVec w := .ofNat w (popCount w a.toNat)
/-- 0 bits above the highest 1; w when a is 0 (R181). -/
def iClz (a : BitVec w) : BitVec w := .ofNat w (if a = 0 then w else w - 1 - a.toNat.log2)

/-- 0 bits below the lowest 1 of the low `n` bits. -/
def trailingZeros : Nat → Nat → Nat
  | 0, _ => 0
  | n + 1, x => if x % 2 = 1 then 0 else 1 + trailingZeros n (x / 2)

def iCtz (a : BitVec w) : BitVec w := .ofNat w (trailingZeros w a.toNat)

/-- Bit i moved to bit w−1−i (R181). -/
def iBrev (a : BitVec w) : BitVec w := a.reverse

/-- The shift count b[7:0] (R181). -/
def shiftCount (b : BitVec w) : Nat := b.toNat % 256

def iShl (a b : BitVec w) : BitVec w := a <<< shiftCount b
def iShr (a b : BitVec w) : BitVec w := a >>> shiftCount b
def iSar (a b : BitVec w) : BitVec w := a.sshiftRight (shiftCount b)
def iRotl (a b : BitVec w) : BitVec w := a.rotateLeft (shiftCount b)

/-- The field's position and length of R182, the length reduced to the width. -/
def fieldPos (b : BitVec w) : Nat := b.toNat % 256
def fieldLen (b : BitVec w) : Nat := min w (b.toNat / 256 % 256)

def iBfxZ (a b : BitVec w) : BitVec w := .ofNat w (a.toNat / 2 ^ fieldPos b % 2 ^ fieldLen b)

def iBfxS (a b : BitVec w) : BitVec w :=
  let n := fieldLen b
  let f := a.toNat / 2 ^ fieldPos b % 2 ^ n
  .ofInt w (if n ≠ 0 ∧ 2 ^ (n - 1) ≤ f then (f : Int) - 2 ^ n else f)

/-- The field of `c` replaced by the low bits of `a`; bits of the field at or above the width are dropped (R182). -/
def iBfi (a b c : BitVec w) : BitVec w :=
  let mask : BitVec w := .ofNat w ((2 ^ fieldLen b - 1) * 2 ^ fieldPos b)
  (c &&& ~~~mask) ||| ((a <<< fieldPos b) &&& mask)

/-- The tests of `cmp` (R183): eq, ne, lt.s, ge.s, lt.z, ge.z, tst. -/
inductive IntTest where
  | eq | ne | ltS | geS | ltZ | geZ | tst
deriving DecidableEq, Repr

def IntTest.holds (t : IntTest) (a b : BitVec w) : Bool :=
  match t with
  | .eq => a == b
  | .ne => a != b
  | .ltS => a.slt b
  | .geS => !a.slt b
  | .ltZ => a.ult b
  | .geZ => !a.ult b
  | .tst => a &&& b != 0

/-- Width of an integer conversion type, codes 0 to 9: s4, s8, s16, s32, s64, z4, z8, z16, z32, z64 (R105). -/
def intTypeWidth (t : Nat) : Nat := 4 * 2 ^ (t % 5)

/-- Whether an integer conversion type is signed (R105). -/
def intTypeSigned (t : Nat) : Bool := decide (t < 5)

/-- The least and greatest value of an integer conversion type. -/
def intTypeRange (t : Nat) : Int × Int :=
  if intTypeSigned t then (-(2 ^ (intTypeWidth t - 1)), 2 ^ (intTypeWidth t - 1) - 1) else (0, 2 ^ intTypeWidth t - 1)

/-- The value the low bits of a source hold in an integer type (R187). -/
def intTypeRead (t : Nat) (x : Nat) : Int :=
  let n := intTypeWidth t
  let v := x % 2 ^ n
  if intTypeSigned t && decide (2 ^ (n - 1) ≤ v) then (v : Int) - 2 ^ n else v

/-- A value saturated to an integer type (R187). -/
def intTypeClamp (t : Nat) (v : Int) : Int := max (intTypeRange t).1 (min (intTypeRange t).2 v)

end Sys2Proof.Machine
end

