-- ==== Sys2Proof/Machine/Integer.lean ====
section
/-!
DEFINITION. Sys2Proof/Machine/Integer.lean: the five integer groups at their three widths (spec R106, R176 to R183).
-/

namespace Sys2Proof.Machine

/-! ## The forms the groups share -/

/-- Lanes of 32 bits: V, V, V. -/
def lane32 (m : Mods) (late : Bool) (d : BitVec 7) (src : Frame → List Nat) (g : List (BitVec 32) → BitVec 32) (s : State) :
    Host.Outcome State Fault Refusal :=
  coded m true (fun f s => s.laneOp f [] ((src f).map fun n => .v n 1) (.v d.toNat 1) late fun l _ vs =>
    .ok (f.put l (.v d.toNat 1) (g (vs.map (.ofNat 32))).toNat)) s

/-- Lanes of 64 bits: V2, V2, V2. -/
def lane64 (m : Mods) (late : Bool) (d : BitVec 7) (src : Frame → List Nat) (g : List (BitVec 64) → BitVec 64) (s : State) :
    Host.Outcome State Fault Refusal :=
  coded m true (fun f s => s.laneOp f [] ((src f).map fun n => .v n 2) (.v d.toNat 2) late fun l _ vs =>
    .ok (f.put l (.v d.toNat 2) (g (vs.map (.ofNat 64))).toNat)) s

/-- Sign-extension from bit 63 into [71:64] (R93). -/
def sext72 (v : BitVec 64) : Nat := (v.signExtend 72).toNat

/-- Scalar forms: S, S, S on bits [63:0] (R178). -/
def scalar64 (m : Mods) (late : Bool) (d : BitVec 7) (src : Frame → List Nat) (g : List (BitVec 64) → BitVec 64) (s : State) :
    Host.Outcome State Fault Refusal :=
  coded m true (fun f s => s.scalarOp f (src f) d.toNat late fun vs => sext72 (g (vs.map (.ofNat 64)))) s

/-- The n-th of a list of operand values. -/
def arg (vs : List (BitVec w)) (n : Nat) : BitVec w := vs.getD n 0

def lane32_2 (m : Mods) (late : Bool) (d a b : BitVec 7) (g : BitVec 32 → BitVec 32 → BitVec 32) (s : State) :
    Host.Outcome State Fault Refusal := lane32 m late d (fun _ => [a.toNat, b.toNat]) (fun v => g (arg v 0) (arg v 1)) s
def lane32_1 (m : Mods) (d a : BitVec 7) (g : BitVec 32 → BitVec 32) (s : State) : Host.Outcome State Fault Refusal :=
  lane32 m false d (fun _ => [a.toNat]) (fun v => g (arg v 0)) s
def lane32_3 (m : Mods) (d a b : BitVec 7) (g : BitVec 32 → BitVec 32 → BitVec 32 → BitVec 32) (s : State) :
    Host.Outcome State Fault Refusal :=
  lane32 m false d (fun f => [a.toNat, b.toNat, f.c d.toNat]) (fun v => g (arg v 0) (arg v 1) (arg v 2)) s
def lane64_2 (m : Mods) (late : Bool) (d a b : BitVec 7) (g : BitVec 64 → BitVec 64 → BitVec 64) (s : State) :
    Host.Outcome State Fault Refusal := lane64 m late d (fun _ => [a.toNat, b.toNat]) (fun v => g (arg v 0) (arg v 1)) s
def lane64_1 (m : Mods) (d a : BitVec 7) (g : BitVec 64 → BitVec 64) (s : State) : Host.Outcome State Fault Refusal :=
  lane64 m false d (fun _ => [a.toNat]) (fun v => g (arg v 0)) s
def lane64_3 (m : Mods) (d a b : BitVec 7) (g : BitVec 64 → BitVec 64 → BitVec 64 → BitVec 64) (s : State) :
    Host.Outcome State Fault Refusal :=
  lane64 m false d (fun f => [a.toNat, b.toNat, f.c d.toNat]) (fun v => g (arg v 0) (arg v 1) (arg v 2)) s
def scalar_2 (m : Mods) (late : Bool) (d a b : BitVec 7) (g : BitVec 64 → BitVec 64 → BitVec 64) (s : State) :
    Host.Outcome State Fault Refusal := scalar64 m late d (fun _ => [a.toNat, b.toNat]) (fun v => g (arg v 0) (arg v 1)) s
def scalar_1 (m : Mods) (d a : BitVec 7) (g : BitVec 64 → BitVec 64) (s : State) : Host.Outcome State Fault Refusal :=
  scalar64 m false d (fun _ => [a.toNat]) (fun v => g (arg v 0)) s
def scalar_3 (m : Mods) (d a b : BitVec 7) (g : BitVec 64 → BitVec 64 → BitVec 64 → BitVec 64) (s : State) :
    Host.Outcome State Fault Refusal :=
  scalar64 m false d (fun f => [a.toNat, b.toNat, f.c d.toNat]) (fun v => g (arg v 0) (arg v 1) (arg v 2)) s

def lane32_Cmp (m : Mods) (d : BitVec 3) (a b : BitVec 7) (t : IntTest) (s : State) : Host.Outcome State Fault Refusal :=
  coded m true (fun f s => s.maskOp f d.toNat [] [.v a.toNat 1, .v b.toNat 1] fun _ _ vs =>
    t.holds (BitVec.ofNat 32 (vs.getD 0 0)) (.ofNat 32 (vs.getD 1 0))) s
def lane64_Cmp (m : Mods) (d : BitVec 3) (a b : BitVec 7) (t : IntTest) (s : State) : Host.Outcome State Fault Refusal :=
  coded m true (fun f s => s.maskOp f d.toNat [] [.v a.toNat 2, .v b.toNat 2] fun _ _ vs =>
    t.holds (BitVec.ofNat 64 (vs.getD 0 0)) (.ofNat 64 (vs.getD 1 0))) s

/-- The scalar compare: one truth value, or one per lane where a source is a per-lane name (R178, R183). -/
def scalar_Cmp (m : Mods) (d : BitVec 3) (a b : BitVec 7) (t : IntTest) (s : State) : Host.Outcome State Fault Refusal :=
  coded m true (fun f s =>
    let os := [Opnd.s a.toNat, Opnd.s b.toNat]
    s.maskOp f d.toNat (os.filter Opnd.perBeam) (os.filter fun o => !o.perBeam) fun l _ _ =>
      t.holds (BitVec.ofNat 64 ((f.value l (.s a.toNat)).getD 0)) (.ofNat 64 ((f.value l (.s b.toNat)).getD 0))) s

/-! ## 32-bit lanes (R106, R181 to R183) -/

/-- R181. -/
def execAdd32 (m : Mods) (d a b : BitVec 7) (s : State) : Host.Outcome State Fault Refusal :=
  lane32_2 m false d a b (· + ·) s

/-- R181. -/
def execSub32 (m : Mods) (d a b : BitVec 7) (s : State) : Host.Outcome State Fault Refusal :=
  lane32_2 m false d a b (· - ·) s

/-- R181. -/
def execMul32 (m : Mods) (d a b : BitVec 7) (s : State) : Host.Outcome State Fault Refusal :=
  lane32_2 m false d a b (· * ·) s

/-- R181; the fourth operand is C's (R89). -/
def execMad32 (m : Mods) (d a b : BitVec 7) (s : State) : Host.Outcome State Fault Refusal :=
  lane32_3 m d a b (fun a b c => a * b + c) s

/-- R181. -/
def execMulhiS32 (m : Mods) (d a b : BitVec 7) (s : State) : Host.Outcome State Fault Refusal :=
  lane32_2 m false d a b iMulhiS s

/-- R181. -/
def execMulhiZ32 (m : Mods) (d a b : BitVec 7) (s : State) : Host.Outcome State Fault Refusal :=
  lane32_2 m false d a b iMulhiZ s

/-- R181. -/
def execAbs32 (m : Mods) (d a : BitVec 7) (s : State) : Host.Outcome State Fault Refusal :=
  lane32_1 m d a iAbs s

/-- R181. -/
def execNeg32 (m : Mods) (d a : BitVec 7) (s : State) : Host.Outcome State Fault Refusal :=
  lane32_1 m d a (-·) s

/-- R181. -/
def execMinS32 (m : Mods) (d a b : BitVec 7) (s : State) : Host.Outcome State Fault Refusal :=
  lane32_2 m false d a b iMinS s

/-- R181. -/
def execMinZ32 (m : Mods) (d a b : BitVec 7) (s : State) : Host.Outcome State Fault Refusal :=
  lane32_2 m false d a b iMinZ s

/-- R181. -/
def execMaxS32 (m : Mods) (d a b : BitVec 7) (s : State) : Host.Outcome State Fault Refusal :=
  lane32_2 m false d a b iMaxS s

/-- R181. -/
def execMaxZ32 (m : Mods) (d a b : BitVec 7) (s : State) : Host.Outcome State Fault Refusal :=
  lane32_2 m false d a b iMaxZ s

/-- R181. -/
def execDivS32 (m : Mods) (d a b : BitVec 7) (s : State) : Host.Outcome State Fault Refusal :=
  lane32_2 m true d a b iDivS s

/-- R181. -/
def execDivZ32 (m : Mods) (d a b : BitVec 7) (s : State) : Host.Outcome State Fault Refusal :=
  lane32_2 m true d a b iDivZ s

/-- R181. -/
def execRemS32 (m : Mods) (d a b : BitVec 7) (s : State) : Host.Outcome State Fault Refusal :=
  lane32_2 m true d a b iRemS s

/-- R181. -/
def execRemZ32 (m : Mods) (d a b : BitVec 7) (s : State) : Host.Outcome State Fault Refusal :=
  lane32_2 m true d a b iRemZ s

/-- R181. -/
def execAnd32 (m : Mods) (d a b : BitVec 7) (s : State) : Host.Outcome State Fault Refusal :=
  lane32_2 m false d a b (· &&& ·) s

/-- R181. -/
def execOr32 (m : Mods) (d a b : BitVec 7) (s : State) : Host.Outcome State Fault Refusal :=
  lane32_2 m false d a b (· ||| ·) s

/-- R181. -/
def execXor32 (m : Mods) (d a b : BitVec 7) (s : State) : Host.Outcome State Fault Refusal :=
  lane32_2 m false d a b (· ^^^ ·) s

/-- R181. -/
def execNot32 (m : Mods) (d a : BitVec 7) (s : State) : Host.Outcome State Fault Refusal :=
  lane32_1 m d a (~~~·) s

/-- R181. -/
def execPopc32 (m : Mods) (d a : BitVec 7) (s : State) : Host.Outcome State Fault Refusal :=
  lane32_1 m d a iPopc s

/-- R181. -/
def execClz32 (m : Mods) (d a : BitVec 7) (s : State) : Host.Outcome State Fault Refusal :=
  lane32_1 m d a iClz s

/-- R181. -/
def execCtz32 (m : Mods) (d a : BitVec 7) (s : State) : Host.Outcome State Fault Refusal :=
  lane32_1 m d a iCtz s

/-- R181. -/
def execBrev32 (m : Mods) (d a : BitVec 7) (s : State) : Host.Outcome State Fault Refusal :=
  lane32_1 m d a iBrev s

/-- R181. -/
def execShl32 (m : Mods) (d a b : BitVec 7) (s : State) : Host.Outcome State Fault Refusal :=
  lane32_2 m false d a b iShl s

/-- R181. -/
def execShr32 (m : Mods) (d a b : BitVec 7) (s : State) : Host.Outcome State Fault Refusal :=
  lane32_2 m false d a b iShr s

/-- R181. -/
def execSar32 (m : Mods) (d a b : BitVec 7) (s : State) : Host.Outcome State Fault Refusal :=
  lane32_2 m false d a b iSar s

/-- R181. -/
def execRotl32 (m : Mods) (d a b : BitVec 7) (s : State) : Host.Outcome State Fault Refusal :=
  lane32_2 m false d a b iRotl s

/-- R182. -/
def execBfxS32 (m : Mods) (d a b : BitVec 7) (s : State) : Host.Outcome State Fault Refusal :=
  lane32_2 m false d a b iBfxS s

/-- R182. -/
def execBfxZ32 (m : Mods) (d a b : BitVec 7) (s : State) : Host.Outcome State Fault Refusal :=
  lane32_2 m false d a b iBfxZ s

/-- R182; the fourth operand is C's (R89). -/
def execBfi32 (m : Mods) (d a b : BitVec 7) (s : State) : Host.Outcome State Fault Refusal :=
  lane32_3 m d a b iBfi s

/-- R183. -/
def execCmpEq32 (m : Mods) (d : BitVec 3) (a b : BitVec 7) (s : State) : Host.Outcome State Fault Refusal :=
  lane32_Cmp m d a b .eq s

/-- R183. -/
def execCmpNe32 (m : Mods) (d : BitVec 3) (a b : BitVec 7) (s : State) : Host.Outcome State Fault Refusal :=
  lane32_Cmp m d a b .ne s

/-- R183. -/
def execCmpLtS32 (m : Mods) (d : BitVec 3) (a b : BitVec 7) (s : State) : Host.Outcome State Fault Refusal :=
  lane32_Cmp m d a b .ltS s

/-- R183. -/
def execCmpGeS32 (m : Mods) (d : BitVec 3) (a b : BitVec 7) (s : State) : Host.Outcome State Fault Refusal :=
  lane32_Cmp m d a b .geS s

/-- R183. -/
def execCmpLtZ32 (m : Mods) (d : BitVec 3) (a b : BitVec 7) (s : State) : Host.Outcome State Fault Refusal :=
  lane32_Cmp m d a b .ltZ s

/-- R183. -/
def execCmpGeZ32 (m : Mods) (d : BitVec 3) (a b : BitVec 7) (s : State) : Host.Outcome State Fault Refusal :=
  lane32_Cmp m d a b .geZ s

/-- R183. -/
def execCmpTst32 (m : Mods) (d : BitVec 3) (a b : BitVec 7) (s : State) : Host.Outcome State Fault Refusal :=
  lane32_Cmp m d a b .tst s

/-! ## 64-bit lanes (R106, R181 to R183) -/

/-- R181. -/
def execAdd64 (m : Mods) (d a b : BitVec 7) (s : State) : Host.Outcome State Fault Refusal :=
  lane64_2 m false d a b (· + ·) s

/-- R181. -/
def execSub64 (m : Mods) (d a b : BitVec 7) (s : State) : Host.Outcome State Fault Refusal :=
  lane64_2 m false d a b (· - ·) s

/-- R181. -/
def execMul64 (m : Mods) (d a b : BitVec 7) (s : State) : Host.Outcome State Fault Refusal :=
  lane64_2 m false d a b (· * ·) s

/-- R181; the fourth operand is C's (R89). -/
def execMad64 (m : Mods) (d a b : BitVec 7) (s : State) : Host.Outcome State Fault Refusal :=
  lane64_3 m d a b (fun a b c => a * b + c) s

/-- R181. -/
def execMulhiS64 (m : Mods) (d a b : BitVec 7) (s : State) : Host.Outcome State Fault Refusal :=
  lane64_2 m false d a b iMulhiS s

/-- R181. -/
def execMulhiZ64 (m : Mods) (d a b : BitVec 7) (s : State) : Host.Outcome State Fault Refusal :=
  lane64_2 m false d a b iMulhiZ s

/-- R181. -/
def execAbs64 (m : Mods) (d a : BitVec 7) (s : State) : Host.Outcome State Fault Refusal :=
  lane64_1 m d a iAbs s

/-- R181. -/
def execNeg64 (m : Mods) (d a : BitVec 7) (s : State) : Host.Outcome State Fault Refusal :=
  lane64_1 m d a (-·) s

/-- R181. -/
def execMinS64 (m : Mods) (d a b : BitVec 7) (s : State) : Host.Outcome State Fault Refusal :=
  lane64_2 m false d a b iMinS s

/-- R181. -/
def execMinZ64 (m : Mods) (d a b : BitVec 7) (s : State) : Host.Outcome State Fault Refusal :=
  lane64_2 m false d a b iMinZ s

/-- R181. -/
def execMaxS64 (m : Mods) (d a b : BitVec 7) (s : State) : Host.Outcome State Fault Refusal :=
  lane64_2 m false d a b iMaxS s

/-- R181. -/
def execMaxZ64 (m : Mods) (d a b : BitVec 7) (s : State) : Host.Outcome State Fault Refusal :=
  lane64_2 m false d a b iMaxZ s

/-- R181. -/
def execDivS64 (m : Mods) (d a b : BitVec 7) (s : State) : Host.Outcome State Fault Refusal :=
  lane64_2 m true d a b iDivS s

/-- R181. -/
def execDivZ64 (m : Mods) (d a b : BitVec 7) (s : State) : Host.Outcome State Fault Refusal :=
  lane64_2 m true d a b iDivZ s

/-- R181. -/
def execRemS64 (m : Mods) (d a b : BitVec 7) (s : State) : Host.Outcome State Fault Refusal :=
  lane64_2 m true d a b iRemS s

/-- R181. -/
def execRemZ64 (m : Mods) (d a b : BitVec 7) (s : State) : Host.Outcome State Fault Refusal :=
  lane64_2 m true d a b iRemZ s

/-- R181. -/
def execAnd64 (m : Mods) (d a b : BitVec 7) (s : State) : Host.Outcome State Fault Refusal :=
  lane64_2 m false d a b (· &&& ·) s

/-- R181. -/
def execOr64 (m : Mods) (d a b : BitVec 7) (s : State) : Host.Outcome State Fault Refusal :=
  lane64_2 m false d a b (· ||| ·) s

/-- R181. -/
def execXor64 (m : Mods) (d a b : BitVec 7) (s : State) : Host.Outcome State Fault Refusal :=
  lane64_2 m false d a b (· ^^^ ·) s

/-- R181. -/
def execNot64 (m : Mods) (d a : BitVec 7) (s : State) : Host.Outcome State Fault Refusal :=
  lane64_1 m d a (~~~·) s

/-- R181. -/
def execPopc64 (m : Mods) (d a : BitVec 7) (s : State) : Host.Outcome State Fault Refusal :=
  lane64_1 m d a iPopc s

/-- R181. -/
def execClz64 (m : Mods) (d a : BitVec 7) (s : State) : Host.Outcome State Fault Refusal :=
  lane64_1 m d a iClz s

/-- R181. -/
def execCtz64 (m : Mods) (d a : BitVec 7) (s : State) : Host.Outcome State Fault Refusal :=
  lane64_1 m d a iCtz s

/-- R181. -/
def execBrev64 (m : Mods) (d a : BitVec 7) (s : State) : Host.Outcome State Fault Refusal :=
  lane64_1 m d a iBrev s

/-- R181. -/
def execShl64 (m : Mods) (d a b : BitVec 7) (s : State) : Host.Outcome State Fault Refusal :=
  lane64_2 m false d a b iShl s

/-- R181. -/
def execShr64 (m : Mods) (d a b : BitVec 7) (s : State) : Host.Outcome State Fault Refusal :=
  lane64_2 m false d a b iShr s

/-- R181. -/
def execSar64 (m : Mods) (d a b : BitVec 7) (s : State) : Host.Outcome State Fault Refusal :=
  lane64_2 m false d a b iSar s

/-- R181. -/
def execRotl64 (m : Mods) (d a b : BitVec 7) (s : State) : Host.Outcome State Fault Refusal :=
  lane64_2 m false d a b iRotl s

/-- R182. -/
def execBfxS64 (m : Mods) (d a b : BitVec 7) (s : State) : Host.Outcome State Fault Refusal :=
  lane64_2 m false d a b iBfxS s

/-- R182. -/
def execBfxZ64 (m : Mods) (d a b : BitVec 7) (s : State) : Host.Outcome State Fault Refusal :=
  lane64_2 m false d a b iBfxZ s

/-- R182; the fourth operand is C's (R89). -/
def execBfi64 (m : Mods) (d a b : BitVec 7) (s : State) : Host.Outcome State Fault Refusal :=
  lane64_3 m d a b iBfi s

/-- R183. -/
def execCmpEq64 (m : Mods) (d : BitVec 3) (a b : BitVec 7) (s : State) : Host.Outcome State Fault Refusal :=
  lane64_Cmp m d a b .eq s

/-- R183. -/
def execCmpNe64 (m : Mods) (d : BitVec 3) (a b : BitVec 7) (s : State) : Host.Outcome State Fault Refusal :=
  lane64_Cmp m d a b .ne s

/-- R183. -/
def execCmpLtS64 (m : Mods) (d : BitVec 3) (a b : BitVec 7) (s : State) : Host.Outcome State Fault Refusal :=
  lane64_Cmp m d a b .ltS s

/-- R183. -/
def execCmpGeS64 (m : Mods) (d : BitVec 3) (a b : BitVec 7) (s : State) : Host.Outcome State Fault Refusal :=
  lane64_Cmp m d a b .geS s

/-- R183. -/
def execCmpLtZ64 (m : Mods) (d : BitVec 3) (a b : BitVec 7) (s : State) : Host.Outcome State Fault Refusal :=
  lane64_Cmp m d a b .ltZ s

/-- R183. -/
def execCmpGeZ64 (m : Mods) (d : BitVec 3) (a b : BitVec 7) (s : State) : Host.Outcome State Fault Refusal :=
  lane64_Cmp m d a b .geZ s

/-- R183. -/
def execCmpTst64 (m : Mods) (d : BitVec 3) (a b : BitVec 7) (s : State) : Host.Outcome State Fault Refusal :=
  lane64_Cmp m d a b .tst s

/-! ## Scalar forms (R106, R181 to R183) -/

/-- R181. -/
def execAddSc (m : Mods) (d a b : BitVec 7) (s : State) : Host.Outcome State Fault Refusal :=
  scalar_2 m false d a b (· + ·) s

/-- R181. -/
def execSubSc (m : Mods) (d a b : BitVec 7) (s : State) : Host.Outcome State Fault Refusal :=
  scalar_2 m false d a b (· - ·) s

/-- R181. -/
def execMulSc (m : Mods) (d a b : BitVec 7) (s : State) : Host.Outcome State Fault Refusal :=
  scalar_2 m false d a b (· * ·) s

/-- R181; the fourth operand is C's (R89). -/
def execMadSc (m : Mods) (d a b : BitVec 7) (s : State) : Host.Outcome State Fault Refusal :=
  scalar_3 m d a b (fun a b c => a * b + c) s

/-- R181. -/
def execMulhiSSc (m : Mods) (d a b : BitVec 7) (s : State) : Host.Outcome State Fault Refusal :=
  scalar_2 m false d a b iMulhiS s

/-- R181. -/
def execMulhiZSc (m : Mods) (d a b : BitVec 7) (s : State) : Host.Outcome State Fault Refusal :=
  scalar_2 m false d a b iMulhiZ s

/-- R181. -/
def execAbsSc (m : Mods) (d a : BitVec 7) (s : State) : Host.Outcome State Fault Refusal :=
  scalar_1 m d a iAbs s

/-- R181. -/
def execNegSc (m : Mods) (d a : BitVec 7) (s : State) : Host.Outcome State Fault Refusal :=
  scalar_1 m d a (-·) s

/-- R181. -/
def execMinSSc (m : Mods) (d a b : BitVec 7) (s : State) : Host.Outcome State Fault Refusal :=
  scalar_2 m false d a b iMinS s

/-- R181. -/
def execMinZSc (m : Mods) (d a b : BitVec 7) (s : State) : Host.Outcome State Fault Refusal :=
  scalar_2 m false d a b iMinZ s

/-- R181. -/
def execMaxSSc (m : Mods) (d a b : BitVec 7) (s : State) : Host.Outcome State Fault Refusal :=
  scalar_2 m false d a b iMaxS s

/-- R181. -/
def execMaxZSc (m : Mods) (d a b : BitVec 7) (s : State) : Host.Outcome State Fault Refusal :=
  scalar_2 m false d a b iMaxZ s

/-- R181. -/
def execDivSSc (m : Mods) (d a b : BitVec 7) (s : State) : Host.Outcome State Fault Refusal :=
  scalar_2 m true d a b iDivS s

/-- R181. -/
def execDivZSc (m : Mods) (d a b : BitVec 7) (s : State) : Host.Outcome State Fault Refusal :=
  scalar_2 m true d a b iDivZ s

/-- R181. -/
def execRemSSc (m : Mods) (d a b : BitVec 7) (s : State) : Host.Outcome State Fault Refusal :=
  scalar_2 m true d a b iRemS s

/-- R181. -/
def execRemZSc (m : Mods) (d a b : BitVec 7) (s : State) : Host.Outcome State Fault Refusal :=
  scalar_2 m true d a b iRemZ s

/-- R181. -/
def execAndSc (m : Mods) (d a b : BitVec 7) (s : State) : Host.Outcome State Fault Refusal :=
  scalar_2 m false d a b (· &&& ·) s

/-- R181. -/
def execOrSc (m : Mods) (d a b : BitVec 7) (s : State) : Host.Outcome State Fault Refusal :=
  scalar_2 m false d a b (· ||| ·) s

/-- R181. -/
def execXorSc (m : Mods) (d a b : BitVec 7) (s : State) : Host.Outcome State Fault Refusal :=
  scalar_2 m false d a b (· ^^^ ·) s

/-- R181. -/
def execNotSc (m : Mods) (d a : BitVec 7) (s : State) : Host.Outcome State Fault Refusal :=
  scalar_1 m d a (~~~·) s

/-- R181. -/
def execPopcSc (m : Mods) (d a : BitVec 7) (s : State) : Host.Outcome State Fault Refusal :=
  scalar_1 m d a iPopc s

/-- R181. -/
def execClzSc (m : Mods) (d a : BitVec 7) (s : State) : Host.Outcome State Fault Refusal :=
  scalar_1 m d a iClz s

/-- R181. -/
def execCtzSc (m : Mods) (d a : BitVec 7) (s : State) : Host.Outcome State Fault Refusal :=
  scalar_1 m d a iCtz s

/-- R181. -/
def execBrevSc (m : Mods) (d a : BitVec 7) (s : State) : Host.Outcome State Fault Refusal :=
  scalar_1 m d a iBrev s

/-- R181. -/
def execShlSc (m : Mods) (d a b : BitVec 7) (s : State) : Host.Outcome State Fault Refusal :=
  scalar_2 m false d a b iShl s

/-- R181. -/
def execShrSc (m : Mods) (d a b : BitVec 7) (s : State) : Host.Outcome State Fault Refusal :=
  scalar_2 m false d a b iShr s

/-- R181. -/
def execSarSc (m : Mods) (d a b : BitVec 7) (s : State) : Host.Outcome State Fault Refusal :=
  scalar_2 m false d a b iSar s

/-- R181. -/
def execRotlSc (m : Mods) (d a b : BitVec 7) (s : State) : Host.Outcome State Fault Refusal :=
  scalar_2 m false d a b iRotl s

/-- R182. -/
def execBfxSSc (m : Mods) (d a b : BitVec 7) (s : State) : Host.Outcome State Fault Refusal :=
  scalar_2 m false d a b iBfxS s

/-- R182. -/
def execBfxZSc (m : Mods) (d a b : BitVec 7) (s : State) : Host.Outcome State Fault Refusal :=
  scalar_2 m false d a b iBfxZ s

/-- R182; the fourth operand is C's (R89). -/
def execBfiSc (m : Mods) (d a b : BitVec 7) (s : State) : Host.Outcome State Fault Refusal :=
  scalar_3 m d a b iBfi s

/-- R183. -/
def execCmpEqSc (m : Mods) (d : BitVec 3) (a b : BitVec 7) (s : State) : Host.Outcome State Fault Refusal :=
  scalar_Cmp m d a b .eq s

/-- R183. -/
def execCmpNeSc (m : Mods) (d : BitVec 3) (a b : BitVec 7) (s : State) : Host.Outcome State Fault Refusal :=
  scalar_Cmp m d a b .ne s

/-- R183. -/
def execCmpLtSSc (m : Mods) (d : BitVec 3) (a b : BitVec 7) (s : State) : Host.Outcome State Fault Refusal :=
  scalar_Cmp m d a b .ltS s

/-- R183. -/
def execCmpGeSSc (m : Mods) (d : BitVec 3) (a b : BitVec 7) (s : State) : Host.Outcome State Fault Refusal :=
  scalar_Cmp m d a b .geS s

/-- R183. -/
def execCmpLtZSc (m : Mods) (d : BitVec 3) (a b : BitVec 7) (s : State) : Host.Outcome State Fault Refusal :=
  scalar_Cmp m d a b .ltZ s

/-- R183. -/
def execCmpGeZSc (m : Mods) (d : BitVec 3) (a b : BitVec 7) (s : State) : Host.Outcome State Fault Refusal :=
  scalar_Cmp m d a b .geZ s

/-- R183. -/
def execCmpTstSc (m : Mods) (d : BitVec 3) (a b : BitVec 7) (s : State) : Host.Outcome State Fault Refusal :=
  scalar_Cmp m d a b .tst s

end Sys2Proof.Machine
end

