-- ==== Sys2Proof/Machine/Registers.lean ====
section
/-!
DEFINITION. Sys2Proof/Machine/Registers.lean: moves, addresses, conversions between integers, cross-lane instructions, identity,
index registers and the window (spec R184 to R203).
-/

namespace Sys2Proof.Machine

/-! ## Moves and immediates (R184 to R186) -/

/-- The signed value of an immediate. -/
def imm (i : BitVec w) : Int := i.toInt

/-- The value of a lane's V source, as one word. -/
def val (vs : List Nat) (n : Nat) : Nat := vs.getD n 0

/-- R184: the word moves with its code. -/
def execMovVv (m : Mods) (d a : BitVec 7) (s : State) : Host.Outcome State Fault Refusal :=
  coded m true (fun f s => s.stateOp f [] [] [.v a.toNat 1] (some (.v d.toNat 1)) false fun s l _ _ =>
    (.done (f.putWords l d.toNat [f.b.vreg l (f.b.wb + a.toNat)]), s)) s

/-- R184. -/
def execMovVs (m : Mods) (d a : BitVec 7) (s : State) : Host.Outcome State Fault Refusal :=
  coded m true (fun f s =>
    let o := Opnd.s a.toNat
    s.laneOp f ([o].filter Opnd.perBeam) ([o].filter fun o => !o.perBeam) (.v d.toNat 1) false fun l bs vs =>
      .ok (f.put l (.v d.toNat 1) (val (bs ++ vs) 0))) s

/-- R184: an x destination takes each lane's word, any other the elected lane's. -/
def execMovSv (m : Mods) (d a : BitVec 7) (s : State) : Host.Outcome State Fault Refusal :=
  coded m true (fun f s =>
    if isX d.toNat then
      s.laneOp f [] [.v a.toNat 1] (.s d.toNat) false fun l _ vs => .ok (f.put l (.s d.toNat) (val vs 0))
    else s.onceOp f [.v a.toNat 1] (.s d.toNat) false fun vs => val vs 0) s

/-- R184. -/
def execMovSs (m : Mods) (d a : BitVec 7) (s : State) : Host.Outcome State Fault Refusal :=
  coded m true (fun f s => s.scalarOp f [a.toNat] d.toNat false fun vs => val vs 0) s

/-- R186: only the chosen source's word is consumed (log entry 14). -/
def execSel (m : Mods) (d : BitVec 7) (a : BitVec 3) (b : BitVec 7) (s : State) : Host.Outcome State Fault Refusal :=
  coded m true (fun f s =>
    s.guarded f [.s (64 + a.toNat), .v b.toNat 1, .v (f.c d.toNat) 1] [.v d.toNat 1] fun s =>
      s.stateOp f [.s (64 + a.toNat)] [] [] (some (.v d.toNat 1)) false fun s l bs _ =>
        let n := if (val bs 0).testBit l then b.toNat else f.c d.toNat
        let got := f.get l [.v n 1]
        let s := s.charge (.core f.pl.core) got.corr got.unc 0
        match got.vals with
        | .error w => (.fault (.lcc 0 w), s)
        | .ok vs => (.done (f.put l (.v d.toNat 1) (val vs 0)), s)) s

/-- R185. -/
def execMoviV (m : Mods) (d : BitVec 7) (i : BitVec 17) (s : State) : Host.Outcome State Fault Refusal :=
  coded m true (fun f s => s.laneOp f [] [] (.v d.toNat 1) false fun l _ _ =>
    .ok (f.put l (.v d.toNat 1) (wrap 32 (imm i)))) s

/-- R185. -/
def execMoviS (m : Mods) (d : BitVec 7) (i : BitVec 17) (s : State) : Host.Outcome State Fault Refusal :=
  coded m true (fun f s => s.scalarOp f [] d.toNat false fun _ => wrap 72 (imm i)) s

/-- R185: bits [31:15] are replaced. -/
def execMoviHi (m : Mods) (d : BitVec 7) (i : BitVec 17) (s : State) : Host.Outcome State Fault Refusal :=
  coded m true (fun f s => s.laneOp f [] [.v d.toNat 1] (.v d.toNat 1) false fun l _ vs =>
    .ok (f.put l (.v d.toNat 1) (i.toNat * 2 ^ 15 + val vs 0 % 2 ^ 15))) s

/-! ## Integer conversion and addresses (R187 to R189) -/

/-- Registers of an integer conversion type: a pair for the 64-bit ones (R187). -/
def typeRegs (t : Nat) : Nat := if t = 4 ∨ t = 9 ∨ t = 10 then 2 else 1

/-- R187. -/
def execCvt (m : Mods) (d a : BitVec 7) (t u : BitVec 5) (s : State) : Host.Outcome State Fault Refusal :=
  coded m true (fun f s =>
    s.laneOp f [] [.v a.toNat (typeRegs u.toNat)] (.v d.toNat (typeRegs t.toNat)) false fun l _ vs =>
      .ok (f.put l (.v d.toNat (typeRegs t.toNat))
        (wrap (32 * typeRegs t.toNat) (intTypeClamp t.toNat (intTypeRead u.toNat (val vs 0)))))) s

/-- R188: a 72-bit sum with a scaled immediate. -/
def execLea (m : Mods) (d a : BitVec 6) (i : BitVec 10) (s : State) : Host.Outcome State Fault Refusal :=
  coded m true (fun f s => s.onceOp f [.s a.toNat] (.s d.toNat) false fun vs =>
    wrap 72 ((val vs 0 : Int) + imm i * 16)) s

/-- R188: a 72-bit sum. -/
def execAadd (m : Mods) (d a b : BitVec 6) (s : State) : Host.Outcome State Fault Refusal :=
  coded m true (fun f s => s.onceOp f [.s a.toNat, .s b.toNat] (.s d.toNat) false fun vs =>
    (val vs 0 + val vs 1) % 2 ^ 72) s

/-- The description of the slice that homes an address (R189, R248). -/
def State.slid (s : State) (pl : Place) (va : Nat) : Nat × State :=
  match s.translate pl.core pl.ctx va with
  | (.leaf t, s) =>
    let p := t.page (va % 2 ^ 72)
    if isSystem p.loc then (if moduleOf p.loc < s.mod.domain then 1 * 2 ^ 30 else 3 * 2 ^ 30, s)
    else ((if p.dpv then 2 ^ 16 else 0) + sliceOf p.loc, s)
  | (.fault _ _, s) => (3 * 2 ^ 30, s)

/-- R189. -/
def execSlid (m : Mods) (d a b : BitVec 7) (s : State) : Host.Outcome State Fault Refusal :=
  coded m true (fun f s =>
    let o := Opnd.s a.toNat
    s.stateOp f ([o].filter Opnd.perBeam) (([o].filter fun o => !o.perBeam) ++ [.v b.toNat 1]) [] (some (.v d.toNat 1)) false
      fun s l bs vs =>
        let ws := bs ++ vs
        let (v, s) := s.slid f.pl (wrap 72 ((val ws 0 : Int) + signedBits 32 (val ws 1)))
        (.done (f.put l (.v d.toNat 1) v), s)) s

/-! ## Permutes (R191, R192) -/

/-- A participant's word, or 0 with code 0x00 for any other lane (R191). -/
def Frame.permuted (f : Frame) (a : Nat) (i : Int) : CW :=
  if 0 ≤ i ∧ i < f.b.width ∧ f.active.testBit i.toNat then f.b.vreg i.toNat (f.b.wb + a) else .zero

/-- R192: the source lane is the lane's own index word. -/
def execVshfl (m : Mods) (d a b : BitVec 7) (s : State) : Host.Outcome State Fault Refusal :=
  coded m true (fun f s => s.stateOp f [] [.v b.toNat 1] [.v a.toNat 1] (some (.v d.toNat 1)) false fun s l _ vs =>
    (.done (f.putWords l d.toNat [f.permuted a.toNat (val vs 0)]), s)) s

/-- A permute by an S source, which is read for the issue or, where `each` takes it, by each lane. -/
def permuteS (m : Mods) (d a b : BitVec 7) (each : Opnd → Bool) (src : Frame → Nat → Nat → Int) (s : State) :
    Host.Outcome State Fault Refusal :=
  coded m true (fun f s =>
    let o := Opnd.s b.toNat
    s.stateOp f ([o].filter fun o => !each o) ([o].filter each) [.v a.toNat 1] (some (.v d.toNat 1)) false fun s l bs vs =>
      (.done (f.putWords l d.toNat [f.permuted a.toNat (src f l (val (bs ++ vs) 0 % 2 ^ 64))]), s)) s

/-- R192: the source lane is the S source, unsigned; a per-lane name gives the elected lane's. -/
def execVbcast (m : Mods) (d a b : BitVec 7) (s : State) : Host.Outcome State Fault Refusal :=
  permuteS m d a b (fun _ => false) (fun _ _ n => n) s

/-- R192: the source lane is (l + n) mod w, n signed; a per-lane name gives each lane its own (R93). -/
def execVrot (m : Mods) (d a b : BitVec 7) (s : State) : Host.Outcome State Fault Refusal :=
  permuteS m d a b (fun o => !o.perBeam) (fun f l n => ((l : Int) + signedBits 64 n) % (f.b.width : Int)) s

/-! ## Combining instructions (R177, R193 to R197) -/

/-- What a combining instruction reads: each participant's words, the uncorrectable ones by (source, lane), and the counts. -/
structure CrossIn where
  parts : List Nat
  val : Nat → Nat → Nat
  bad : List (Nat × Nat × CW)
  corr : Nat
  unc : Nat

def Frame.crossIn (f : Frame) (regs : List Nat) : CrossIn :=
  let all := f.lanes.flatMap fun l => regs.mapIdx fun i n => (i, l, n)
  let ws := f.lanes.flatMap fun l => dedupWords [] (regs.flatMap fun n => f.words l (.v n 1))
  let (c, u) := tally ws
  ⟨f.lanes, fun i l => (f.value l (.v (regs.getD i 0) 1)).getD 0,
    all.filterMap fun (i, l, n) => (firstBad ((f.words l (.v n 1)).map (·.2))).map fun w => (i, l, w), c, u⟩

/-- A combining instruction with a V destination: `charged` says which bad word, if any, a lane's result depends on (R177). -/
def State.crossOp (s : State) (f : Frame) (regs : List Nat) (d : Nat) (charged : CrossIn → Nat → Option CW)
    (g : CrossIn → List (Nat × Nat)) (zero : Bool) : State :=
  s.guarded f (regs.map (Opnd.v · 1)) [.v d 1] fun s =>
    let x := f.crossIn regs
    let s' := s.charge (.core f.pl.core) x.corr x.unc 0
    let faults := f.lanes.filterMap fun l => (charged x l).map fun w => (l, Cause.lcc 0 w)
    let ws := ((g x).filter fun (l, _) => !(faults.any (·.1 == l))).flatMap fun (l, v) => f.put l (.v d 1) v
    s.retire (s'.results f false (ws ++ (if zero then f.zeroes (.v d 1) else []))) f ⟨faults, [], none⟩

/-- Every participant depends on every word. -/
def chargeAll (x : CrossIn) (_ : Nat) : Option CW := x.bad.head?.map fun (_, _, w) => w

/-- A participant depends on its own word and on those below it. -/
def chargeAbove (x : CrossIn) (l : Nat) : Option CW := (x.bad.find? fun (_, b, _) => decide (b ≤ l)).map fun (_, _, w) => w

/-- R194: what a participant learns of its group. -/
def conflictWord (x : CrossIn) (l : Nat) : Nat :=
  let same := x.parts.filter fun k => x.val 0 k == x.val 0 l
  (if same.any (fun k => decide (l < k)) then 0 else 2 ^ 31) + same.length * 2 ^ 16
    + (same.filter fun k => decide (k < l)).length * 2 ^ 8 + same.headD 0

/-- R194. -/
def execVconf (m : Mods) (d a : BitVec 7) (s : State) : Host.Outcome State Fault Refusal :=
  coded m true (fun f s => s.crossOp f [a.toNat] d.toNat chargeAll (fun x => x.parts.map fun l => (l, conflictWord x l)) true) s

/-- R195. -/
def execVmatch (m : Mods) (d a : BitVec 7) (s : State) : Host.Outcome State Fault Refusal :=
  coded m true (fun f s => s.crossOp f [a.toNat] d.toNat chargeAbove (fun x =>
    x.parts.map fun l =>
      (l, ((x.parts.filter fun k => decide (k < l) && x.val 0 k == x.val 0 l).getLast?).getD 0xFFFFFFFF)) true) s

/-- R196: the lowest lanes of the path receive the participants' words, in order; the rest are zeroed under Z = 1. -/
def execVcompact (m : Mods) (d a : BitVec 7) (s : State) : Host.Outcome State Fault Refusal :=
  coded m true (fun f s =>
    let path := lanesOf f.i.lanes f.b.count
    s.guarded f [.v a.toNat 1] [.v d.toNat 1] fun s =>
      let x := f.crossIn [a.toNat]
      let s' := s.charge (.core f.pl.core) x.corr x.unc 0
      match x.bad.head? with
      | some (_, _, w) => s'.allLanes f (.lcc 0 w)
      | none =>
        let n := x.parts.length
        let ws := ((path.take n).zip x.parts).flatMap fun (l, p) => f.put l (.v d.toNat 1) (x.val 0 p)
        let zs := if f.p.z then (path.drop n).map fun l => RegWrite.v l (f.b.wb + d.toNat) .zero else []
        s.retire (s'.results f false (ws ++ zs)) f .none) s

/-- R193: one per-beam value from every participant. -/
def execVballot (m : Mods) (d a : BitVec 7) (s : State) : Host.Outcome State Fault Refusal :=
  coded m true (fun f s =>
    s.guarded f [.v a.toNat 1] [.s d.toNat] fun s =>
      let x := f.crossIn [a.toNat]
      let s' := s.charge (.core f.pl.core) x.corr x.unc 0
      match x.bad.head? with
      | some (_, _, w) => s'.allLanes f (.lcc 0 w)
      | none =>
        let v := maskOf (x.parts.filter fun l => x.val 0 l != 0)
        s.retire (s'.results f false (f.put f.elected (.s d.toNat) v)) f .none) s

/-- The operations of `vscan`, `vred` and `vcomb` on 32-bit words (R107, R197). -/
def scanStep (fn x y : Nat) : Nat :=
  let a : BitVec 32 := .ofNat 32 x
  let b : BitVec 32 := .ofNat 32 y
  match fn with
  | 0 => (a + b).toNat
  | 1 => fAdd .fp32 ⟨.rne, false⟩ x y
  | 2 => (iMinS a b).toNat
  | 3 => (iMaxS a b).toNat
  | 4 => fMinMax .fp32 false false x y
  | 5 => fMinMax .fp32 true false x y
  | 6 => (a &&& b).toNat
  | _ => (a ||| b).toNat

/-- The running values of a segmented inclusive scan (R197). -/
def scanFrom (fn : Nat) (x : CrossIn) : Option Nat → List Nat → List (Nat × Nat)
  | _, [] => []
  | acc, l :: ls =>
    let v := match acc with
      | none => x.val 0 l
      | some a => if x.val 1 l ≠ 0 then x.val 0 l else scanStep fn a (x.val 0 l)
    (l, v) :: scanFrom fn x (some v) ls

/-- Combine words in ascending lane order. -/
def combine (fn : Nat) (x : CrossIn) : List Nat → Nat
  | [] => 0
  | l :: ls => ls.foldl (fun acc k => scanStep fn acc (x.val 0 k)) (x.val 0 l)

/-- R197. -/
def execVscan (m : Mods) (fn : BitVec 3) (d a b : BitVec 7) (s : State) : Host.Outcome State Fault Refusal :=
  coded m true (fun f s => s.crossOp f [a.toNat, b.toNat] d.toNat chargeAbove (fun x => scanFrom fn.toNat x none x.parts) true) s

/-- R197. -/
def execVred (m : Mods) (fn : BitVec 3) (d a : BitVec 7) (s : State) : Host.Outcome State Fault Refusal :=
  coded m true (fun f s => s.crossOp f [a.toNat] d.toNat chargeAll (fun x =>
    x.parts.map fun l => (l, combine fn.toNat x x.parts)) true) s

/-- A group's leader receives the group's combination, the others their own word (R197). -/
def combined (fn : Nat) (x : CrossIn) (l : Nat) : Nat :=
  let group := x.parts.filter fun k => x.val 1 k == x.val 1 l
  if group.head? = some l then combine fn x group else x.val 0 l

/-- A bad key is charged to every participant, a bad value to its lane and to its group's leader (R177). -/
def chargeGroup (x : CrossIn) (l : Nat) : Option CW :=
  match x.bad.find? fun (i, _, _) => i == 1 with
  | some (_, _, w) => some w
  | none =>
    (x.bad.find? fun (_, b, _) => b == l
      || (x.parts.filter fun k => x.val 1 k == x.val 1 b).head? == some l).map fun (_, _, w) => w

/-- R197. -/
def execVcomb (m : Mods) (fn : BitVec 3) (d a b : BitVec 7) (s : State) : Host.Outcome State Fault Refusal :=
  coded m true (fun f s => s.crossOp f [a.toNat, b.toNat] d.toNat chargeGroup (fun x =>
    x.parts.map fun l => (l, combined fn.toNat x l)) true) s

/-! ## Identity, window and index registers (R190, R198 to R203) -/

/-- The fields of `rdid` (R190). -/
def State.identity (s : State) (f : Frame) (l n : Nat) : Nat :=
  match n with
  | 0 => s.mod.number
  | 1 => f.pl.die
  | 2 => if f.lantern then 0x80000000 + (f.pl.core - 288) % 16 else f.pl.core % 36
  | 3 => if f.lantern then 0 else f.b.quarter
  | 4 => f.pl.wgId
  | 5 => if f.lantern then 0 else f.b.number
  | 6 => if f.lantern then 0 else (f.b.lane l).thread
  | _ => l

/-- R190. -/
def execRdid (m : Mods) (d : BitVec 7) (n : BitVec 3) (s : State) : Host.Outcome State Fault Refusal :=
  coded m true (fun f s => s.laneOp f [] [] (.v d.toNat 1) false fun l _ _ =>
    .ok (f.put l (.v d.toNat 1) (s.identity f l n.toNat))) s

/-- The register a relative access reaches, where it lies in the allocation (R199). -/
def Frame.relative (f : Frame) (x : Nat) (e : Int) : Option Nat :=
  let n : Int := f.b.wb + signedBits 72 x + e
  if 0 ≤ n ∧ n < f.b.total then some n.toNat else none

/-- The register that a lane's relative access reaches; nothing where its index word is bad or reaches none (R199). -/
def Frame.reached (f : Frame) (a : Nat) (e : Int) (l : Nat) : List RegName :=
  (((f.value l (.s (72 + a))).bind fun x => f.relative x e).map RegName.v).toList

/-- The lanes whose index reaches no register (R199). -/
def Frame.outOfBound (f : Frame) (a : Nat) (e : Int) : List Nat :=
  f.lanes.filter fun l => match f.value l (.s (72 + a)) with
    | some x => (f.relative x e).isNone
    | none => false

/-- The registers that a relative access reads, each once. -/
def Frame.relReads (f : Frame) (a : Nat) (e : Int) : List Nat :=
  (f.lanes.filterMap fun l => (f.value l (.s (72 + a))).bind fun x => f.relative x e).dedup

/-- A relative access: the bound of the V field first; then the hazards of the registers it names and of those it reaches, which leave every
lane without effect, and beside which the lanes that reach no register have the lower code (R82, R91, R156, R199). -/
def relOp (m : Mods) (d : BitVec 7) (a : BitVec 2) (i : BitVec 10) (zero : Bool)
    (g : Frame → Nat → Nat → List RegWrite) (s : State) : Host.Outcome State Fault Refusal :=
  coded m true (fun f s =>
    s.bounded f [.v d.toNat 1] fun s =>
      let hz := f.hazardLanes (f.names (.v d.toNat 1) ++ f.names (.s (72 + a.toNat))) (f.reached a.toNat (imm i))
      let out := f.outOfBound a.toNat (imm i)
      if !hz.isEmpty then
        if out.isEmpty then s.whole f (.plain causeHazard) (maskOf hz) else s.whole f (.plain causeBound) (maskOf out)
      else
        let s := if zero then s.latchAt f (f.relReads a.toNat (imm i)) else s
        s.stateOp f [] [.s (72 + a.toNat)] (if zero then [] else [.v d.toNat 1]) (if zero then some (.v d.toNat 1) else none) false
          fun s l _ vs =>
            match f.relative (val vs 0) (imm i) with
            | none => (.fault (.plain causeBound), s)
            | some n => (.done (g f l n), s)) s

/-- R199: a word with its code from the register the lane's index selects. -/
def execRgetX (m : Mods) (d : BitVec 7) (a : BitVec 2) (i : BitVec 10) (s : State) : Host.Outcome State Fault Refusal :=
  relOp m d a i true (fun f l n => [.v l (f.b.wb + d.toNat) (f.b.vreg l n)]) s

/-- R199: a word with its code into the register the lane's index selects. -/
def execRputX (m : Mods) (d : BitVec 7) (a : BitVec 2) (i : BitVec 10) (s : State) : Host.Outcome State Fault Refusal :=
  relOp m d a i false (fun f l n => [.v l n (f.b.vreg l (f.b.wb + d.toNat))]) s

/-- R200. -/
def execXadd (m : Mods) (d a : BitVec 2) (i : BitVec 10) (s : State) : Host.Outcome State Fault Refusal :=
  coded m true (fun f s => s.laneOp f [] [.s (72 + a.toNat)] (.s (72 + d.toNat)) false fun l _ vs =>
    .ok (f.put l (.s (72 + d.toNat)) (wrap 16 (signedBits 72 (val vs 0) + imm i)))) s

/-- R200. -/
def execXset (m : Mods) (d : BitVec 2) (i : BitVec 17) (s : State) : Host.Outcome State Fault Refusal :=
  coded m true (fun f s => s.laneOp f [] [] (.s (72 + d.toNat)) false fun l _ _ =>
    .ok (f.put l (.s (72 + d.toNat)) (wrap 16 (imm i)))) s

/-- The window base changes; latch entries are freed (R131, R150). -/
def Beam.setWb (b : Beam) (v : Nat) : Beam := { b with wb := v % 256, latch := [] }

/-- R198. -/
def execWbase (m : Mods) (a : BitVec 7) (s : State) : Host.Outcome State Fault Refusal :=
  coded m true (fun f s =>
    s.guarded f [.s a.toNat] [] fun s =>
      let once := f.get f.elected [.s a.toNat]
      let s' := s.charge (.core f.pl.core) once.corr once.unc 0
      match once.vals with
      | .error w => s'.allLanes f (.lcc 0 w)
      | .ok vs => s.retire (s'.modBeam f.a fun b => b.setWb (val vs 0)) f .none) s

/-- R201: a request enters the grant order, and the beam parks until the grant. In a section it completes at once (R151). -/
def execExtAcq (m : Mods) (n : BitVec 3) (s : State) : Host.Outcome State Fault Refusal :=
  coded m true (fun f s =>
    match f.a with
    | .lantern _ => s.goOn f
    | .beam w k =>
      match s.wg? w with
      | none => s
      | some g =>
        let regs := 32 * n.toNat
        if f.b.extDecl < regs ∨ f.b.ext ≠ 0 ∨ g.extQueue.any (·.1 == k) then s.wholeActive f causeBound
        else s.masked f fun s =>
          let s' := (s.setWg w { g with extQueue := g.extQueue ++ [(k, regs)] }).modBeam f.a fun b => { b with asked := regs }
          (s.retire s' f ⟨[], [], some [⟨f.i.pc, f.i.pri, f.i.lanes, .extAcq, 0⟩]⟩).serveExt w) s

/-- The extended block goes, with the latch entries that hold its registers (R202). -/
def Beam.releaseExt (b : Beam) : Beam :=
  { b with
    ext := 0
    lanes := b.lanes.map fun l => { l with v := l.v.take b.base }
    latch := b.latch.filter fun (n, _) => decide (n < b.base) }

/-- Whether a result is still to land in an extended register: an outstanding one, the words of far lanes, or what a `ship.w` or a `tkwait`
waits for (R79, R202). -/
def Beam.extPending (b : Beam) : Bool :=
  (b.outstanding.any fun p => match p.write with
    | .v _ n _ => decide (b.base ≤ n)
    | _ => false)
  || (b.parked.any fun (_, r) => match r.cause with
    | .split _ dst width => decide (b.base < dst + wordsIn (2 ^ width))
    | .nack _ dst => decide (b.base < dst + 4)
    | _ => false)
  || ((b.frontier ++ b.kept.getD []).any fun e => match e.kind with
    | .tkwait slot dst _ _ => decide (b.base < dst + (if slot = 8 then 4 else 5))
    | _ => false)

/-- R202: the instruction waits where it is until no result is destined for an extended register. -/
def execExtRel (m : Mods) (s : State) : Host.Outcome State Fault Refusal :=
  coded m true (fun f s => s.masked f fun s =>
    match f.a with
    | .lantern _ => s.goOn f
    | .beam w _ =>
      if f.b.ext = 0 then s.goOn f
      else if f.b.extPending then s.stay
      else ((s.modBeam f.a Beam.releaseExt).goOn f).serveExt w) s

end Sys2Proof.Machine
end

