-- ==== Sys2Proof/Machine/Special.lean ====
section
/-!
DEFINITION. Sys2Proof/Machine/Special.lean: the correctly rounded helpers of spec R60 and R213. Each is computed between two
rational bounds whose width shrinks with a precision; where both bounds round to the same FP64 value, that is the correctly
rounded value. Three precisions are tried. DESIGN CHOICE (log entry 5): where even the third leaves two candidates, the lower
bound's rounding is taken.
-/

namespace Sys2Proof.Machine

/-- Bounds lo / 2^P ≤ x ≤ hi / 2^P, the precision P kept outside. -/
structure Iv where
  lo : Int
  hi : Int
deriving DecidableEq, Repr

namespace Iv

/-- Floor and ceiling of n / d, d positive. -/
def ceilDiv (n : Int) (d : Nat) : Int := -((-n) / (d : Int))

def ofFrac (p : Nat) (n : Int) (d : Nat) : Iv := ⟨n * 2 ^ p / (d : Int), ceilDiv (n * 2 ^ p) d⟩
def add (a b : Iv) : Iv := ⟨a.lo + b.lo, a.hi + b.hi⟩
def sub (a b : Iv) : Iv := ⟨a.lo - b.hi, a.hi - b.lo⟩
def neg (a : Iv) : Iv := ⟨-a.hi, -a.lo⟩

def mul (p : Nat) (a b : Iv) : Iv :=
  let w := a.lo * b.lo
  let x := a.lo * b.hi
  let y := a.hi * b.lo
  let z := a.hi * b.hi
  ⟨min (min w x) (min y z) / 2 ^ p, ceilDiv (max (max w x) (max y z)) (2 ^ p)⟩

/-- Scaled by the fraction n / d. -/
def scale (a : Iv) (n d : Nat) : Iv := ⟨a.lo * n / (d : Int), ceilDiv (a.hi * n) d⟩

/-- 1 / x for an x above zero. -/
def recip (p : Nat) (a : Iv) : Iv :=
  ⟨(2 ^ (2 * p) : Int) / max a.hi 1, ceilDiv (2 ^ (2 * p) : Int) (max a.lo 1).toNat⟩

/-- √x for an x not below zero. -/
def sqrt (p : Nat) (a : Iv) : Iv :=
  ⟨isqrt (a.lo.toNat * 2 ^ p), isqrt (a.hi.toNat * 2 ^ p) + 1⟩

end Iv

/-- The terms t, t·y/(n), … of a series whose k-th ratio is y · num k / den k, added up; the last term bounds what is left out
where each ratio is at most one half. -/
def ivSeries (p : Nat) (y : Iv) (ratio : Nat → Nat × Nat) : Nat → Nat → Iv → Iv → Iv
  | 0, _, term, acc =>
    let r := max term.hi.natAbs term.lo.natAbs + 1
    ⟨acc.lo - 2 * r, acc.hi + 2 * r⟩
  | fuel + 1, k, term, acc =>
    let (n, d) := ratio k
    let t := (Iv.mul p term y).scale n d
    ivSeries p y ratio fuel (k + 1) t (acc.add t)

def ivOne (p : Nat) : Iv := ⟨2 ^ p, 2 ^ p⟩

/-- atan (1/q) for q at least 5, as Σ (-1)^k / ((2k+1) q^(2k+1)). -/
def ivAtanInv (p q : Nat) : Iv :=
  let y := Iv.ofFrac p (-1) (q * q)
  let t := Iv.ofFrac p 1 q
  ivSeries p y (fun k => (2 * k + 1, 2 * k + 3)) (p / 4 + 8) 0 t t

/-- π = 16 atan (1/5) − 4 atan (1/239). -/
def ivPi (p : Nat) : Iv := ((ivAtanInv p 5).scale 16 1).sub ((ivAtanInv p 239).scale 4 1)

/-- 2 atanh z = ln ((1+z)/(1−z)) for 0 ≤ z ≤ 1/3. -/
def ivTwoAtanh (p : Nat) (z : Iv) : Iv :=
  let y := Iv.mul p z z
  (ivSeries p y (fun k => (2 * k + 1, 2 * k + 3)) (p / 3 + 8) 0 z z).scale 2 1

/-- ln 2 = 2 atanh (1/3). -/
def ivLn2 (p : Nat) : Iv := ivTwoAtanh p (Iv.ofFrac p 1 3)

/-- e^y for 0 ≤ y ≤ 1/2. -/
def ivExpSmall (p : Nat) (y : Iv) : Iv :=
  ivSeries p y (fun k => (1, k + 1)) (p / 4 + 12) 0 (ivOne p) (ivOne p)

/-- `n` squarings. -/
def ivSquare (p : Nat) : Nat → Iv → Iv
  | 0, a => a
  | n + 1, a => ivSquare p n (Iv.mul p a a)

/-- e^x for x = num / den not below zero and at most 2^11: halved twelve times, then squared twelve times. -/
def ivExp (p : Nat) (num den : Nat) : Iv := ivSquare p 12 (ivExpSmall p (Iv.ofFrac p num (den * 2 ^ 12)))

/-- e^(num/den) of either sign. -/
def ivExpSigned (p : Nat) (neg : Bool) (num den : Nat) : Iv :=
  let e := ivExp p num den
  if neg then Iv.recip p e else e

/-- sin or cos of y with |y| ≤ 1. -/
def ivSinSmall (p : Nat) (y : Iv) : Iv :=
  ivSeries p (Iv.mul p y y).neg (fun k => (1, (2 * k + 2) * (2 * k + 3))) (p / 8 + 12) 0 y y

def ivCosSmall (p : Nat) (y : Iv) : Iv :=
  ivSeries p (Iv.mul p y y).neg (fun k => (1, (2 * k + 1) * (2 * k + 2))) (p / 8 + 12) 0 (ivOne p) (ivOne p)

/-- sin x or cos x of x = num / den not below zero: x less the nearest multiple of π/2, the reduction exact to the precision. -/
def ivSinCos (p : Nat) (cos : Bool) (num den : Nat) : Iv :=
  let q := p + (num / den).log2 + 8
  let x := Iv.ofFrac q num den
  let half := (ivPi q).scale 1 2
  let k : Nat := (2 * x.lo.toNat + half.lo.toNat) / (2 * half.lo.toNat)
  let r := x.sub (half.scale k 1)
  let quadrant := (k + (if cos then 1 else 0)) % 4
  let v := if quadrant % 2 = 0 then ivSinSmall q r else ivCosSmall q r
  let w := if 2 ≤ quadrant then v.neg else v
  ⟨w.lo / 2 ^ (q - p), Iv.ceilDiv w.hi (2 ^ (q - p))⟩

/-- Σ x^(2k+1) / (1·3·…·(2k+1)) for x = num / den, with terms enough for x² ≤ 2^11. -/
def ivOddFactorial (p : Nat) (num den : Nat) : Iv :=
  let x := Iv.ofFrac p num den
  let y := Iv.mul p x x
  let terms := p + 8 + 3 * (num * num / (den * den) + 1)
  ivSeries p y (fun k => (1, 2 * k + 3)) terms 0 x x

/-- The normal density e^(−x²/2) / √(2π). -/
def ivDensity (p : Nat) (num den : Nat) : Iv :=
  let e := ivExpSigned p true (num * num) (2 * den * den)
  Iv.mul p e (Iv.recip p (Iv.sqrt p ((ivPi p).scale 2 1)))

/-- The normal distribution's Φ(x) − 1/2 for x not below zero. -/
def ivPhiUpper (p : Nat) (num den : Nat) : Iv := Iv.mul p (ivDensity p num den) (ivOddFactorial p num den)

/-- The FP64 rounding of a bound (RNE). -/
def ivRound (p : Nat) (n : Int) : Nat := IFmt.fp64.encode .rne (FVal.ofFrac false n (2 ^ p))

/-- Try precisions in turn until both bounds round alike. -/
def ivResolve (f : Nat → Iv) : List Nat → Nat
  | [] => 0
  | [p] => ivRound p (f p).lo
  | p :: ps =>
    let v := f p
    let lo := ivRound p v.lo
    if lo = ivRound p v.hi then lo else ivResolve f ps

/-- The precisions tried for an argument whose result may lie `drop` bits below one. -/
def precisions (drop : Nat) : List Nat := [128 + drop, 320 + drop, 1024 + drop]

/-- Bits by which a fraction lies below one. -/
def dropBits (n d : Nat) : Nat := (-(floorLog2 n d)).toNat

def fp64One : Nat := 0x3FF0000000000000
def fp64Half : Nat := 0x3FE0000000000000

/-- `exp_cr` (R60). -/
def expCr : FVal → Nat
  | .nan => IFmt.fp64.nanBits
  | .inf true => 0
  | .inf false => IFmt.fp64.infBits
  | .zero _ => fp64One
  | .fin neg n d =>
    if 1024 * d < n then (if neg then 0 else IFmt.fp64.infBits)
    else ivResolve (fun p => ivExpSigned p neg n d) (precisions (if neg then 2 * (n / d) + 4 else 4))

/-- `expm1_cr` (R60). -/
def expm1Cr : FVal → Nat
  | .nan => IFmt.fp64.nanBits
  | .inf true => fp64One + IFmt.fp64.signBit
  | .inf false => IFmt.fp64.infBits
  | .zero s => if s then IFmt.fp64.signBit else 0
  | .fin neg n d =>
    if 1024 * d < n then (if neg then fp64One + IFmt.fp64.signBit else IFmt.fp64.infBits)
    else ivResolve (fun p => (ivExpSigned p neg n d).sub (ivOne p)) (precisions (2 * dropBits n d + 2 * (n / d) + 8))

/-- `exp2_cr` (R213, R214): 2^x, its integer part applied as a scale. -/
def exp2Cr : FVal → Nat
  | .nan => IFmt.fp64.nanBits
  | .inf true => 0
  | .inf false => IFmt.fp64.infBits
  | .zero _ => fp64One
  | .fin neg n d =>
    let k : Int := if neg then -(((n + d - 1) / d : Nat) : Int) else ((n / d : Nat) : Int)
    if 2000 < k then IFmt.fp64.infBits
    else if k < -2000 then 0
    else
      let fr : Nat := if neg then k.natAbs * d - n else n - k.natAbs * d
      if fr = 0 then let (a, b) := shiftFrac 1 1 k; IFmt.fp64.encode .rne (.fin false a b)
      else ivResolve (fun p =>
        let e := ivSquare p 4 (ivExpSmall p ((ivLn2 p).scale fr (d * 16)))
        match k with
        | .ofNat j => e.scale (2 ^ j) 1
        | .negSucc j => e.scale 1 (2 ^ (j + 1))) (precisions (k.natAbs + 8))

/-- `log2_cr` (R213, R214). -/
def log2Cr : FVal → Nat
  | .nan => IFmt.fp64.nanBits
  | .inf true => IFmt.fp64.nanBits
  | .inf false => IFmt.fp64.infBits
  | .zero _ => IFmt.fp64.infBits + IFmt.fp64.signBit
  | .fin true _ _ => IFmt.fp64.nanBits
  | .fin false n d =>
    let k := floorLog2 n d
    let (a, b) := shiftFrac n d (-k)
    if a = b then IFmt.fp64.encode .rne (FVal.ofInt k)
    else ivResolve (fun p =>
      let z := Iv.ofFrac p ((a : Int) - b) (a + b)
      let ln := ivTwoAtanh p z
      (Iv.ofFrac p k 1).add (Iv.mul p ln (Iv.recip p (ivLn2 p)))) (precisions 128)

/-- `sin_cr` (R213, R214). -/
def sinCr : FVal → Nat
  | .nan => IFmt.fp64.nanBits
  | .inf _ => IFmt.fp64.nanBits
  | .zero s => if s then IFmt.fp64.signBit else 0
  | .fin neg n d =>
    ivResolve (fun p => let v := ivSinCos p false n d; if neg then v.neg else v)
      (precisions (4 * dropBits n d + (n / d).log2 + 128))

/-- `cos_cr` (R213, R214). -/
def cosCr : FVal → Nat
  | .nan => IFmt.fp64.nanBits
  | .inf _ => IFmt.fp64.nanBits
  | .zero _ => fp64One
  | .fin _ n d => ivResolve (fun p => ivSinCos p true n d) (precisions ((n / d).log2 + 128))

/-- `Phi_cr` (R60). Beyond 9 it rounds to 1 and below −39 to 0. -/
def phiUpperCr : FVal → Nat
  | .nan => IFmt.fp64.nanBits
  | .inf true => 0
  | .inf false => fp64One
  | .zero _ => fp64Half
  | .fin neg n d =>
    if neg then
      if 39 * d < n then 0
      else ivResolve (fun p => (Iv.ofFrac p 1 2).sub (ivPhiUpper p n d)) (precisions (2 * (n * n / (d * d)) + 32))
    else if 9 * d < n then fp64One
    else ivResolve (fun p => (Iv.ofFrac p 1 2).add (ivPhiUpper p n d)) (precisions 192)

/-- `phi_cr` (R60). -/
def phiLowerCr : FVal → Nat
  | .nan => IFmt.fp64.nanBits
  | .inf _ => 0
  | .zero _ => ivResolve (fun p => ivDensity p 0 1) (precisions 16)
  | .fin _ n d => if 39 * d < n then 0 else ivResolve (fun p => ivDensity p n d) (precisions (2 * (n * n / (d * d)) + 32))

/-- `erf_cr` (R213, R214): erf x = (2/√π) e^(−x²) Σ 2^k x^(2k+1) / (1·3·…·(2k+1)). Beyond 6 it rounds to 1. -/
def erfCr : FVal → Nat
  | .nan => IFmt.fp64.nanBits
  | .inf s => fp64One + (if s then IFmt.fp64.signBit else 0)
  | .zero s => if s then IFmt.fp64.signBit else 0
  | .fin neg n d =>
    let s := if neg then IFmt.fp64.signBit else 0
    if 6 * d < n then fp64One + s
    else s + ivResolve (fun p =>
      let x := Iv.ofFrac p n d
      let y := (Iv.mul p x x).scale 2 1
      let sum := ivSeries p y (fun k => (1, 2 * k + 3)) (p + 8 + 6 * (n * n / (d * d) + 1)) 0 x x
      let e := ivExpSigned p true (n * n) (d * d)
      Iv.mul p (Iv.mul p (e.scale 2 1) (Iv.recip p (Iv.sqrt p (ivPi p)))) sum) (precisions (2 * dropBits n d + 160))

/-- `sigm_cr` (R60): 1/(1 + e^(−x)). Beyond 64 it rounds to 1. -/
def sigmCr : FVal → Nat
  | .nan => IFmt.fp64.nanBits
  | .inf true => 0
  | .inf false => fp64One
  | .zero _ => fp64Half
  | .fin neg n d =>
    if neg then
      if 1024 * d < n then 0
      else ivResolve (fun p => Iv.recip p ((ivOne p).add (ivExp p n d))) (precisions (2 * (n / d) + 64))
    else if 64 * d < n then fp64One
    else ivResolve (fun p => Iv.recip p ((ivOne p).add (ivExpSigned p true n d))) (precisions 160)

/-- `rsqrt_cr` (R60): NaN for a negative argument, 0 at +infinity. -/
def rsqrtCr (x : FVal) : Nat := IFmt.fp64.encode .rne (x.rsqrt 57)

/-- One of the special functions of R213 on an FP32 encoding: widened, computed to FP64, rounded once more in the mode, flushed. -/
def special32 (f : FVal → Nat) (e : FEnv) (a : Nat) : Nat :=
  IFmt.fp32.result e.rm e.ftz (IFmt.fp64.decode (f (IFmt.fp32.source e.ftz a)))

end Sys2Proof.Machine
end

