-- ==== Sys2Proof/Machine/Floats.lean ====
section
/-!
DEFINITION. Sys2Proof/Machine/Floats.lean: the floating-point instructions (spec R204 to R222), over the arithmetic on encodings of
Float.lean and Special.lean.
-/

namespace Sys2Proof.Machine

/-! ## Types, modes and elements -/

/-- A floating-point operand type: its format, its registers per operand and its elements per operand (R39, R205). -/
structure FTy where
  fmt : IFmt
  regs : Nat
  count : Nat

def tyF64 : FTy := ⟨.fp64, 2, 1⟩
def tyF32 : FTy := ⟨.fp32, 1, 1⟩
def tyBf16 : FTy := ⟨.bf16, 1, 2⟩
def tyF16 : FTy := ⟨.fp16, 1, 2⟩

/-- The mode a code names (R44). -/
def modeOf : Nat → RMode
  | 2 => .rtz
  | 3 => .rup
  | 4 => .rdn
  | 5 => .rna
  | _ => .rne

/-- The rounding mode of an issue: the prefix's, or `fpctl.RM` where the prefix is absent or dynamic (R44). -/
def Frame.mode (f : Frame) : RMode := modeOf (if f.p.rm = 0 then f.b.rm else f.p.rm.toNat)

def Frame.fenv (f : Frame) : FEnv := ⟨f.mode, f.b.ftz⟩

/-- Whether a result in NF8 or NF4 rounds toward zero; any other mode rounds to nearest even (R45). -/
def Frame.nfToZero (f : Frame) : Bool := f.mode == .rtz

/-- Element `i` of a packed value of elements `w` bits wide (R39). -/
def elem (w i v : Nat) : Nat := bits v (w * i) w

/-- Pack elements `w` bits wide, element 0 lowest. -/
def packElems (w : Nat) : List Nat → Nat
  | [] => 0
  | e :: es => e % 2 ^ w + 2 ^ w * packElems w es

/-- Apply a function to every element of a type (R205). -/
def FTy.each (t : FTy) (g : List Nat → Nat) (vs : List Nat) : Nat :=
  packElems t.fmt.width ((List.range t.count).map fun i => g (vs.map (elem t.fmt.width i)))

def State.nf (s : State) (f : Frame) (n : Nat) : NfFmt := .ofWord (s.fmtReg f.a (n % 8))

/-! ## The forms the instructions share -/

/-- Lanes of floating-point elements. -/
def floatLane (m : Mods) (late : Bool) (t : FTy) (d : BitVec 7) (src : Frame → List Nat) (g : FEnv → List Nat → Nat) (s : State) :
    Host.Outcome State Fault Refusal :=
  coded m true (fun f s => s.laneOp f [] ((src f).map fun n => .v n t.regs) (.v d.toNat t.regs) late fun l _ vs =>
    .ok (f.put l (.v d.toNat t.regs) (t.each (g f.fenv) vs))) s

def float1 (m : Mods) (late : Bool) (t : FTy) (d a : BitVec 7) (g : FEnv → Nat → Nat) (s : State) : Host.Outcome State Fault Refusal :=
  floatLane m late t d (fun _ => [a.toNat]) (fun e v => g e (val v 0)) s

def float2 (m : Mods) (late : Bool) (t : FTy) (d a b : BitVec 7) (g : FEnv → Nat → Nat → Nat) (s : State) :
    Host.Outcome State Fault Refusal :=
  floatLane m late t d (fun _ => [a.toNat, b.toNat]) (fun e v => g e (val v 0) (val v 1)) s

def float3 (m : Mods) (t : FTy) (d a b : BitVec 7) (g : FEnv → Nat → Nat → Nat → Nat) (s : State) :
    Host.Outcome State Fault Refusal :=
  floatLane m false t d (fun f => [a.toNat, b.toNat, f.c d.toNat]) (fun e v => g e (val v 0) (val v 1) (val v 2)) s

/-- `fcmp` (R210): element 0 alone is compared. -/
def floatCmp (m : Mods) (t : FTy) (cond d : BitVec 3) (a b : BitVec 7) (s : State) : Host.Outcome State Fault Refusal :=
  coded m true (fun f s => s.maskOp f d.toNat [] [.v a.toNat t.regs, .v b.toNat t.regs] fun _ _ vs =>
    fCmp t.fmt cond.toNat f.b.ftz (elem t.fmt.width 0 (val vs 0)) (elem t.fmt.width 0 (val vs 1))) s

/-! ## Arithmetic (R208, R209) -/

/-- R208. -/
def execFaddF64 (m : Mods) (d a b : BitVec 7) (s : State) : Host.Outcome State Fault Refusal :=
  float2 m false tyF64 d a b (fun e x y => fAdd .fp64 e x y) s

/-- R208. -/
def execFsubF64 (m : Mods) (d a b : BitVec 7) (s : State) : Host.Outcome State Fault Refusal :=
  float2 m false tyF64 d a b (fun e x y => fSub .fp64 e x y) s

/-- R208. -/
def execFmulF64 (m : Mods) (d a b : BitVec 7) (s : State) : Host.Outcome State Fault Refusal :=
  float2 m false tyF64 d a b (fun e x y => fMul .fp64 e x y) s

/-- R208. -/
def execFmaF64 (m : Mods) (d a b : BitVec 7) (s : State) : Host.Outcome State Fault Refusal :=
  float3 m tyF64 d a b (fun e x y z => fFma .fp64 e x y z) s

/-- R209. -/
def execFminF64 (m : Mods) (d a b : BitVec 7) (s : State) : Host.Outcome State Fault Refusal :=
  float2 m false tyF64 d a b (fun e x y => fMinMax .fp64 false e.ftz x y) s

/-- R209. -/
def execFmaxF64 (m : Mods) (d a b : BitVec 7) (s : State) : Host.Outcome State Fault Refusal :=
  float2 m false tyF64 d a b (fun e x y => fMinMax .fp64 true e.ftz x y) s

/-- R208. -/
def execFnegF64 (m : Mods) (d a : BitVec 7) (s : State) : Host.Outcome State Fault Refusal :=
  float1 m false tyF64 d a (fun _ x => fNeg .fp64 x) s

/-- R208. -/
def execFabsF64 (m : Mods) (d a : BitVec 7) (s : State) : Host.Outcome State Fault Refusal :=
  float1 m false tyF64 d a (fun _ x => fAbs .fp64 x) s

/-- R208. -/
def execFaddF32 (m : Mods) (d a b : BitVec 7) (s : State) : Host.Outcome State Fault Refusal :=
  float2 m false tyF32 d a b (fun e x y => fAdd .fp32 e x y) s

/-- R208. -/
def execFsubF32 (m : Mods) (d a b : BitVec 7) (s : State) : Host.Outcome State Fault Refusal :=
  float2 m false tyF32 d a b (fun e x y => fSub .fp32 e x y) s

/-- R208. -/
def execFmulF32 (m : Mods) (d a b : BitVec 7) (s : State) : Host.Outcome State Fault Refusal :=
  float2 m false tyF32 d a b (fun e x y => fMul .fp32 e x y) s

/-- R208. -/
def execFmaF32 (m : Mods) (d a b : BitVec 7) (s : State) : Host.Outcome State Fault Refusal :=
  float3 m tyF32 d a b (fun e x y z => fFma .fp32 e x y z) s

/-- R209. -/
def execFminF32 (m : Mods) (d a b : BitVec 7) (s : State) : Host.Outcome State Fault Refusal :=
  float2 m false tyF32 d a b (fun e x y => fMinMax .fp32 false e.ftz x y) s

/-- R209. -/
def execFmaxF32 (m : Mods) (d a b : BitVec 7) (s : State) : Host.Outcome State Fault Refusal :=
  float2 m false tyF32 d a b (fun e x y => fMinMax .fp32 true e.ftz x y) s

/-- R208. -/
def execFnegF32 (m : Mods) (d a : BitVec 7) (s : State) : Host.Outcome State Fault Refusal :=
  float1 m false tyF32 d a (fun _ x => fNeg .fp32 x) s

/-- R208. -/
def execFabsF32 (m : Mods) (d a : BitVec 7) (s : State) : Host.Outcome State Fault Refusal :=
  float1 m false tyF32 d a (fun _ x => fAbs .fp32 x) s

/-- R208. -/
def execFaddBf16 (m : Mods) (d a b : BitVec 7) (s : State) : Host.Outcome State Fault Refusal :=
  float2 m false tyBf16 d a b (fun e x y => fAdd .bf16 e x y) s

/-- R208. -/
def execFsubBf16 (m : Mods) (d a b : BitVec 7) (s : State) : Host.Outcome State Fault Refusal :=
  float2 m false tyBf16 d a b (fun e x y => fSub .bf16 e x y) s

/-- R208. -/
def execFmulBf16 (m : Mods) (d a b : BitVec 7) (s : State) : Host.Outcome State Fault Refusal :=
  float2 m false tyBf16 d a b (fun e x y => fMul .bf16 e x y) s

/-- R208. -/
def execFmaBf16 (m : Mods) (d a b : BitVec 7) (s : State) : Host.Outcome State Fault Refusal :=
  float3 m tyBf16 d a b (fun e x y z => fFma .bf16 e x y z) s

/-- R209. -/
def execFminBf16 (m : Mods) (d a b : BitVec 7) (s : State) : Host.Outcome State Fault Refusal :=
  float2 m false tyBf16 d a b (fun e x y => fMinMax .bf16 false e.ftz x y) s

/-- R209. -/
def execFmaxBf16 (m : Mods) (d a b : BitVec 7) (s : State) : Host.Outcome State Fault Refusal :=
  float2 m false tyBf16 d a b (fun e x y => fMinMax .bf16 true e.ftz x y) s

/-- R208. -/
def execFnegBf16 (m : Mods) (d a : BitVec 7) (s : State) : Host.Outcome State Fault Refusal :=
  float1 m false tyBf16 d a (fun _ x => fNeg .bf16 x) s

/-- R208. -/
def execFabsBf16 (m : Mods) (d a : BitVec 7) (s : State) : Host.Outcome State Fault Refusal :=
  float1 m false tyBf16 d a (fun _ x => fAbs .bf16 x) s

/-- R208. -/
def execFaddF16 (m : Mods) (d a b : BitVec 7) (s : State) : Host.Outcome State Fault Refusal :=
  float2 m false tyF16 d a b (fun e x y => fAdd .fp16 e x y) s

/-- R208. -/
def execFsubF16 (m : Mods) (d a b : BitVec 7) (s : State) : Host.Outcome State Fault Refusal :=
  float2 m false tyF16 d a b (fun e x y => fSub .fp16 e x y) s

/-- R208. -/
def execFmulF16 (m : Mods) (d a b : BitVec 7) (s : State) : Host.Outcome State Fault Refusal :=
  float2 m false tyF16 d a b (fun e x y => fMul .fp16 e x y) s

/-- R208. -/
def execFmaF16 (m : Mods) (d a b : BitVec 7) (s : State) : Host.Outcome State Fault Refusal :=
  float3 m tyF16 d a b (fun e x y z => fFma .fp16 e x y z) s

/-- R209. -/
def execFminF16 (m : Mods) (d a b : BitVec 7) (s : State) : Host.Outcome State Fault Refusal :=
  float2 m false tyF16 d a b (fun e x y => fMinMax .fp16 false e.ftz x y) s

/-- R209. -/
def execFmaxF16 (m : Mods) (d a b : BitVec 7) (s : State) : Host.Outcome State Fault Refusal :=
  float2 m false tyF16 d a b (fun e x y => fMinMax .fp16 true e.ftz x y) s

/-- R208. -/
def execFnegF16 (m : Mods) (d a : BitVec 7) (s : State) : Host.Outcome State Fault Refusal :=
  float1 m false tyF16 d a (fun _ x => fNeg .fp16 x) s

/-- R208. -/
def execFabsF16 (m : Mods) (d a : BitVec 7) (s : State) : Host.Outcome State Fault Refusal :=
  float1 m false tyF16 d a (fun _ x => fAbs .fp16 x) s

/-! ## Comparison and classes (R210, R211, R221) -/

/-- R210. -/
def execFcmpF64 (m : Mods) (f d : BitVec 3) (a b : BitVec 7) (s : State) : Host.Outcome State Fault Refusal :=
  floatCmp m tyF64 f d a b s

/-- R210. -/
def execFcmpF32 (m : Mods) (f d : BitVec 3) (a b : BitVec 7) (s : State) : Host.Outcome State Fault Refusal :=
  floatCmp m tyF32 f d a b s

/-- R210. -/
def execFcmpBf16 (m : Mods) (f d : BitVec 3) (a b : BitVec 7) (s : State) : Host.Outcome State Fault Refusal :=
  floatCmp m tyBf16 f d a b s

/-- R210. -/
def execFcmpF16 (m : Mods) (f d : BitVec 3) (a b : BitVec 7) (s : State) : Host.Outcome State Fault Refusal :=
  floatCmp m tyF16 f d a b s

/-- The class masks of a lane's elements (R211). -/
def classWord (sel : Nat) (v : Nat) : Nat :=
  match sel with
  | 0 => fClass .fp64 v
  | 1 => fClass .fp32 v
  | 2 => fClass .bf16 (elem 16 0 v) + 2 ^ 16 * fClass .bf16 (elem 16 1 v)
  | _ => fClass .fp16 (elem 16 0 v) + 2 ^ 16 * fClass .fp16 (elem 16 1 v)

/-- R211. -/
def execFclass (m : Mods) (f : BitVec 3) (d a : BitVec 7) (s : State) : Host.Outcome State Fault Refusal :=
  coded m true (fun fr s => s.laneOp fr [] [.v a.toNat (if f = 0 then 2 else 1)] (.v d.toNat 1) false fun l _ vs =>
    .ok (fr.put l (.v d.toNat 1) (classWord f.toNat (val vs 0)))) s

/-- Whether an element `w` bits wide counts as zero (R56, R221). -/
def elemZero (sgn : Bool) (w e : Nat) : Bool := if sgn then e % 2 ^ (w - 1) == 0 else e == 0

/-- The mask word of R221 for `n` elements. -/
def nzWord (sgn : Bool) (w n v : Nat) : Nat :=
  let hot := (List.range n).filter fun i => !elemZero sgn w (elem w i v)
  hot.length * 2 ^ 16 + maskOf hot

/-- R221: w4, w8, w16, w32, w64. -/
def execVnzmask (m : Mods) (f : BitVec 3) (d a : BitVec 7) (s : State) : Host.Outcome State Fault Refusal :=
  coded m true (fun fr s =>
    let w := 4 * 2 ^ f.toNat
    let regs := if w = 64 then 2 else 1
    let sgn := (s.fmtReg fr.a fr.p.fmt.toNat).getLsbD 13
    s.laneOp fr [] [.v a.toNat regs] (.v d.toNat 1) false fun l _ vs =>
      .ok (fr.put l (.v d.toNat 1) (nzWord sgn w (32 * regs / w) (val vs 0)))) s

/-! ## Division, roots and special functions (R212 to R214) -/

/-- R212. -/
def execFdivF64 (m : Mods) (d a b : BitVec 7) (s : State) : Host.Outcome State Fault Refusal :=
  float2 m true tyF64 d a b (fun e x y => fDiv .fp64 e x y) s

/-- R212. -/
def execFsqrtF64 (m : Mods) (d a : BitVec 7) (s : State) : Host.Outcome State Fault Refusal :=
  float1 m true tyF64 d a (fun e x => fSqrt .fp64 e x) s

/-- R212. -/
def execFrcpF64 (m : Mods) (d a : BitVec 7) (s : State) : Host.Outcome State Fault Refusal :=
  float1 m true tyF64 d a (fun e x => fRcp .fp64 e x) s

/-- R212. -/
def execFrsqF64 (m : Mods) (d a : BitVec 7) (s : State) : Host.Outcome State Fault Refusal :=
  float1 m true tyF64 d a (fun e x => fRsq .fp64 e x) s

/-- R212. -/
def execFdivF32 (m : Mods) (d a b : BitVec 7) (s : State) : Host.Outcome State Fault Refusal :=
  float2 m true tyF32 d a b (fun e x y => fDiv .fp32 e x y) s

/-- R212. -/
def execFsqrtF32 (m : Mods) (d a : BitVec 7) (s : State) : Host.Outcome State Fault Refusal :=
  float1 m true tyF32 d a (fun e x => fSqrt .fp32 e x) s

/-- R212. -/
def execFrcpF32 (m : Mods) (d a : BitVec 7) (s : State) : Host.Outcome State Fault Refusal :=
  float1 m true tyF32 d a (fun e x => fRcp .fp32 e x) s

/-- R212. -/
def execFrsqF32 (m : Mods) (d a : BitVec 7) (s : State) : Host.Outcome State Fault Refusal :=
  float1 m true tyF32 d a (fun e x => fRsq .fp32 e x) s

/-- R213. -/
def execFex2F32 (m : Mods) (d a : BitVec 7) (s : State) : Host.Outcome State Fault Refusal :=
  float1 m true tyF32 d a (fun e x => special32 exp2Cr e x) s

/-- R213. -/
def execFlg2F32 (m : Mods) (d a : BitVec 7) (s : State) : Host.Outcome State Fault Refusal :=
  float1 m true tyF32 d a (fun e x => special32 log2Cr e x) s

/-- R213. -/
def execFsinF32 (m : Mods) (d a : BitVec 7) (s : State) : Host.Outcome State Fault Refusal :=
  float1 m true tyF32 d a (fun e x => special32 sinCr e x) s

/-- R213. -/
def execFcosF32 (m : Mods) (d a : BitVec 7) (s : State) : Host.Outcome State Fault Refusal :=
  float1 m true tyF32 d a (fun e x => special32 cosCr e x) s

/-- R213. -/
def execFerfF32 (m : Mods) (d a : BitVec 7) (s : State) : Host.Outcome State Fault Refusal :=
  float1 m true tyF32 d a (fun e x => special32 erfCr e x) s

/-! ## Conversion (R215, R216) -/

/-- A conversion type by its code (R105): an integer, an IEEE format, or an NF element width. -/
inductive CvtTy where
  | int (t : Nat)
  | ieee (f : IFmt)
  | nf (w : Nat)

def cvtTy (code : Nat) : CvtTy :=
  match code with
  | 10 => .ieee .fp64
  | 11 => .ieee .fp32
  | 12 => .ieee .bf16
  | 13 => .ieee .fp16
  | 14 => .nf 8
  | 15 => .nf 4
  | t => .int t

def CvtTy.width : CvtTy → Nat
  | .int t => intTypeWidth t
  | .ieee f => f.width
  | .nf w => w

/-- Convert one element (R216): `fs` and `fd` are the formats an NF source and destination use. -/
def cvtElem (e : FEnv) (toZero : Bool) (fs fd : NfFmt) (dst src : CvtTy) (x : Nat) : Nat :=
  match src, dst with
  | .ieee g, .ieee h => h.result e.rm e.ftz (g.source e.ftz x)
  | .int t, .ieee h => h.encode e.rm (.ofInt (intTypeRead t x))
  | .ieee g, .int t => wrap (intTypeWidth t) ((g.decode x).toInt e.rm (intTypeRange t).1 (intTypeRange t).2)
  | .nf _, .ieee h => h.encode e.rm (fs.decode x)
  | .ieee g, .nf _ => fd.encode toZero (g.decode x)
  | .nf _, .nf _ => fd.encode toZero (fs.decode x)
  | .int _, .int _ => x
  | .int _, .nf _ => x
  | .nf _, .int _ => x

/-- The format registers a conversion uses, in the order they are checked: register number and width (R216). -/
def cvtFormats (fmt : Nat) (dst src : CvtTy) : List (Nat × Nat) :=
  match src, dst with
  | .nf w, .nf v => [(fmt, w), ((fmt + 1) % 8, v)]
  | .nf w, _ => [(fmt, w)]
  | _, .nf v => [(fmt, v)]
  | _, _ => []

/-- FORMAT_INVALID for the first register not valid for its width (R48), or the instruction's effect. -/
def State.withFormats (s : State) (f : Frame) (reads writes : List Opnd) (uses : List (Nat × Nat)) (k : State → State) : State :=
  s.guarded f reads writes fun s =>
    match uses.find? fun (n, w) => !(s.nf f n).validFor w with
    | some (n, _) => s.whole f (.at_ causeFormat n 0) f.active
    | none => k s

/-- R215, R216. -/
def execFcvt (m : Mods) (d a : BitVec 7) (t u : BitVec 5) (s : State) : Host.Outcome State Fault Refusal :=
  coded m true (fun f s =>
    let dst := cvtTy t.toNat
    let src := cvtTy u.toNat
    let k := max 1 (32 / max src.width dst.width)
    let so := Opnd.v a.toNat (typeRegs u.toNat)
    let do_ := Opnd.v d.toNat (typeRegs t.toNat)
    let uses := cvtFormats f.p.fmt.toNat dst src
    s.withFormats f [so] [do_] uses fun s =>
      let fs := s.nf f (uses.headD (0, 0)).1
      let fd := s.nf f (uses.getLastD (0, 0)).1
      s.laneOp f [] [so] do_ false fun l _ vs =>
        .ok (f.put l do_ (packElems dst.width ((List.range k).map fun i =>
          cvtElem f.fenv f.nfToZero fs fd dst src (elem src.width i (val vs 0)))))) s

/-! ## Scaled packing (R217 to R220) -/

/-- The lane whose word scales a lane (R217). -/
def scaleLane (l : Nat) : Nat := l / 8 * 8

/-- The scale of a lane: byte SEL of the scale lane's word (R53, R217). -/
def Frame.scaleByte (f : Frame) (b l : Nat) : Nat := bits ((f.value (scaleLane l) (.v b 1)).getD 0) (8 * f.p.sel.toNat) 8

/-- The faults, and the writes, of what lanes answered. -/
def laneFaults : List (Nat × Except Cause (List RegWrite)) → List (Nat × Cause)
  | [] => []
  | (l, .error c) :: rest => (l, c) :: laneFaults rest
  | (_, .ok _) :: rest => laneFaults rest
def laneWrites : List (Nat × Except Cause (List RegWrite)) → List RegWrite
  | [] => []
  | (_, .error _) :: rest => laneWrites rest
  | (_, .ok ws) :: rest => ws ++ laneWrites rest

/-- One lane of a scaled instruction: its first source, its block's scale word and its further sources are checked, in the order a, b, c
(R217; log entry 15). -/
def Frame.scaledLane (f : Frame) (own : List Opnd) (b : Nat) (g : Nat → List Nat → List RegWrite) (l : Nat) :
    Except Cause (List RegWrite) :=
  match firstBad (((own.take 1).flatMap (f.words l) ++ f.words (scaleLane l) (.v b 1) ++ (own.drop 1).flatMap (f.words l)).map (·.2)) with
  | some w => .error (.lcc 0 w)
  | none => .ok (g l (own.map fun o => (f.value l o).getD 0))

/-- An instruction whose lanes also depend on their block's scale word (R217). Each lane's own sources and its scale word are
checked; each word is counted once for the issue. -/
def State.scaledOp (s : State) (f : Frame) (own : List Opnd) (b : Nat) (d : Opnd) (g : Nat → List Nat → List RegWrite) : State :=
  let reads := f.lanes.flatMap fun l =>
    (own.flatMap (f.words l)).map (fun x => ((l, x.1), x.2)) ++ ((f.words (scaleLane l) (.v b 1)).map fun x => ((scaleLane l, x.1), x.2))
  let once := reads.foldl (fun (acc : List ((Nat × RegName × Nat) × CW)) x => if acc.any (·.1 == x.1) then acc else acc ++ [x]) []
  let (c, u) := tally (once.map (·.2))
  let s' := s.charge (.core f.pl.core) c u 0
  let out := f.lanes.map fun l => (l, f.scaledLane own b g l)
  s.retire (s'.results f false (laneWrites out ++ f.zeroes d)) f ⟨laneFaults out, [], none⟩

/-- The element width of the NF side, by the low bit of fn. -/
def nfWidth (f : BitVec 3) : Nat := if f.getLsbD 0 then 4 else 8

/-- One `fpack` of a lane: the fourth operand shifted right, the new elements at the top (R218, R54). -/
def packWord (wide : Bool) (wd : Nat) (nf : NfFmt) (toZero : Bool) (scale a c : Nat) : Nat :=
  let n := if wide then 2 else 1
  let src : IFmt := if wide then .bf16 else .fp32
  let es := (List.range n).map fun i => nf.encode toZero (.div (src.decode (elem src.width i a)) (scaleValue scale))
  (c / 2 ^ (n * wd)) + packElems wd es * 2 ^ (32 - n * wd)

/-- R218. -/
def execFpack (m : Mods) (f : BitVec 3) (d a b : BitVec 7) (s : State) : Host.Outcome State Fault Refusal :=
  coded m true (fun fr s =>
    let own := [Opnd.v a.toNat 1, .v (fr.c d.toNat) 1]
    let n := fr.p.fmt.toNat
    s.withFormats fr [.v a.toNat 1, .v b.toNat 1, .v (fr.c d.toNat) 1] [.v d.toNat 1] [(n, nfWidth f)] fun s =>
      let nf := s.nf fr n
      s.scaledOp fr own b.toNat (.v d.toNat 1) fun l vs =>
        fr.put l (.v d.toNat 1)
          (packWord (f.getLsbD 1) (nfWidth f) nf fr.nfToZero (fr.scaleByte b.toNat l) (val vs 0) (val vs 1))) s

/-- One `funpk` of a lane: the lowest elements times the scale, rounded once (R219, R54). -/
def unpackWord (wide : Bool) (wd : Nat) (nf : NfFmt) (rm : RMode) (scale a : Nat) : Nat :=
  let dst : IFmt := if wide then .bf16 else .fp32
  packElems dst.width ((List.range (if wide then 2 else 1)).map fun i =>
    dst.encode rm (.mul (nf.decode (elem wd i a)) (scaleValue scale)))

/-- R219. -/
def execFunpk (m : Mods) (f : BitVec 3) (d a b : BitVec 7) (s : State) : Host.Outcome State Fault Refusal :=
  coded m true (fun fr s =>
    let own := [Opnd.v a.toNat 1]
    let n := fr.p.fmt.toNat
    s.withFormats fr (own ++ [.v b.toNat 1]) [.v d.toNat 1] [(n, nfWidth f)] fun s =>
      let nf := s.nf fr n
      s.scaledOp fr own b.toNat (.v d.toNat 1) fun l vs =>
        fr.put l (.v d.toNat 1) (unpackWord (f.getLsbD 1) (nfWidth f) nf fr.mode (fr.scaleByte b.toNat l) (val vs 0))) s

/-- The greatest of magnitudes. -/
def maxMag : List FVal → FVal
  | [] => .zero false
  | x :: xs => let r := maxMag xs; if r.lt x.abs then x.abs else r

/-- The scale byte that fits a block's values into a format (R220, R52). -/
def blockScale (nf : NfFmt) (vs : List Nat) : Nat :=
  let xs := vs.map fun v => IFmt.fp32.decode v
  if xs.any FVal.isNaN then 0xFF
  else
    let m := maxMag xs
    if m.isZero then 0x7C else leastScale (.div m (nf.finValue false nf.maxBits)) 254 1

/-- The active lanes of a block whose vA word is uncorrectable, with the word (R220). -/
def Frame.blockBad (f : Frame) (a blk : Nat) : List (Nat × CW) :=
  (f.lanes.filter fun l => scaleLane l == blk).filterMap fun l =>
    (firstBad ((f.words l (.v a 1)).map (·.2))).map fun w => (l, w)

/-- One lane of `fscale` (R220). -/
def Frame.fscaleLane (fr : Frame) (nf : NfFmt) (d a b l : Nat) : Except Cause (List RegWrite) :=
  let blk := scaleLane l
  let bad := fr.blockBad a blk
  let fault := match (bad.find? fun (k, _) => k == l).map (·.2) with
    | some w => some w
    | none => if l = blk ∧ !bad.isEmpty then bad.head?.map (·.2)
      else firstBad ((fr.words blk (.v b 1) ++ fr.words l (.v b 1)).map (·.2))
  match fault with
  | some w => .error (.lcc 0 w)
  | none =>
    let vb := (fr.value l (.v b 1)).getD 0
    let byte := blockScale nf ((fr.lanes.filter fun k => scaleLane k == blk).map fun k => (fr.value k (.v a 1)).getD 0)
    let sh := 8 * fr.p.sel.toNat
    .ok (fr.put l (.v d 1) (if l = blk then vb - bits vb sh 8 * 2 ^ sh + byte * 2 ^ sh else vb))

/-- R220: a lane copies vB; lane 8b takes its block's byte, and its fault where an active vA word of the block is uncorrectable. -/
def execFscale (m : Mods) (f : BitVec 3) (d a b : BitVec 7) (s : State) : Host.Outcome State Fault Refusal :=
  coded m true (fun fr s =>
    let n := fr.p.fmt.toNat
    let own := [Opnd.v a.toNat 1, .v b.toNat 1]
    s.withFormats fr own [.v d.toNat 1] [(n, nfWidth f)] fun s0 =>
      let nf := s0.nf fr n
      let reads := fr.lanes.flatMap fun l => dedupWords [] (own.flatMap (fr.words l))
      let extra := (fr.lanes.map scaleLane).dedup.filter (fun k => !fr.lanes.contains k)
      let (c, u) := tally (reads ++ extra.flatMap fun k => (fr.words k (.v b.toNat 1)).map (·.2))
      let s := s0
      let s' := s.charge (.core fr.pl.core) c u 0
      let out := fr.lanes.map fun l => (l, fr.fscaleLane nf d.toNat a.toNat b.toNat l)
      s.retire (s'.results fr false (laneWrites out ++ fr.zeroes (.v d.toNat 1))) fr ⟨laneFaults out, [], none⟩) s

end Sys2Proof.Machine
end

