-- ==== Sys2Proof/Machine/Memory.lean ====
section
/-!
DEFINITION. Sys2Proof/Machine/Memory.lean: the loads, stores, atomics, fences and cache instructions of threads and sections (spec R301
to R329), over the caches and home points of Home.lean and the release and acquire steps of Order.lean.
-/

namespace Sys2Proof.Machine

/-! ## One access (R302) -/

/-- How an access stands to others: whether it is atomic or synchronising (never checked for races, R294), and whether it is performed
at the home point (R281). -/
structure Mode where
  sync : Bool
  home : Bool
deriving DecidableEq, Repr

def Mode.plain : Mode := ⟨false, false⟩
def Mode.relaxed : Mode := ⟨true, false⟩

/-- The page request that already covers an address, among those of the lanes before (R261: each page is translated once). -/
def knownFault (ctx va : Nat) (parks : List (Nat × ParkReq)) : Option (Span × Nat) :=
  parks.findSome? fun (_, r) => match r with
    | .page sps _ _ => sps.find? fun (sp, _) => sp.ctx == ctx && sp.base == spanBase sp.level va
    | _ => none

/-- Whether a beam's accesses take effect at their home points before its later ones (R453). -/
def Frame.ordered (f : Frame) : Bool := f.b.ord && !f.lantern

/-- What an access to a module that does not answer comes to: a thread's lane parks, and a section waits where it is; once it has waited long
enough it takes ACCESS_VIOLATION, and its write may have been performed (R485). -/
def State.unanswered (s : State) (f : Frame) (va loc e bits : Nat) : LaneOut × State :=
  let park := LaneOut.park (.other (.answer [(0, va, loc)] e bits (moduleOf loc) (s.clockAt f.pl.core)))
  if f.lantern then
    match s.waited (.lantern (f.pl.core - 288)) f.pl.core loc with
    | (true, s) => (.fault (.at_ causeAccess (bits + 8) va), if bits % 2 = 1 then s.doubt loc (wordsIn e) else s)
    | (false, s) => (park, s)
  else (park, s)

/-- Steps 2 and 3 of R302: alignment, then translation. -/
def State.spot (s : State) (f : Frame) (parks : List (Nat × ParkReq)) (acc : Access) (e va : Nat) : Except LaneOut Page × State :=
  if va % e ≠ 0 then (.error (.fault (.at_ causeAlign 0 va)), s)
  else match knownFault f.pl.ctx va parks with
    | some (sp, reason) => (.error (.park (.page [(sp, reason)] va acc.bits)), s)
    | none => match s.reach f.pl.core f.pl.ctx va acc with
      | (.page p, s) =>
        (.ok { p with now := f.ordered, unit := if e = 8 ∨ e = 16 then 8 else 4 },
          if p.rd then s.drainChecked (wordLoc p.loc) (wordsIn e) else s)
      | (.deny bits, s) => (.error (.fault (.at_ causeAccess bits va)), s)
      | (.silent loc bits, s) => let (o, s) := s.unanswered f va loc e bits; (.error o, s)
      | (.fault reason level, s) => (.error (.park (.page [(⟨f.pl.ctx, spanBase level va, level⟩, reason)] va acc.bits)), s)

/-- Step 4 of R302, for an access to `n` words (R294, R298). -/
def State.raced (s : State) (f : Frame) (m : Mode) (p : Page) (n : Nat) : Bool :=
  p.rd && !m.sync && !f.lantern && (List.range n).any fun i => s.races f.pl.wg (wordLoc p.loc + 4 * i)

/-! ## Reads ahead of their turn (R278, R281) -/

/-- Glances of a lane that its access at a location makes too old (R272). -/
def State.spend (s : State) (f : Frame) (l loc : Nat) : State :=
  if ((s.beam? f.a).map fun b => (b.lane l).early.isEmpty).getD true then s
  else s.modBeam f.a fun b => b.modLane l fun x => { x with early := Glance.apart x.early loc }

/-- A read of a block by a lane's thread takes effect now, though its turn has not come; not while the core has writes of its own to the
block under way (R272, R278). -/
def State.glance (s : State) (a : Agent) (l loc : Nat) (wide : Bool) : State :=
  let size := if wide then 16 else 8
  let base := loc - loc % size
  let k := s.core (s.place a).core
  let held := match smGet? k.lines (base / 64) with
    | some x => !x.dirty.isEmpty
    | none => false
  let silent := isSystem base && s.resolve base == base && (decide (s.mod.domain ≤ moduleOf base) || s.mod.silent.contains (moduleOf base))
  if held || silent || k.flights.any fun f => f.loc / 16 == base / 16 then s
  else s.modBeam a fun b =>
    if b.frontier.any fun e => e.kind == .runnable && e.lanes.testBit l then
      let at_ := (List.range (size / 4)).map fun i => base + 4 * i
      b.modLane l fun x => { x with early := Glance.apart x.early base ++ [⟨base, at_.map s.homeWord, at_.map s.stampsAt⟩] }
    else b

/-- A line comes into the core's cache ahead of a read that a thread may make, with the rights and attributes of its page, which a TLB
holds (R249 to R251, R281); not while the core has writes of its own to the line under way. -/
def State.takeEarly (s : State) (a : Agent) (va : Nat) : State :=
  let pl := s.place a
  let known := ((s.core pl.core).tlb ++ (s.die pl.die).tlb).any fun t => t.covers pl.ctx (va % 2 ^ 72)
  match s.reach pl.core pl.ctx va .load with
  | (.page p, s') =>
    if known && p.cached && !((s.core pl.core).flights.any fun f => f.loc / 64 == p.loc / 64) then
      s'.fetchLine pl.core (p.loc / 64) p.evp .early
    else s
  | _ => s

/-- After a synchronising instruction no thread of its path uses a read from before it (R278). -/
def State.forgetEarly (s : State) (a : Agent) (lanes : Nat) : State :=
  match s.beam? a with
  | none => s
  | some b =>
    if (b.lanes.all fun x => x.early.isEmpty) then s
    else s.setBeam a { b with lanes := b.lanes.mapIdx fun l x => if lanes.testBit l then x.forget else x }

/-! ## Reads -/

/-- Whether an access goes to the home point: it must, or no cache holds its page (R281). -/
def Page.atHome (p : Page) (m : Mode) : Bool := m.home || !p.cached

/-- The words at a home point as a lane's thread reads them: those of a read that took effect ahead of its turn, or the present ones. -/
def State.readHome (s : State) (f : Frame) (p : Page) (l loc n : Nat) : List CW × List Stamp × State :=
  let seen := if p.now then none else ((s.beam? f.a).bind fun b => Glance.find (b.lane l).early loc n)
  match seen with
  | some (ws, sts) => (ws, sts, s.passCache f.pl.core loc)
  | none =>
    let s := ((s.spend f l loc).passCache f.pl.core loc).sliceRead loc p.alloc
    let at_ := (List.range n).map fun i => loc + 4 * i
    (at_.map s.homeWord, at_.flatMap s.stampsAt, s)

/-- The words of one single-copy atomic part of a read, with the stamps they carry (R271, R281, R297). -/
def State.readPart (s : State) (f : Frame) (m : Mode) (p : Page) (l loc : Nat) : Nat → List CW × List Stamp × State
  | 0 => ([], [], s)
  | n + 1 =>
    if p.atHome m then s.readHome f p l loc (n + 1)
    else
      let (w, s) := (s.spend f l loc).readWord f.pl.core f.pl.ctx p loc
      let st := match smGet? (s.core f.pl.core).lines (loc / 64) with
        | some x => (smGet? x.stamps (loc % 64 / 4)).getD []
        | none => []
      let (ws, sts, s) := s.readPart f m p l (loc + 4) n
      (w :: ws, st ++ sts, s)

/-- The words of an access, part by part: each aligned 8 bytes, or 16 bytes of an `ld.a72`, as one (R271). -/
def State.readParts (s : State) (f : Frame) (m : Mode) (p : Page) (l loc : Nat) : List Nat → List CW × List Stamp × State
  | [] => ([], [], s)
  | n :: ns =>
    let (ws, st, s) := s.readPart f m p l loc n
    let (ws', st', s) := s.readParts f m p l (loc + 4 * n) ns
    (ws ++ ws', st ++ st', s)

/-- Words of each part of an access of `n` words: single words, or parts of the page's unit. -/
def Page.parts (p : Page) (n : Nat) : List Nat := List.replicate (n / (p.unit / 4)) (p.unit / 4)

/-- Read the `n` words of an access, with the stamps they carry (R271, R281, R297). -/
def State.readMany (s : State) (f : Frame) (m : Mode) (p : Page) (l loc n : Nat) : List CW × List Stamp × State :=
  s.readParts f m p l loc (p.parts n)

/-- A thread remembers a relaxed or atomic read, up to five (R297). -/
def State.noteRead (s : State) (f : Frame) (l loc : Nat) (sts : List Stamp) : State :=
  s.modBeam f.a fun b => b.modLane l fun x => { x with reads := (x.reads ++ [(loc, sts)]).take 5 }

/-- The bytes a narrow access selects from its word. -/
def narrowBits (d : Word) (va e : Nat) : Nat := bits d.toNat (8 * (va % 4)) (8 * e)

/-- A lane's load into V registers from `d`: narrow widths are checked and extended, whole words carried (R304, R308); and the stamps that
it read. -/
def State.loadStamps (s : State) (f : Frame) (m : Mode) (d e l va : Nat) (p : Page) : LaneOut × List Stamp × State :=
  if s.raced f m p (wordsIn e) then (.fault (.at_ causeRace 0 va), [], s)
  else
    let (ws, sts, s) := s.readMany f m p l (wordLoc p.loc) (wordsIn e)
    if e < 4 then
      let w := ws.headD .zero
      let (c, u) := tally [w]
      let s := s.charge (.core f.pl.core) c u 0
      match (lccCheck w).data? with
      | some x => (.done (f.put l (.v d 1) (narrowBits x va e)), sts, s)
      | none => (.fault (.lcc va w), sts, s)
    else (.done (f.putWords l d ws), sts, s)

/-- A plain or relaxed load of a lane (R307). -/
def State.loadLane (s : State) (f : Frame) (m : Mode) (d e l va : Nat) (p : Page) : LaneOut × State :=
  let (out, sts, s) := s.loadStamps f m d e l va p
  (out, if m.sync then s.noteRead f l (wordLoc p.loc) sts else s)

/-! ## Writes -/

/-- A store, an atomic or an `stf` starts the pause-loop count afresh (R473). -/
def State.endPause (s : State) (f : Frame) : State := s.modBeam f.a Beam.endPause

/-- The stamps of a lane's release fences, which its later atomic writes carry (R297). -/
def Frame.fences (f : Frame) (l : Nat) : List Stamp := (f.b.lane l).fences

/-- A write by a lane's thread, before its tag and stamps. -/
def Frame.flight (f : Frame) (p : Page) (l loc : Nat) (w : CW) : Flight :=
  { deviceWrite loc w with
    launches := [f.pl.launch], wgs := [f.pl.wg], thread := (f.b.lane l).thread, size := p.unit, alloc := p.writeAlloc }

/-- Write words at a location for a lane's thread, through the cache or at home, noting the line for the next release (R286); the
stamps are a releasing write's own and, for an atomic write, those of the thread's release fences (R297). -/
def State.storeWords (s : State) (f : Frame) (m : Mode) (p : Page) (l loc : Nat) (sts : List Stamp) : List CW → State
  | [] => s
  | w :: ws =>
    let fence := if m.sync then f.fences l else []
    let tag := if m.sync || f.lantern then some none else if p.rd then s.tagOf f.pl.wg else none
    let x : Flight := { f.flight p l loc w with tag := tag, stamps := sts ++ fence }
    let s := (s.spend f l loc).writeWord f.pl.core f.pl.ctx (if m.home then { p with cl := max p.cl 1 } else p) x
    (s.noteWritten f.pl p loc).storeWords f m p l (loc + 4) sts ws

/-- The word that a narrow store leaves: its bytes replaced in the checked word (R264). -/
def mergeWord (old : Word) (va e v : Nat) : Word :=
  let sh := 8 * (va % 4)
  .ofNat 32 (old.toNat - bits old.toNat sh (8 * e) * 2 ^ sh + v % 2 ^ (8 * e) * 2 ^ sh)

/-- A narrow store: the containing word is read as a plain load, checked, merged and written whole (R264). -/
def State.mergeStore (s : State) (f : Frame) (p : Page) (l va e v : Nat) : LaneOut × State :=
  let loc := wordLoc p.loc
  let (w, s) := s.readWord f.pl.core f.pl.ctx p loc
  let (c, u) := tally [w]
  let s := s.charge (.core f.pl.core) c u 0
  match (lccCheck w).data? with
  | none => (.fault (.lcc va w), s)
  | some d => (.done [], (s.storeWords f .plain p l loc [] [CW.make (mergeWord d va e v)]).endPause f)

/-- A lane's store of V registers from `d` (R304, R308); a narrow store's register that `lane` names too has been read and counted (R267). -/
def State.storeLane (s : State) (f : Frame) (m : Mode) (sts : List Stamp) (lane : List Opnd) (d e l va : Nat) (p : Page) :
    LaneOut × State :=
  if s.raced f m p (wordsIn e) then (.fault (.at_ causeRace 0 va), s)
  else if e < 4 then
    let got := f.get l [.v d 1]
    let s := if lane.contains (.v d 1) then s else s.charge (.core f.pl.core) got.corr got.unc 0
    match got.vals with
    | .error w => (.fault (.lcc 0 w), s)
    | .ok vs => s.mergeStore f p l va e (val vs 0)
  else
    let ws := (List.range (wordsIn e)).map fun i => f.b.vreg l (f.b.wb + d + i)
    (.done [], (s.storeWords f m p l (wordLoc p.loc) sts ws).endPause f)

/-! ## Release and acquire steps of an issue (R286, R289, R296) -/

/-- A read-modify-write continues the release sequence of what it reads: the old stamps stay, and new ones join them (R274). -/
def joinStamps (old new : List Stamp) : List Stamp := old ++ new.filter fun st => !old.contains st

/-- The flights of the threads of the active lanes. -/
def Frame.mine (f : Frame) (x : Flight) : Bool := f.lanes.any fun l => flightOf f.pl.wg (f.b.lane l).thread x

/-- The flights of every thread of the path. -/
def Frame.pathMine (f : Frame) (x : Flight) : Bool := (lanesOf f.i.lanes f.b.count).any fun l => flightOf f.pl.wg (f.b.lane l).thread x

/-- The release steps, once for the issue, with the stamps its releasing writes carry; the region advances. -/
def State.releaseStep (s : State) (f : Frame) (sc : Scope) : List Stamp × State :=
  let (st, s) := s.release f.pl sc f.mine
  (if sc.wide then [st] else [], s.advanceRegion f.pl sc)

/-- The acquire steps, once for the issue; the region advances. -/
def State.acquireStep (s : State) (f : Frame) (sc : Scope) : State := (s.acquire f.pl sc).advanceRegion f.pl sc

/-- A thread's acquire starts its remembered reads afresh (R297). -/
def State.forgetReads (s : State) (f : Frame) (l : Nat) : State := s.modBeam f.a fun b => b.modLane l fun x => { x with reads := [] }

/-- A lane's access that acquires takes the stamps of the words it has read (R274, R297). -/
def State.acquireRead (s : State) (f : Frame) (sc : Scope) (l loc : Nat) (sts : List Stamp) : State :=
  if sc.wide then (s.takeStamps f.pl sc loc sts).forgetReads f l else s

/-! ## Instructions whose lanes access memory -/

/-- What surrounds the lanes' accesses of an issue: a release before them, whose stamps they carry, and an acquire after them. -/
structure Around where
  rel : Option Scope
  acq : Option Scope

def Around.nothing : Around := ⟨none, none⟩

/-- Run each active lane in ascending order: its sources, its address, steps 2 and 3, then `go` (R302, R306). -/
def Frame.eachMem (f : Frame) (os : List Opnd) (acc : Access) (e : Nat) (addr : Nat → List Nat → Except Cause Nat)
    (go : State → Nat → Nat → Page → LaneOut × State) : List Nat → StateDone → StateDone
  | [], r => r
  | l :: ls, r =>
    let got := f.get l os
    let s := r.s.charge (.core f.pl.core) got.corr got.unc 0
    let (out, s) : LaneOut × State := match got.vals with
      | .error w => (.fault (.lcc 0 w), s)
      | .ok vs => match addr l vs with
        | .error c => (.fault c, s)
        | .ok va => match s.spot f r.parks acc e va with
          | (.error o, s) => (o, s)
          | (.ok p, s) => go s l va p
    f.eachMem os acc e addr go ls (match out with
      | .done ws => { r with s := s, writes := r.writes ++ ws }
      | .fault c => { r with s := s, faults := r.faults ++ [(l, c)] }
      | .park q => { r with s := s, parks := r.parks ++ [(l, q)] })

/-- A memory instruction with an access per active lane: per-beam sources once, then the lanes, then the results and the retirement. -/
def State.memOp (s : State) (f : Frame) (beamSrc laneSrc extra : List Opnd) (dst : Option Opnd) (acc : Access) (e : Nat) (ar : Around)
    (addr : List Nat → Nat → List Nat → Except Cause Nat) (go : List Stamp → State → Nat → Nat → Page → LaneOut × State) : State :=
  s.guarded f (beamSrc ++ laneSrc ++ extra) dst.toList fun s =>
    let once := f.get f.elected beamSrc
    let s' := s.charge (.core f.pl.core) once.corr once.unc 0
    match once.vals with
    | .error w => s'.allLanes f (.lcc 0 w)
    | .ok bs =>
      let (sts, s') := match ar.rel with
        | some sc => s'.releaseStep f sc
        | none => ([], s')
      let r := f.eachMem laneSrc acc e (addr bs) (go sts) f.lanes ⟨s', [], [], []⟩
      let s' := match ar.acq with
        | some sc => if r.faults.length + r.parks.length < f.lanes.length then r.s.acquireStep f sc else r.s
        | none => r.s
      let zs := match dst with
        | some o => f.zeroes o
        | none => []
      s.retire (s'.results f true (r.writes ++ zs)) f ⟨r.faults, r.parks, none⟩

/-- A memory instruction with one access for the issue: its outcome holds every active lane alike (R302). -/
def State.memOnce (s : State) (f : Frame) (src extra : List Opnd) (acc : Access) (e : Nat) (addr : List Nat → Nat)
    (go : State → Nat → Page → LaneOut × State) : State :=
  s.guarded f src extra fun s =>
    let once := f.get f.elected src
    let s' := s.charge (.core f.pl.core) once.corr once.unc 0
    match once.vals with
    | .error w => s'.allLanes f (.lcc 0 w)
    | .ok vs =>
      let va := addr vs
      let (out, s') : LaneOut × State := match s'.spot f [] acc e va with
        | (.error o, s') => (o, s')
        | (.ok p, s') => go s' va p
      match out with
      | .done ws => s.retire (s'.results f true ws) f .none
      | .fault c => s'.allLanes f c
      | .park q => s.retire s' f ⟨[], f.lanes.map fun l => (l, q), none⟩

/-! ## Addresses (R301) -/

/-- A base plus a signed number of units, modulo 2^72. -/
def addUnits (base : Nat) (e : Nat) (n : Int) : Nat := wrap 72 ((base : Int) + e * n)

/-- Strided: the base, a displacement in units of the access, and the virtual lane. -/
def stridedAddr (e : Nat) (disp : Int) (bs : List Nat) (l : Nat) (_ : List Nat) : Except Cause Nat :=
  .ok (addUnits (val bs 0) e (disp + l))

/-- Indexed: the base plus the lane's signed 32-bit offset. -/
def indexedAddr (bs : List Nat) (_ : Nat) (vs : List Nat) : Except Cause Nat := .ok (wrap 72 ((val bs 0 : Int) + signedBits 32 (val vs 0)))

/-- Bytes of a width code (R104). -/
def widthBytes (w : Nat) : Nat := 2 ^ w

/-- V registers of a width. -/
def widthRegs (w : Nat) : Nat := wordsIn (widthBytes w)

/-! ## Loads and stores (R307 to R309) -/

def loadOp (m : Mods) (mode : Mode) (w : Nat) (d : BitVec 7) (base : Nat) (lane : List Opnd)
    (addr : List Nat → Nat → List Nat → Except Cause Nat) (s : State) : Host.Outcome State Fault Refusal :=
  coded m true (fun f s =>
    s.memOp f [.s base] lane [] (some (.v d.toNat (widthRegs w))) .load (widthBytes w) .nothing addr fun _ s l va p =>
      s.loadLane f mode d.toNat (widthBytes w) l va p) s

def storeOp (m : Mods) (mode : Mode) (w : Nat) (d : BitVec 7) (base : Nat) (lane : List Opnd)
    (addr : List Nat → Nat → List Nat → Except Cause Nat) (s : State) : Host.Outcome State Fault Refusal :=
  coded m true (fun f s =>
    s.memOp f [.s base] lane [.v d.toNat (widthRegs w)] none .store (widthBytes w) .nothing addr fun sts s l va p =>
      s.storeLane f mode sts lane d.toNat (widthBytes w) l va p) s

def rlxMode (r : BitVec 1) : Mode := if r = 1 then .relaxed else .plain

/-- R307. -/
def execLd (m : Mods) (d : BitVec 7) (a : BitVec 6) (r : BitVec 1) (w : BitVec 3) (p : BitVec 6) (s : State) :
    Host.Outcome State Fault Refusal :=
  loadOp m (rlxMode r) w.toNat d a.toNat [] (stridedAddr (widthBytes w.toNat) p.toInt) s

/-- R307. -/
def execSt (m : Mods) (d : BitVec 7) (a : BitVec 6) (r : BitVec 1) (w : BitVec 3) (p : BitVec 6) (s : State) :
    Host.Outcome State Fault Refusal :=
  storeOp m (rlxMode r) w.toNat d a.toNat [] (stridedAddr (widthBytes w.toNat) p.toInt) s

/-- R307, indexed. -/
def execLdIndexed (m : Mods) (w : BitVec 3) (d : BitVec 7) (a : BitVec 6) (b : BitVec 7) (s : State) :
    Host.Outcome State Fault Refusal :=
  loadOp m .plain w.toNat d a.toNat [.v b.toNat 1] indexedAddr s

/-- R307, indexed. -/
def execStIndexed (m : Mods) (w : BitVec 3) (d : BitVec 7) (a : BitVec 6) (b : BitVec 7) (s : State) :
    Host.Outcome State Fault Refusal :=
  storeOp m .plain w.toNat d a.toNat [.v b.toNat 1] indexedAddr s

/-! ## Scratchpad (R244, R310) -/

/-- A workgroup's scratchpad and its size in bytes (R244). -/
def State.scratchOf (s : State) (w : Nat) : Mem × Nat :=
  match s.wg? w with
  | some g => (g.scratch, g.sp * 16384)
  | none => (.empty, 0)

def State.setScratch (s : State) (w : Nat) (m : Mem) : State := s.modWg w fun g => { g with scratch := m }

/-- Writes to a workgroup's scratchpad that `p` picks are performed, in order (R270). -/
def Wg.drainPool (g : Wg) (p : PoolWrite → Bool) : Wg :=
  { g with pool := g.pool.filter fun x => !p x
           scratch := (g.pool.filter p).foldl (fun m x => m.setWord x.off x.word) g.scratch }

def State.drainPool (s : State) (w : Nat) (p : PoolWrite → Bool) : State :=
  if ((s.wg? w).map fun g => g.pool.any p).getD false then s.modWg w fun g => g.drainPool p else s

/-- A path's read of a scratchpad word: its own path's writes to the word are performed first, and those of another path are seen once they
are performed (R31, R32). -/
def State.poolRead (s : State) (w path off : Nat) : CW × State :=
  let s := s.drainPool w fun x => x.path == path && x.off / 4 == off / 4
  ((s.scratchOf w).1.word off, s)

/-- Whether a COPY write to a word of a workgroup's scratchpad is under way: a MATRIX read of the word then reads stale bytes (R32). -/
def State.copyUnderWay (s : State) (w off : Nat) : Bool :=
  ((s.wg? w).map fun g => g.pool.any fun x => x.path == 1 && x.off / 4 == off / 4).getD false

/-- A path's write of a scratchpad word leaves for the pool (R31, R270). -/
def State.poolWrite (s : State) (w path off : Nat) (c : CW) : State :=
  s.modWg w fun g => { g with pool := g.pool ++ [⟨path, wordLoc off, c⟩] }

/-- One write to the scratchpad is performed, those of its path to the same word before it first (R270). -/
def State.poolPerform (s : State) (w i : Nat) : State :=
  match (s.wg? w).bind fun g => g.pool[i]? with
  | none => s
  | some x => s.modWg w fun g =>
    let run := (g.pool.take (i + 1)).filter fun y => y.path == x.path && y.off == x.off
    { g with pool := (g.pool.take (i + 1)).filter (fun y => !(y.path == x.path && y.off == x.off)) ++ g.pool.drop (i + 1)
             scratch := run.foldl (fun m y => m.setWord y.off y.word) g.scratch }

/-- Words a path reads from consecutive offsets. -/
def State.poolReads (s : State) (w path off : Nat) : Nat → List CW × State
  | 0 => ([], s)
  | n + 1 =>
    let (x, s) := s.poolRead w path off
    let (xs, s) := s.poolReads w path (off + 4) n
    (x :: xs, s)

/-- A scratchpad instruction: offsets in place of addresses; a lantern core has none (R310, R329). -/
def State.scratchOp (s : State) (f : Frame) (base e : Nat) (disp : Int) (d : Opnd) (write : Bool)
    (go : State → Nat → Nat → LaneOut × State) : State :=
  let dst := if write then none else some d
  s.stateOp f [.s base] [] [d] dst true fun s l bs _ =>
    let off := addUnits (val bs 0 % 2 ^ 64) e (disp + l)
    if off % e ≠ 0 then (.fault (.at_ causeAlign 0 off), s)
    else if f.lantern || decide ((s.scratchOf f.pl.wg).2 ≤ off) then (.fault (.at_ causeAccess (if write then 1 else 0) off), s)
    else go s l off

/-- R310. -/
def execLds (m : Mods) (d : BitVec 7) (a : BitVec 6) (w : BitVec 3) (p : BitVec 6) (s : State) : Host.Outcome State Fault Refusal :=
  let e := widthBytes w.toNat
  coded m true (fun f s =>
    s.scratchOp f a.toNat e p.toInt (.v d.toNat (widthRegs w.toNat)) false fun s l off =>
      let (ws, s) := s.poolReads f.pl.wg 0 (wordLoc off) (wordsIn e)
      if e < 4 then
        let x := ws.headD .zero
        let (c, u) := tally [x]
        let s := s.charge (.core f.pl.core) c u 0
        match (lccCheck x).data? with
        | some v => (.done (f.put l (.v d.toNat 1) (narrowBits v off e)), s)
        | none => (.fault (.lcc off x), s)
      else (.done (f.putWords l d.toNat ws), s)) s

/-- R310. -/
def execSts (m : Mods) (d : BitVec 7) (a : BitVec 6) (w : BitVec 3) (p : BitVec 6) (s : State) : Host.Outcome State Fault Refusal :=
  let e := widthBytes w.toNat
  coded m true (fun f s =>
    s.scratchOp f a.toNat e p.toInt (.v d.toNat (widthRegs w.toNat)) true fun s l off =>
      if e < 4 then
        let got := f.get l [.v d.toNat 1]
        let (old, s) := s.poolRead f.pl.wg 0 off
        match got.vals with
        | .error x => (.fault (.lcc 0 x), s.charge (.core f.pl.core) got.corr got.unc 0)
        | .ok vs =>
          let (c, u) := tally [old]
          let s := s.charge (.core f.pl.core) (got.corr + c) (got.unc + u) 0
          match (lccCheck old).data? with
          | none => (.fault (.lcc off old), s)
          | some x => (.done [], (s.poolWrite f.pl.wg 0 off (CW.make (mergeWord x off e (val vs 0)))).endPause f)
      else
        (.done [], ((List.range (wordsIn e)).foldl (fun s i =>
          s.poolWrite f.pl.wg 0 (off + 4 * i) (f.b.vreg l (f.b.wb + d.toNat + i))) s).endPause f)) s

/-! ## Scalar accesses (R311, R312) -/

/-- An s register from words that arrived with their codes; bits [71:64] follow R93 under a code made afresh (R311). -/
def sOfWords (lo hi : CW) : SReg :=
  let v := (hi.data ++ lo.data).signExtend 72
  ⟨v, lo.code, hi.code, lccMake ((v.extractLsb' 64 8).setWidth 32)⟩

/-- R311. -/
def execLdp (m : Mods) (d a : BitVec 6) (w : BitVec 3) (p : BitVec 6) (s : State) : Host.Outcome State Fault Refusal :=
  let e := widthBytes w.toNat
  coded m true (fun f s =>
    s.memOnce f [.s a.toNat] [.s d.toNat] .load e (fun vs => addUnits (val vs 0) e p.toInt) fun s va pg =>
      if s.raced f .plain pg (wordsIn e) then (.fault (.at_ causeRace 0 va), s)
      else
        let (ws, _, s) := s.readMany f .plain pg f.elected (wordLoc pg.loc) (wordsIn e)
        let lo := ws.headD .zero
        if e < 4 then
          let (c, u) := tally [lo]
          let s := s.charge (.core f.pl.core) c u 0
          match (lccCheck lo).data? with
          | some x => (.done [.s d.toNat (mkS (narrowBits x va e))], s)
          | none => (.fault (.lcc va lo), s)
        else (.done [.s d.toNat (sOfWords lo (ws.getD 1 .zero))], s)) s

/-- R311: the lanes' one store is the elected lane's. -/
def execStp (m : Mods) (d a : BitVec 6) (w : BitVec 3) (p : BitVec 6) (s : State) : Host.Outcome State Fault Refusal :=
  let e := widthBytes w.toNat
  coded m true (fun f s =>
    s.memOnce f [.s a.toNat] [.s d.toNat] .store e (fun vs => addUnits (val vs 0) e p.toInt) fun s va pg =>
      let ws := (f.b.sreg d.toNat).words
      if s.raced f .plain pg (wordsIn e) then (.fault (.at_ causeRace 0 va), s)
      else if e < 4 then
        let x := ws.headD .zero
        let (c, u) := tally (if d = a then [] else [x])
        let s := s.charge (.core f.pl.core) c u 0
        match (lccCheck x).data? with
        | none => (.fault (.lcc 0 x), s)
        | some v => s.mergeStore f pg f.elected va e v.toNat
      else (.done [], (s.storeWords f .plain pg f.elected (wordLoc pg.loc) [] (ws.take (wordsIn e))).endPause f)) s

/-- R312: bits [71:64] come from the checked third word. -/
def execLdA72 (m : Mods) (d a p : BitVec 6) (s : State) : Host.Outcome State Fault Refusal :=
  coded m true (fun f s =>
    s.memOnce f [.s a.toNat] [.s d.toNat] .load 16 (fun vs => addUnits (val vs 0) 16 p.toInt) fun s va pg =>
      if s.raced f .plain pg 4 then (.fault (.at_ causeRace 0 va), s)
      else
        let (ws, _, s) := s.readPart f .plain { pg with unit := 16 } f.elected (wordLoc pg.loc) 3
        let lo := ws.headD .zero
        let hi := ws.getD 1 .zero
        let top := ws.getD 2 .zero
        let (c, u) := tally [top]
        let s := s.charge (.core f.pl.core) c u 0
        match (lccCheck top).data? with
        | none => (.fault (.lcc va top), s)
        | some t =>
          let b : Byte := t.setWidth 8
          (.done [.s d.toNat ⟨b ++ hi.data ++ lo.data, lo.code, hi.code, lccMake (b.setWidth 32)⟩], s)) s

/-- R312: three words with the register's codes, and a zero word. -/
def execStA72 (m : Mods) (d a p : BitVec 6) (s : State) : Host.Outcome State Fault Refusal :=
  coded m true (fun f s =>
    s.memOnce f [.s a.toNat] [.s d.toNat] .store 16 (fun vs => addUnits (val vs 0) 16 p.toInt) fun s va pg =>
      if s.raced f .plain pg 4 then (.fault (.at_ causeRace 0 va), s)
      else (.done [],
        (s.storeWords f .plain { pg with unit := 16 } f.elected (wordLoc pg.loc) [] ((f.b.sreg d.toNat).words ++ [.zero])).endPause f)) s

/-! ## Acquire and release forms (R313, R314) -/

/-- R314: at die or wider scope the read is made at the home point, and the acquire steps follow once for the issue; at a narrower one the
thread remembers it, as any relaxed read, for its next acquire fence (R274, R297). -/
def execLdAcq (m : Mods) (d : BitVec 7) (a : BitVec 6) (c : BitVec 3) (w : BitVec 2) (p : BitVec 5) (s : State) :
    Host.Outcome State Fault Refusal :=
  let wd := w.toNat + 2
  let sc := scopeOf c.toNat
  coded m true (fun f s =>
    s.memOp f [.s a.toNat] [] [] (some (.v d.toNat (widthRegs wd))) .load (widthBytes wd) ⟨none, some sc⟩
      (stridedAddr (widthBytes wd) p.toInt) fun _ s l va pg =>
        let (out, sts, s) := s.loadStamps f ⟨true, sc.wide⟩ d.toNat (widthBytes wd) l va pg
        (out, if sc.wide then s.acquireRead f sc l (wordLoc pg.loc) sts else s.noteRead f l (wordLoc pg.loc) sts)) s

/-- R314: at die or wider scope the release steps come first, and each lane's write is performed as a releasing write. -/
def execStRel (m : Mods) (d : BitVec 7) (a : BitVec 6) (c : BitVec 3) (w : BitVec 2) (p : BitVec 5) (s : State) :
    Host.Outcome State Fault Refusal :=
  let wd := w.toNat + 2
  let sc := scopeOf c.toNat
  coded m true (fun f s =>
    s.memOp f [.s a.toNat] [] [.v d.toNat (widthRegs wd)] none .store (widthBytes wd) ⟨some sc, none⟩
      (stridedAddr (widthBytes wd) p.toInt) fun sts s l va pg =>
        s.storeLane f ⟨true, sc.wide⟩ sts [] d.toNat (widthBytes wd) l va pg) s

/-! ## The split gather (R315, R316) -/

/-- R315: lanes whose line is in the core's cache complete; the others park under one record until their data lands. A section's lane
is always near (log entry 16), as is one whose access takes effect before the beam's later ones (R453, log entry 38). -/
def execLdgSplit (m : Mods) (w : BitVec 3) (d : BitVec 7) (a : BitVec 6) (b : BitVec 7) (s : State) :
    Host.Outcome State Fault Refusal :=
  coded m true (fun f s =>
    s.memOp f [.s a.toNat] [.v b.toNat 1] [] (some (.v d.toNat (widthRegs w.toNat))) .load (widthBytes w.toNat) .nothing indexedAddr
      fun _ s l va p =>
        if !f.lantern && p.cached && !p.now && (smGet? (s.core f.pl.core).lines (p.loc / 64)).isNone then
          (.park (.other (.split [(l, va)] (f.b.wb + d.toNat) w.toNat)), s)
        else s.loadLane f .plain d.toNat (widthBytes w.toNat) l va p) s

/-! ## The flagged store (R317, R318, R293) -/

/-- The flag's increment at its home point; it carries the stamps of the release and of the threads' release fences (R293, R297). -/
def State.bumpFlag (s : State) (f : Frame) (p : Page) (v : Word) (sts : List Stamp) : State :=
  (s.perform { f.flight p f.elected (wordLoc p.loc) (CW.make (v + 1)) with
      stamps := joinStamps (s.stampsAt p.loc) (sts ++ f.lanes.flatMap f.fences) }).noteWritten f.pl p p.loc

/-- The lines of a block of `size` bytes are performed (R293, R318). -/
def State.performBlock (s : State) (core loc size : Nat) : State :=
  (List.range (max 1 (size / 64))).foldl (fun s i => s.writeBack core (loc / 64 + i)) s

/-- R318: every active lane's word, performed; the release; and one increment of the flag. Where the flag's word is uncorrectable, there is no
increment. -/
def execStf (m : Mods) (fn : BitVec 3) (d : BitVec 7) (a b : BitVec 6) (s : State) : Host.Outcome State Fault Refusal :=
  let sc := scopeOf fn.toNat
  coded m true (fun f s =>
    s.guarded f [.s a.toNat, .s b.toNat, .v d.toNat 1] [] fun s =>
      let once := f.get f.elected [.s a.toNat, .s b.toNat]
      let s' := s.charge (.core f.pl.core) once.corr once.unc 0
      match once.vals with
      | .error w => s'.allLanes f (.lcc 0 w)
      | .ok vs =>
        let block := val vs 0
        let flag := val vs 1
        let size := 4 * (if f.lantern then 1 else f.b.width)
        let fail := fun (s' : State) (o : LaneOut) => match o with
          | .done _ => s'
          | .fault c => s'.allLanes f c
          | .park q => s.retire s' f ⟨[], f.lanes.map fun l => (l, q), none⟩
        if block % size ≠ 0 then s'.allLanes f (.at_ causeAlign 0 block)
        else if flag % 4 ≠ 0 then s'.allLanes f (.at_ causeAlign 0 flag)
        else match s'.spot f [] .store size block with
          | (.error o, s') => fail s' o
          | (.ok bp, s') => match s'.spot f [] .store 4 flag with
            | (.error o, s') => fail s' o
            | (.ok fp, s') =>
              let s' := f.lanes.foldl (fun s l =>
                s.storeWords f .relaxed { bp with loc := bp.loc + 4 * l, unit := 4 } l (wordLoc bp.loc + 4 * l) []
                  [f.b.vreg l (f.b.wb + d.toNat)]) s'
              let s' := (s'.endPause f).performBlock f.pl.core bp.loc size
              let (sts, s') := s'.releaseStep f sc
              let s' := (s'.spend f f.elected fp.loc).passCache f.pl.core fp.loc
              let w := s'.homeWord fp.loc
              let (c, u) := tally [w]
              let s' := chargeHome s' fp.loc c u
              match (lccCheck w).data? with
              | none => s'.allLanes f (.lcc flag w)
              | some v => s.retire (s'.bumpFlag f fp v sts) f .none) s

/-! ## Atomics (R319 to R321, R265) -/

/-- What an atomic computes from the memory value, the operand and the compare value; nothing where it does not write. -/
abbrev AtomFn := Nat → Nat → Nat → Option Nat

/-- Arithmetic of an atomic type: 0 s32, 1 z32, 2 f32, 3 s64, 4 z64, 5 f64, 6 b32, 7 b64 (R112). -/
def atomWide (t : Nat) : Bool := t == 3 || t == 4 || t == 5 || t == 7

def atomWidth (t : Nat) : Nat := if atomWide t then 64 else 32

/-- R320: integers wrap; floats round at RNE with subnormals honoured. -/
def atomSum (t : Nat) (m v : Nat) : Nat :=
  match t with
  | 2 => fAdd .fp32 ⟨.rne, false⟩ m v
  | 5 => fAdd .fp64 ⟨.rne, false⟩ m v
  | _ => (m + v) % 2 ^ atomWidth t

/-- R320, R209. -/
def atomPick (wantMax : Bool) (t : Nat) (m v : Nat) : Nat :=
  let w := atomWidth t
  match t with
  | 2 => fMinMax .fp32 wantMax false m v
  | 5 => fMinMax .fp64 wantMax false m v
  | 1 => if m < v then (if wantMax then v else m) else (if wantMax then m else v)
  | 4 => if m < v then (if wantMax then v else m) else (if wantMax then m else v)
  | _ => if signedBits w m < signedBits w v then (if wantMax then v else m) else (if wantMax then m else v)

/-- One lane's read-modify-write at the home point (R265, R320), with its ordering code: the atomic unit checks the memory words and the
operands. -/
def State.atomLane (s : State) (f : Frame) (o : Nat) (sts : List Stamp) (d c : Nat) (cas : Bool) (t : Nat) (g : AtomFn) (l va : Nat) (p : Page) :
    LaneOut × State :=
  let n := atomWidth t / 32
  let loc := wordLoc p.loc
  let s := (s.spend f l loc).passCache f.pl.core loc
  let mem := (List.range n).map fun i => s.homeWord (loc + 4 * i)
  let ops := [Opnd.v d n] ++ (if cas then [.v c n] else [])
  let regs := dedupWords [] (ops.flatMap (f.words l))
  let (cr, un) := tally (mem ++ regs)
  let s := chargeHome s loc cr un
  match firstBad (mem ++ regs) with
  | some w => (.fault (.lcc va w), s)
  | none =>
    let old := (dataOf mem).getD 0
    let sts' := (List.range n).flatMap fun i => s.stampsAt (loc + 4 * i)
    let s := s.sliceRead loc p.alloc
    let s := match g old ((f.value l (.v d n)).getD 0) ((f.value l (.v c n)).getD 0) with
      | none => s
      | some new => ((wordsOfNat n new).zipIdx.foldl (fun (s : State) (w, i) =>
          s.perform { f.flight p l (loc + 4 * i) (CW.make w) with
            stamps := joinStamps (s.stampsAt (loc + 4 * i)) (sts ++ f.fences l) }) s).noteWritten f.pl p loc
    let s := s.endPause f
    (.done (f.put l (.v d n) old), if o ≠ 0 ∧ (scopeOf o).wide then s.acquireRead f (scopeOf o) l loc sts' else s.noteRead f l loc sts')

/-- Release and acquire of an atomic's ordering code (R104). -/
def orderOf (o : Nat) : Around := if o = 0 then .nothing else ⟨some (scopeOf o), some (scopeOf o)⟩

/-- The atomics of 0x50 to 0x57. -/
def atomOp (m : Mods) (t : BitVec 3) (d a : BitVec 7) (o : BitVec 3) (b : BitVec 4) (cas : Bool) (g : AtomFn) (s : State) :
    Host.Outcome State Fault Refusal :=
  let n := atomWidth t.toNat / 32
  coded m true (fun f s =>
    let c := f.c d.toNat
    s.memOp f [.s b.toNat] [.v a.toNat 1] (if cas then [.v c n] else []) (some (.v d.toNat n)) .atomic (4 * n) (orderOf o.toNat)
      indexedAddr fun sts s l va p => s.atomLane f o.toNat sts d.toNat c cas t.toNat g l va p) s

/-- R320. -/
def execAtomAdd (m : Mods) (t : BitVec 3) (d a : BitVec 7) (o : BitVec 3) (b : BitVec 4) (s : State) : Host.Outcome State Fault Refusal :=
  atomOp m t d a o b false (fun x v _ => some (atomSum t.toNat x v)) s
/-- R320. -/
def execAtomMin (m : Mods) (t : BitVec 3) (d a : BitVec 7) (o : BitVec 3) (b : BitVec 4) (s : State) : Host.Outcome State Fault Refusal :=
  atomOp m t d a o b false (fun x v _ => some (atomPick false t.toNat x v)) s
/-- R320. -/
def execAtomMax (m : Mods) (t : BitVec 3) (d a : BitVec 7) (o : BitVec 3) (b : BitVec 4) (s : State) : Host.Outcome State Fault Refusal :=
  atomOp m t d a o b false (fun x v _ => some (atomPick true t.toNat x v)) s
/-- R320. -/
def execAtomAnd (m : Mods) (t : BitVec 3) (d a : BitVec 7) (o : BitVec 3) (b : BitVec 4) (s : State) : Host.Outcome State Fault Refusal :=
  atomOp m t d a o b false (fun x v _ => some (x &&& v)) s
/-- R320. -/
def execAtomOr (m : Mods) (t : BitVec 3) (d a : BitVec 7) (o : BitVec 3) (b : BitVec 4) (s : State) : Host.Outcome State Fault Refusal :=
  atomOp m t d a o b false (fun x v _ => some (x ||| v)) s
/-- R320. -/
def execAtomXor (m : Mods) (t : BitVec 3) (d a : BitVec 7) (o : BitVec 3) (b : BitVec 4) (s : State) : Host.Outcome State Fault Refusal :=
  atomOp m t d a o b false (fun x v _ => some (x ^^^ v)) s
/-- R320. -/
def execAtomExch (m : Mods) (t : BitVec 3) (d a : BitVec 7) (o : BitVec 3) (b : BitVec 4) (s : State) :
    Host.Outcome State Fault Refusal :=
  atomOp m t d a o b false (fun _ v _ => some v) s
/-- R320: a failed compare is a read only. -/
def execAtomCas (m : Mods) (t : BitVec 3) (d a : BitVec 7) (o : BitVec 3) (b : BitVec 4) (s : State) : Host.Outcome State Fault Refusal :=
  atomOp m t d a o b true (fun x v k => if x = k then some v else none) s

/-- R321: the lane's index is an element number below the bound in the next scalar register. -/
def execAtombAdd (m : Mods) (fn : BitVec 3) (d a : BitVec 7) (o : BitVec 3) (b : BitVec 4) (s : State) :
    Host.Outcome State Fault Refusal :=
  coded m true (fun f s =>
    s.memOp f [.s b.toNat, .s (b.toNat + 1)] [.v a.toNat 1] [] (some (.v d.toNat 1)) .atomic 4 (orderOf o.toNat)
      (fun bs _ vs => if val bs 1 % 2 ^ 64 ≤ val vs 0 then .error (.at_ causeIndex 0 (val vs 0)) else .ok (addUnits (val bs 0) 4 (val vs 0)))
      fun sts s l va p => s.atomLane f o.toNat sts d.toNat d.toNat false fn.toNat (fun x v _ => some (atomSum fn.toNat x v)) l va p) s

/-! ## Fences (R283 to R285, R322, R323) -/

/-- What a thread's acquire fence takes: the stamps of its first four remembered reads; a fifth sets SAT (R297). -/
def State.fenceReads (s : State) (f : Frame) (sc : Scope) (l : Nat) : State :=
  match (s.beam? f.a).map fun b => (b.lane l).reads with
  | some (r :: rs) =>
    let s := ((r :: rs).take 4).foldl (fun s (loc, sts) => s.takeStamps f.pl sc loc sts) s
    let s := if 4 < (r :: rs).length then s.absorb f.pl ⟨[], true⟩ else s
    s.forgetReads f l
  | _ => s

/-- The stamps of a thread's release fences after one more: those whose boards it posts to all are covered by it (R274, R297). -/
def fencesWith (sts : List Stamp) (st : Stamp) : List Stamp :=
  sts.filter (fun x => x.any fun p => !(st.map (·.1)).contains p.1) ++ [st]

/-- R322: the release and acquire steps once for the issue; each thread's later atomic writes carry the fence's stamp (R297). -/
def execFence (m : Mods) (b : BitVec 3) (s : State) : Host.Outcome State Fault Refusal :=
  coded m true (fun f s => s.masked f fun s =>
    let sc := scopeOf b.toNat
    if sc.wide then
      let (st, s) := s.release f.pl sc f.mine
      let s := s.acquire f.pl sc
      let s := f.lanes.foldl (fun s l => s.fenceReads f sc l) s
      let s := s.modBeam f.a fun b => f.lanes.foldl (fun b l => b.modLane l fun x => { x with fences := fencesWith x.fences st }) b
      (s.advanceRegion f.pl sc).goOn f
    else (s.release f.pl sc f.mine).2.goOn f) s

/-- A path's writes of a workgroup have taken effect: those to device memory and those to its scratchpad (R284). -/
def State.pathDone (s : State) (core w path : Nat) : State :=
  (s.drain core fun f => flightOfWg w f && f.path == path).drainPool w fun x => x.path == path

/-- R284, R285: the first path's writes take effect, and between the threads and an engine path, lines move between the core's cache and the
home slices. -/
def execXfence (m : Mods) (p q : BitVec 2) (s : State) : Host.Outcome State Fault Refusal :=
  coded m true (fun f s => s.masked f fun s =>
    let core := f.pl.core
    let w := f.pl.wg
    let engine := fun (x : BitVec 2) => x == 1 || x == 2
    let s :=
      if f.lantern then s
      else if p = 0 ∧ engine q then
        ((s.core core).lines.foldl (fun s (ln, _) => s.unload core ln fun ws => ws.contains w) s).pathDone core w 0
      else if engine p ∧ q = 0 then
        let s := s.pathDone core w p.toNat
        let sig := ((s.wg? w).map fun g => if p = 1 then g.sigCopy else g.sigMatrix).getD 0
        let hit := (s.core core).lines.filter fun (ln, _) => sigMatches sig ln
        (hit.foldl (fun s (ln, _) => s.dropLine core ln) s).modWg w fun g =>
          if p = 1 then { g with sigCopy := 0 } else { g with sigMatrix := 0 }
      else s.pathDone core w p.toNat
    s.goOn f) s

/-! ## Cache instructions (R324, R325) -/

/-- The line an address reaches, for an instruction that raises nothing: nothing where the register's word is uncorrectable or the
address fails translation (R324). -/
def State.lineAt (s : State) (f : Frame) (a : Nat) : Option Nat × State :=
  let once := f.get f.elected [.s a]
  let s := s.charge (.core f.pl.core) once.corr once.unc 0
  match once.vals with
  | .error _ => (none, s)
  | .ok vs => match s.translate f.pl.core f.pl.ctx (val vs 0) with
    | (.leaf t, s) => (some ((t.page (val vs 0 % 2 ^ 72)).loc / 64), s)
    | (.fault _ _, s) => (none, s)

/-- Every line number of a core's cache. -/
def Core.lineNumbers (k : Core) : List Nat := k.lines.map (·.1)

/-- R324: `cinv.line`, `cinv.all`. -/
def execCinv (m : Mods) (a : BitVec 7) (md : BitVec 1) (s : State) : Host.Outcome State Fault Refusal :=
  coded m true (fun f s =>
    let core := f.pl.core
    s.guarded f (if md = 0 then [.s a.toNat] else []) [] fun s =>
      if md = 1 then (((s.core core).lineNumbers).foldl (fun s ln => s.dropLine core ln) s).goOn f
      else match s.lineAt f a.toNat with
        | (some ln, s) => (s.dropLine core ln).goOn f
        | (none, s) => s.goOn f) s

/-- R324: `cflush.l1`, `cflush.l2`, `cflush.all`. -/
def execCflush (m : Mods) (a : BitVec 7) (md : BitVec 2) (s : State) : Host.Outcome State Fault Refusal :=
  coded m true (fun f s =>
    let core := f.pl.core
    s.guarded f (if md = 2 then [] else [.s a.toNat]) [] fun s =>
      if md = 2 then (((s.core core).lineNumbers).foldl (fun s ln => s.writeBack core ln) s).goOn f
      else match s.lineAt f a.toNat with
        | (some ln, s) => (if md = 0 then s.writeBack core ln else s.sliceClean ln).goOn f
        | (none, s) => s.goOn f) s

/-- One lane's prefetch: the lines fetched so far in the issue, and the state. -/
def State.prefLane (s : State) (f : Frame) (lit : Nat) (seen : List Nat) (base l b : Nat) : List Nat × State :=
  let got := f.get l [.v b 1]
  let s := s.charge (.core f.pl.core) got.corr got.unc 0
  match got.vals with
  | .error _ => (seen, s)
  | .ok vs => match s.reach f.pl.core f.pl.ctx (wrap 72 ((base : Int) + signedBits 32 (val vs 0))) .load with
    | (.page p, s) =>
      let ln := p.loc / 64
      let evp := if lit.testBit 1 then bits lit 2 2 else p.evp
      if seen.contains ln || p.cl == 2 || p.cl == 3 then (seen, s)
      else if lit % 2 = 0 ∧ p.cached then
        if (smGet? (s.core f.pl.core).lines ln).isSome then (ln :: seen, s)
        else (ln :: seen, (s.fetchLine f.pl.core ln evp (.prefetch f.pl.ctx)).count f.pl.core 0x07 f.pl.ctx 1)
      else (ln :: seen, (s.sliceRead p.loc (some evp)).count f.pl.core 0x07 f.pl.ctx 1)
    | (.fault _ _, s) => (seen, s)
    | (.deny _, s) => (seen, s)
    | (.silent _ _, s) => (seen, s)

/-- R325. -/
def execPref (m : Mods) (l : BitVec 4) (a : BitVec 6) (b : BitVec 7) (s : State) : Host.Outcome State Fault Refusal :=
  coded m true (fun f s =>
    s.guarded f [.s a.toNat, .v b.toNat 1] [] fun s =>
      let once := f.get f.elected [.s a.toNat]
      let s := s.charge (.core f.pl.core) once.corr once.unc 0
      match once.vals with
      | .error _ => s.goOn f
      | .ok vs =>
        (f.lanes.foldl (fun (acc : List Nat × State) k => acc.2.prefLane f l.toNat acc.1 (val vs 0) k b.toNat) ([], s)).2.goOn f) s

/-! ## Check codes and counts (R326 to R328) -/

/-- R326. -/
def execCchk (m : Mods) (d : BitVec 7) (a : BitVec 6) (b : BitVec 7) (s : State) : Host.Outcome State Fault Refusal :=
  coded m true (fun f s =>
    s.memOp f [.s a.toNat] [.v b.toNat 1] [] (some (.v d.toNat 1)) .load 4 .nothing indexedAddr fun _ s l va p =>
      if s.raced f .plain p 1 then (.fault (.at_ causeRace 0 va), s)
      else
        let (ws, _, s) := s.readMany f .plain p l (wordLoc p.loc) 1
        (.done (f.put l (.v d.toNat 1) (lccDescribe (ws.headD .zero))), s)) s

/-- R327: one write at the home point that makes no code, only where the context grants injection. -/
def execCinj (m : Mods) (a : BitVec 6) (b : BitVec 7) (s : State) : Host.Outcome State Fault Refusal :=
  coded m true (fun f s =>
    let s := s.loadCtx f.pl.ctx
    if ((s.ctxEntry? f.pl.ctx).map (·.inj)).getD false then
      let sel := Opnd.s b.toNat
      let got := f.get f.elected [.s a.toNat, sel]
      let flip := match got.vals with
        | .ok vs => val vs 1
        | .error _ => 0
      s.memOnce f [.s a.toNat, sel] [] .store 4 (fun vs => val vs 0) fun s _ p =>
        let s := (s.spend f f.elected p.loc).passCache f.pl.core p.loc
        let w := s.homeWord p.loc
        let x : CW := ⟨w.data ^^^ .ofNat 32 flip, w.code ^^^ .ofNat 8 (flip / 2 ^ 32)⟩
        (.done [], (s.perform { f.flight p f.elected (wordLoc p.loc) x with tag := none }).noteWritten f.pl p p.loc)
    else s.wholeActive f causeIllegal) s

/-- Non-zero elements of one word (R56, R221). -/
def nzElems (sgn : Bool) (w : Nat) (d : Word) : Nat := ((List.range (32 / w)).filter fun i => !elemZero sgn w (elem w i d.toNat)).length

/-- R328: the line's words are consumed; the lowest uncorrectable one is reported. -/
def execNzcnt (m : Mods) (fn : BitVec 3) (d : BitVec 7) (a : BitVec 6) (b : BitVec 7) (s : State) : Host.Outcome State Fault Refusal :=
  coded m true (fun f s =>
    let sgn := (s.fmtReg f.a f.p.fmt.toNat).getLsbD 13
    let w := 4 * 2 ^ (fn.toNat - 2)
    s.memOp f [.s a.toNat] [.v b.toNat 1] [] (some (.v d.toNat 1)) .load 64 .nothing indexedAddr fun _ s l va p =>
      if s.raced f .plain p 16 then (.fault (.at_ causeRace 0 va), s)
      else
        let (ws, _, s) := s.readMany f .plain p l (wordLoc p.loc) 16
        let (c, u) := tally ws
        let s := s.charge (.core f.pl.core) c u 0
        match ws.findIdx? fun x => (lccCheck x).data?.isNone with
        | some i => (.fault (.lcc (va + 4 * i) (ws.getD i .zero)), s)
        | none => (.done (f.put l (.v d.toNat 1) (((checkedData ws).getD []).foldl (fun n x => n + nzElems sgn w x) 0)), s)) s

end Sys2Proof.Machine
end

