-- ==== Sys2Proof/Machine/MomentMath.lean ====
section
/-!
DEFINITION. Sys2Proof/Machine/MomentMath.lean: the sequences of the moment instructions on FP64 values (spec R58 to R65, R226,
R228). Every FP64 value is its encoding; every `r…` rounds to FP64 at RNE.
-/

namespace Sys2Proof.Machine

def d64 (a : Nat) : FVal := IFmt.fp64.decode a
/-- `rnd64` (R60). -/
def rnd64 (v : FVal) : Nat := IFmt.fp64.encode .rne v
def rAdd (a b : Nat) : Nat := rnd64 (.add .rne (d64 a) (d64 b))
def rSub (a b : Nat) : Nat := rnd64 (.add .rne (d64 a) (d64 b).neg)
def rMul (a b : Nat) : Nat := rnd64 (.mul (d64 a) (d64 b))
def rDiv (a b : Nat) : Nat := rnd64 (.div (d64 a) (d64 b))
/-- `sqrt64` (R60). -/
def rSqrt (a : Nat) : Nat := rnd64 (.sqrt 57 (d64 a))
/-- Twice a value, as an exact FP64 value where it is representable (R61: 2*c is exact). -/
def rTwice (a : Nat) : Nat := rMul 0x4000000000000000 a
def rAbs (a : Nat) : Nat := fAbs .fp64 a
def rNeg (a : Nat) : Nat := rnd64 (d64 a).neg

/-- An FP32 encoding widened to FP64. -/
def widen32 (a : Nat) : Nat := rnd64 (IFmt.fp32.decode a)
/-- `round_f32(·, RNE)` of an FP64 encoding. -/
def narrow32 (a : Nat) : Nat := IFmt.fp32.encode .rne (d64 a)
/-- −0 in a variance is read as +0 (R60). -/
def varIn (a : Nat) : Nat := if a = IFmt.fp32.signBit then 0 else widen32 a

/-- A variance whose sign bit is set and whose magnitude is non-zero, −infinity included, NaN excluded (R63, R228). -/
def negVariance (v : Nat) : Bool :=
  v / IFmt.fp32.signBit % 2 == 1 && decide (v % IFmt.fp32.signBit ≠ 0) && decide (v % IFmt.fp32.signBit ≤ IFmt.fp32.infBits)

/-- What a sequence of R61 computes: the mean μ′, the variance w and the gross variance g, in FP64. -/
structure MomOut where
  mu : Nat
  w : Nat
  g : Nat
deriving DecidableEq, Repr

/-- The covariance value c of R226 from the FP64 variances; `cv` is the explicit FP32 operand of COV. -/
def covValue (cov va vb cv : Nat) : Nat :=
  match cov with
  | 0 => 0
  | 1 => rMul (rSqrt va) (rSqrt vb)
  | 2 => rNeg (rMul (rSqrt va) (rSqrt vb))
  | _ => widen32 cv

/-- Addition, and subtraction where `sub` holds (R61). -/
def momAdd (sub : Bool) (mua va mub vb c : Nat) : MomOut :=
  let g := rAdd va vb
  { mu := if sub then rSub mua mub else rAdd mua mub
    w := if sub then rSub g (rTwice c) else rAdd g (rTwice c)
    g := rAdd g (rTwice (rAbs c)) }

/-- Multiplication (R61). -/
def momMul (mua va mub vb c : Nat) : MomOut :=
  let t1 := rMul va vb
  let t2 := rMul c c
  let t3 := rMul (rMul mua mua) vb
  let t4 := rMul (rMul mub mub) va
  let t5 := rMul (rMul (rTwice mua) mub) c
  let s := rAdd (rAdd (rAdd t1 t2) t3) t4
  { mu := rAdd (rMul mua mub) c, w := rAdd s t5, g := rAdd s (rAbs t5) }

/-- Scaling by a plain s (R61). -/
def momScale (mu v s : Nat) : MomOut :=
  let w := rMul v (rMul s s)
  ⟨rMul mu s, w, w⟩

/-- ReLU (R61). -/
def momRelu (mu v : Nat) : MomOut :=
  if v = 0 then
    ⟨if (d64 mu).isNaN then IFmt.fp64.nanBits else if (FVal.zero false).lt (d64 mu) then mu else 0, 0, 0⟩
  else
    let sg := rSqrt v
    let z := rDiv mu sg
    let p := phiUpperCr (d64 z)
    let d := phiLowerCr (d64 z)
    let mu' := rAdd (rMul mu p) (rMul sg d)
    let g := rAdd (rMul (rAdd (rMul mu mu) v) p) (rMul (rMul mu sg) d)
    ⟨mu', rSub g (rMul mu' mu'), g⟩

/-- The exponential (R61); at a mean of −infinity, the edge that R233 gives: a finite variance leaves +0, although the sequence's last
products are 0 × infinity where `expm1` overflows (log entry 50). -/
def momExp (mu v : Nat) : MomOut :=
  let mu' := expCr (d64 (rAdd mu (rMul v fp64Half)))
  let w := rMul (rMul (expm1Cr (d64 v)) mu') mu'
  if mu = IFmt.fp64.signBit + IFmt.fp64.infBits ∧ v < IFmt.fp64.infBits then ⟨0, 0, 0⟩ else ⟨mu', w, w⟩

/-- The FP64 value nearest to π. -/
def pi64 : Nat := 0x400921FB54442D18

/-- The sigmoid (R61); at an infinite variance and at a zero one, the edges that R233 gives for every mean (log entry 50). -/
def momSigm (mu v : Nat) : MomOut :=
  let k := rsqrtCr (d64 (rAdd fp64One (rDiv (rMul pi64 v) 0x4020000000000000)))
  let mu' := sigmCr (d64 (rMul k mu))
  let w := rMul (rMul mu' (rSub fp64One mu')) (rSub fp64One k)
  if v = IFmt.fp64.infBits then ⟨fp64Half, 0x3FD0000000000000, 0x3FD0000000000000⟩
  else if v = 0 then ⟨mu', 0, 0⟩
  else ⟨mu', w, w⟩

/-- The reciprocal, of a mean that is no zero (R61). -/
def momRcp (mu v : Nat) : MomOut :=
  let inv := rDiv fp64One mu
  let inv2 := rMul inv inv
  let w := rMul v (rMul inv2 inv2)
  ⟨rAdd inv (rMul v (rMul inv2 inv)), w, w⟩

/-- What the check of R62 makes of a computed variance. -/
inductive VarOutcome where
  /-- The variance to write, FP64. -/
  | stands (w : Nat)
  /-- Cancelled to +0 within 2^-20 of the second moment, not counted. -/
  | cancelled
  /-- Negative beyond that: NEG_VARIANCE, or +0 and one count where `mctl.NVC` is 1. -/
  | negative
deriving DecidableEq, Repr

/-- The negative-variance check of R62 on a result, its product rounded below the normal range (R228). -/
def varCheck (o : MomOut) : VarOutcome :=
  let w := d64 o.w
  if w.isNaN || !w.lt (.zero false) then .stands o.w
  else
    let q := rAdd (rMul o.mu o.mu) o.g
    let t := rMul 0x3EB0000000000000 q
    if (d64 q).isNaN then .negative
    else if (d64 t).lt w.neg then .negative else .cancelled

/-- MB16 halves widened to FP32, a NaN becoming canonical (R58, R235): mean and variance. -/
def mb16Widen (w : Nat) : Nat × Nat :=
  (IFmt.fp32.encode .rne (IFmt.bf16.decode (w % 2 ^ 16)), IFmt.fp32.encode .rne (IFmt.bf16.decode (w / 2 ^ 16 % 2 ^ 16)))

/-- A moment narrowed to MB16 at RNE (R58). -/
def mb16Narrow (mean var : Nat) : Nat :=
  IFmt.bf16.encode .rne (IFmt.fp32.decode mean) + 2 ^ 16 * IFmt.bf16.encode .rne (IFmt.fp32.decode var)

/-- `round_f32(sqrt64(v))` (R65, R238). -/
def momSd (v : Nat) : Nat := narrow32 (rSqrt (varIn v))

/-- A sample (R65, R238). -/
def momSample (mu v z : Nat) : Nat := narrow32 (rAdd (widen32 mu) (rMul (rSqrt (varIn v)) (widen32 z)))

/-- An FP32 value with a NaN made canonical and nothing else changed. -/
def canonical32 (a : Nat) : Nat := if (IFmt.fp32.decode a).isNaN then IFmt.fp32.nanBits else a

end Sys2Proof.Machine
end

