-- ==== Sys2Proof/Machine/Moments.lean ====
section
/-!
DEFINITION. Sys2Proof/Machine/Moments.lean: the moment instructions (spec R223 to R241), over the sequences of MomentMath.lean.
-/

namespace Sys2Proof.Machine

/-! ## The forms the instructions share -/

/-- Whether the issuing grid has the moment file; a lantern core always has it (R110). -/
def State.hasMoment (s : State) (pl : Place) : Bool := pl.lantern || ((s.wg? pl.wg).map (·.moment)).getD false

/-- A coded moment instruction: illegal in a grid launched without the moment file (R110). -/
def momCoded (m : Mods) (body : Frame → State → State) (s : State) : Host.Outcome State Fault Refusal :=
  codedPath m true (fun f s =>
    if !s.hasMoment f.pl then s.whole f (.plain causeIllegal) f.i.lanes
    else if f.active = 0 then s.goOn f else body f s) s

/-- The mean and the variance of a moment value. -/
def meanOf (v : Nat) : Nat := v % 2 ^ 32
def varOf (v : Nat) : Nat := v / 2 ^ 32 % 2 ^ 32

/-- A moment value from its halves. -/
def momOf (mean var : Nat) : Nat := mean % 2 ^ 32 + 2 ^ 32 * (var % 2 ^ 32)

/-- The input check of R63 on one variance: the FP32 value to use, and 1 where it was clamped; or reason `why`. A −0 stands: the sequences
read it as +0 (R60), and the MB16 conversions are exact (R58). -/
def takeVar (nvc : Bool) (why v : Nat) : Except Cause (Nat × Nat) :=
  if negVariance v then (if nvc then .ok (0, 1) else .error ⟨causeVariance, why, 0, 0, 0⟩) else .ok (v, 0)

/-- What a lane writes of a computed moment, after the check of R62 (R228). -/
def momResult (nvc : Bool) (clamped : Nat) (put : Nat → List RegWrite) (o : MomOut) : LaneDone :=
  match varCheck o with
  | .stands w => ⟨.ok (put (momOf (narrow32 o.mu) (narrow32 w))), clamped⟩
  | .cancelled => ⟨.ok (put (momOf (narrow32 o.mu) 0)), clamped⟩
  | .negative =>
    if nvc then ⟨.ok (put (momOf (narrow32 o.mu) 0)), clamped + 1⟩ else ⟨.error ⟨causeVariance, 2, 0, 0, 0⟩, clamped⟩

/-- Two moments to one, with the covariance of the prefix (R226, R231). A register named twice is read and checked once (R230). -/
def mom2 (m : Mods) (d a b : BitVec 5) (g : Nat → Nat → Nat → Nat → Nat → MomOut) (s : State) : Host.Outcome State Fault Refusal :=
  momCoded m (fun f s =>
    let cov := f.p.cov.toNat
    let explicit := if cov = 3 then [Opnd.v f.p.c.toNat 1] else []
    s.laneOp f [] ([.m a.toNat, .m b.toNat] ++ explicit) (.m d.toNat) false fun l _ vs =>
      match takeVar f.b.nvc 0 (varOf (val vs 0)) with
      | .error c => .bad c
      | .ok (va, n) =>
        match (if a = b then .ok (va, 0) else takeVar f.b.nvc 1 (varOf (val vs 1))) with
        | .error c => ⟨.error c, n⟩
        | .ok (vb, k) =>
          let x := varIn va
          let y := varIn vb
          momResult f.b.nvc (n + k) (f.put l (.m d.toNat))
            (g (widen32 (meanOf (val vs 0))) x (widen32 (meanOf (val vs 1))) y (covValue cov x y (val vs 2)))) s

/-- One moment to one, with an optional domain check (R232). -/
def mom1 (m : Mods) (late : Bool) (d a : BitVec 5) (extra : List Nat) (domain : Nat → Bool) (g : Nat → Nat → Nat → MomOut) (s : State) :
    Host.Outcome State Fault Refusal :=
  momCoded m (fun f s =>
    s.laneOp f [] (.m a.toNat :: extra.map fun n => .v n 1) (.m d.toNat) late fun l _ vs =>
      match takeVar f.b.nvc 0 (varOf (val vs 0)) with
      | .error c => .bad c
      | .ok (v, n) =>
        if domain (meanOf (val vs 0)) then ⟨.error (.plain causeDomain), n⟩
        else momResult f.b.nvc n (f.put l (.m d.toNat)) (g (widen32 (meanOf (val vs 0))) (varIn v) (val vs 1))) s

/-- A moment to one V word, after the input check (R235, R238). -/
def momCollapse (m : Mods) (d : BitVec 7) (a : BitVec 5) (extra : List Nat) (g : Nat → Nat → Nat → Nat) (s : State) :
    Host.Outcome State Fault Refusal :=
  momCoded m (fun f s =>
    s.laneOp f [] (.m a.toNat :: extra.map fun n => .v n 1) (.v d.toNat 1) false fun l _ vs =>
      match takeVar f.b.nvc 0 (varOf (val vs 0)) with
      | .error c => .bad c
      | .ok (v, n) => ⟨.ok (f.put l (.v d.toNat 1) (g (meanOf (val vs 0)) v (val vs 1))), n⟩) s

/-- Never outside the domain. -/
def anywhere (_ : Nat) : Bool := false

/-! ## Arithmetic (R231, R232) -/

/-- R231, addition. -/
def execMadd (m : Mods) (d a b : BitVec 5) (s : State) : Host.Outcome State Fault Refusal :=
  mom2 m d a b (fun ma va mb vb c => momAdd false ma va mb vb c) s

/-- R231, subtraction. -/
def execMsub (m : Mods) (d a b : BitVec 5) (s : State) : Host.Outcome State Fault Refusal :=
  mom2 m d a b (fun ma va mb vb c => momAdd true ma va mb vb c) s

/-- R231, multiplication. -/
def execMmul (m : Mods) (d a b : BitVec 5) (s : State) : Host.Outcome State Fault Refusal :=
  mom2 m d a b (fun ma va mb vb c => momMul ma va mb vb c) s

/-- R231, scaling by a plain FP32 value. -/
def execMscale (m : Mods) (d a : BitVec 5) (b : BitVec 7) (s : State) : Host.Outcome State Fault Refusal :=
  mom1 m false d a [b.toNat] anywhere (fun mu v x => momScale mu v (widen32 x)) s

/-- R232. -/
def execMrelu (m : Mods) (d a : BitVec 5) (s : State) : Host.Outcome State Fault Refusal :=
  mom1 m true d a [] anywhere (fun mu v _ => momRelu mu v) s

/-- R232. -/
def execMexp (m : Mods) (d a : BitVec 5) (s : State) : Host.Outcome State Fault Refusal :=
  mom1 m true d a [] anywhere (fun mu v _ => momExp mu v) s

/-- R232. -/
def execMsigm (m : Mods) (d a : BitVec 5) (s : State) : Host.Outcome State Fault Refusal :=
  mom1 m true d a [] anywhere (fun mu v _ => momSigm mu v) s

/-- R232: a mean of zero is outside the domain. -/
def execMrcp (m : Mods) (d a : BitVec 5) (s : State) : Host.Outcome State Fault Refusal :=
  mom1 m true d a [] (fun mu => mu % IFmt.fp32.signBit == 0) (fun mu v _ => momRcp mu v) s

/-! ## Moves and conversions (R234, R235, R238) -/

/-- R234: bits move, codes are made. -/
def execMset (m : Mods) (d : BitVec 5) (a b : BitVec 7) (s : State) : Host.Outcome State Fault Refusal :=
  momCoded m (fun f s => s.laneOp f [] [.v a.toNat 1, .v b.toNat 1] (.m d.toNat) false fun l _ vs =>
    .ok (f.put l (.m d.toNat) (momOf (val vs 0) (val vs 1)))) s

/-- R234: bits move, codes are made. -/
def execMmov (m : Mods) (d a : BitVec 5) (s : State) : Host.Outcome State Fault Refusal :=
  momCoded m (fun f s => s.laneOp f [] [.m a.toNat] (.m d.toNat) false fun l _ vs => .ok (f.put l (.m d.toNat) (val vs 0))) s

/-- R235: MB16 widened, its variance checked. -/
def execMcvtMomMb16 (m : Mods) (d : BitVec 5) (a : BitVec 7) (s : State) : Host.Outcome State Fault Refusal :=
  momCoded m (fun f s => s.laneOp f [] [.v a.toNat 1] (.m d.toNat) false fun l _ vs =>
    let (mean, var) := mb16Widen (val vs 0)
    match takeVar f.b.nvc 0 var with
    | .error c => .bad c
    | .ok (v, n) => ⟨.ok (f.put l (.m d.toNat) (momOf mean v)), n⟩) s

/-- R235: narrowed to MB16. -/
def execMcvtMb16Mom (m : Mods) (d : BitVec 7) (a : BitVec 5) (s : State) : Host.Outcome State Fault Refusal :=
  momCollapse m d a [] (fun mean var _ => mb16Narrow mean var) s

/-- R238. -/
def execMcolMean (m : Mods) (d : BitVec 7) (a : BitVec 5) (s : State) : Host.Outcome State Fault Refusal :=
  momCollapse m d a [] (fun mean _ _ => canonical32 mean) s

/-- R238: −0 is written as +0. -/
def execMcolVar (m : Mods) (d : BitVec 7) (a : BitVec 5) (s : State) : Host.Outcome State Fault Refusal :=
  momCollapse m d a [] (fun _ var _ => if var = IFmt.fp32.signBit then 0 else canonical32 var) s

/-- R238. -/
def execMcolSd (m : Mods) (d : BitVec 7) (a : BitVec 5) (s : State) : Host.Outcome State Fault Refusal :=
  momCollapse m d a [] (fun _ var _ => momSd var) s

/-- R238. -/
def execMcolSmp (m : Mods) (d : BitVec 7) (a : BitVec 5) (b : BitVec 7) (s : State) : Host.Outcome State Fault Refusal :=
  momCollapse m d a [b.toNat] (fun mean var z => momSample mean var z) s

/-! ## Loads and stores (R236, R237) -/

/-- Element size of a form: 8 bytes of a moment, 4 of MB16. -/
def momBytes (form : BitVec 1) : Nat := if form = 0 then 8 else 4

/-- R237: `mld.mom` carries the words; `mld.mb16` checks, widens and makes codes. -/
def execMld (m : Mods) (d : BitVec 5) (a : BitVec 6) (fm : BitVec 1) (p : BitVec 9) (s : State) : Host.Outcome State Fault Refusal :=
  let e := momBytes fm
  momCoded m (fun f s =>
    s.memOp f [.s a.toNat] [] [] (some (.m d.toNat)) .load e .nothing (stridedAddr e p.toInt) fun _ s l va pg =>
      if s.raced f .plain pg (wordsIn e) then (.fault (.at_ causeRace 0 va), s)
      else
        let (ws, _, s) := s.readMany f .plain pg l (wordLoc pg.loc) (wordsIn e)
        let x := ws.headD .zero
        if fm = 0 then (.done [.m l d.toNat ⟨x, ws.getD 1 .zero⟩], s)
        else
          let (c, u) := tally [x]
          let s := s.charge (.core f.pl.core) c u 0
          match (lccCheck x).data? with
          | none => (.fault (.lcc va x), s)
          | some dat =>
            let (mean, var) := mb16Widen dat.toNat
            match takeVar f.b.nvc 0 var with
            | .error c => (.fault c, s)
            | .ok (v, n) => (.done (f.put l (.m d.toNat) (momOf mean v)), s.charge (.core f.pl.core) 0 0 n)) s

/-- R237: `mst.mom` carries the register's words; `mst.mb16` checks, narrows and makes the code. -/
def execMst (m : Mods) (d : BitVec 5) (a : BitVec 6) (fm : BitVec 1) (p : BitVec 9) (s : State) : Host.Outcome State Fault Refusal :=
  let e := momBytes fm
  momCoded m (fun f s =>
    s.memOp f [.s a.toNat] [] [.m d.toNat] none .store e .nothing (stridedAddr e p.toInt) fun _ s l va pg =>
      if s.raced f .plain pg (wordsIn e) then (.fault (.at_ causeRace 0 va), s)
      else
        let r := f.b.mreg l d.toNat
        let loc := wordLoc pg.loc
        if fm = 0 then (.done [], (s.storeWords f .plain pg l loc [] [r.mean, r.var]).endPause f)
        else
          let got := f.get l [.m d.toNat]
          let s := s.charge (.core f.pl.core) got.corr got.unc 0
          match got.vals with
          | .error x => (.fault (.lcc 0 x), s)
          | .ok vs =>
            match takeVar f.b.nvc 0 (varOf (val vs 0)) with
            | .error c => (.fault c, s)
            | .ok (v, n) =>
              let w := CW.make (.ofNat 32 (mb16Narrow (meanOf (val vs 0)) v))
              (.done [], ((s.storeWords f .plain pg l loc [] [w]).charge (.core f.pl.core) 0 0 n).endPause f)) s

end Sys2Proof.Machine
end

