-- ==== Sys2Proof/Machine/Queues.lean ====
section
/-!
DEFINITION. Sys2Proof/Machine/Queues.lean: phase flags (spec R417 to R419), appends to launch queues (R366, R410), dependence-graph
nodes (R414 to R416, R433, R434), and what signals the completion of an engine command (R355).
-/

namespace Sys2Proof.Machine

/-! ## Phase flags (R417, R418) -/

/-- PHASE of a flag word. -/
def flagPhase (d : Word) : Bool := d.getLsbD 31

/-- The update one arrival makes (R418). -/
def flagNext (d : Word) : Word :=
  let expect := bits d.toNat 12 12
  let count := bits d.toNat 0 12 + 1
  let rest := d.toNat - bits d.toNat 0 12
  if max expect 1 ≤ count then (BitVec.ofNat 32 rest) ^^^ 0x80000000#32 else .ofNat 32 (rest + count % 2 ^ 12)

/-- A flag's word is reached by every path alike: writes under way to it are performed first (R417). -/
def State.flagNow (s : State) (w flag : Nat) : State := s.drainPool w fun x => x.off / 4 == flag

/-- An arrival of an engine command or a graph node at a flag: from the bits received where the word is uncorrectable (R418). -/
def State.flagArrive (s : State) (w flag : Nat) : State :=
  match s.wg? w with
  | none => s
  | some g =>
    let s := s.flagNow w flag
    let x := (s.scratchOf w).1.word (4 * flag)
    let (c, u) := tally [x]
    let d := ((lccCheck x).data?).getD x.data
    (s.charge (.core g.core) c u 0).setScratch w ((s.scratchOf w).1.setWord (4 * flag) (CW.make (flagNext d)))

/-- Whether a flag lies wholly inside a scratchpad of `sp` granules (R355). -/
def flagInside (flag sp : Nat) : Bool := decide (4 * flag + 4 ≤ sp * 16384)

/-- The flag and the phase that an entry waits at. -/
def Entry.atFlag (e : Entry) : Option (Nat × Bool) :=
  match e.kind with
  | .pfwait flag phase => some (flag, phase)
  | _ => none

/-- Whether the wait at a flag is over: its phase differs, or the word is uncorrectable (R419). -/
def flagReady (m : Mem) (flag : Nat) (phase : Bool) : Bool :=
  match (lccCheck (m.word (4 * flag))).data? with
  | some d => flagPhase d != phase
  | none => true

/-- The lanes of a waiting path that the prefix of its instruction selects (R88). -/
def State.activeOf (s : State) (pl : Place) (b : Beam) (e : Entry) : Nat :=
  match s.peek pl e.pc with
  | some w => if isPrefix w.toNat then e.lanes &&& b.kmask (prefixOf w.toNat).k.toNat else e.lanes
  | none => e.lanes

/-- Put an entry in the place of one that stands in either frontier. -/
def Beam.replaceEntry (b : Beam) (e : Entry) (es : List Entry) : Beam :=
  b.onFrontiers fun fr => if fr.contains e then placeEntries (fr.filter (· != e)) es else fr

/-- The wait of a path at a flag ends: it goes on after its `pfwait`, with the acquire at workgroup scope and the pause-loop count afresh (R273,
R278, R473); or its active lanes take LCC_FAULT, of a path that stands outside a running handler once it reads the word again (R419, R426). -/
def State.wakeFlag (s : State) (a : Agent) (flag : Nat) (e : Entry) : State :=
  let pl := s.place a
  let b := (s.beam? a).getD default
  let x := (s.scratchOf pl.wg).1.word (4 * flag)
  let (c, u) := tally [x]
  let s := s.charge (.core pl.core) c u 0
  let next := s.nextOf pl e.pc
  match (lccCheck x).data? with
  | some _ => s.modFrontier a fun b => ((b.replaceEntry e [.run next e.pri e.lanes e.hold]).forget e.lanes).endPause.unhold
  | none =>
    if b.frontier.contains e then
      let active := s.activeOf pl b e
      let s := s.modFrontier a fun b => b.move (maskSub e.lanes active) [.run next e.pri (maskSub e.lanes active) e.hold]
      s.trap a { Cause.lcc (4 * flag) x with lanes := active } active e.lanes e.pc (next == e.pc + 8) 0
    else s.modFrontier a fun b => b.replaceEntry e [.run e.pc e.pri e.lanes 0]

/-- Release whatever waits at phase flags can be released, in every resident workgroup that no full save stops (R172). -/
def State.settleFlags (s : State) : State :=
  s.wgs.foldl (fun s (w, g) =>
    if g.status = .resident ∧ !g.deadline then
      g.beams.foldl (fun s (n, b) =>
        (b.frontier ++ b.kept.getD []).foldl (fun s e => match e.atFlag with
          | some (flag, phase) => if flagReady g.scratch flag phase then s.wakeFlag (.beam w n) flag e else s
          | none => s) s) s
    else s) s

/-! ## Appends to launch queues (R366, R410) -/

/-- What an append meets. -/
inductive Append where
  | made
  | full
  | closed
  | fault (sp : Span) (reason addr : Nat)
  | denied (addr : Nat)
  /-- The slot's module does not answer (R485). -/
  | silent (addr loc : Nat)
deriving DecidableEq, Repr

/-- Slots of a queue; an invalid LOG2SIZE gives none (R364, R365). -/
def LaunchQueue.slots (q : LaunchQueue) : Nat := if 4 ≤ q.log2 ∧ q.log2 ≤ 16 then 2 ^ q.log2 else 0

/-- Records pending, modulo 2^32. -/
def LaunchQueue.pending (q : LaunchQueue) : Nat := wrap 32 ((q.tail : Int) - q.head)

/-- Virtual address of slot n. -/
def LaunchQueue.slotAddr (q : LaunchQueue) (n : Nat) : Nat := (q.base + 256 * (n % 2 ^ q.log2)) % 2 ^ 72

/-- Whether a queue takes appends of a context (R366, R410). -/
def LaunchQueue.takes (q : LaunchQueue) (ctx : Nat) : Bool := q.en && q.device && q.ctx == ctx && q.slots != 0

/-- Write words at rising locations of one page at its home, as an agent that is no thread. -/
def State.homeWords (s : State) (core : Nat) (loc : Nat) : List CW → State
  | [] => s
  | w :: ws => ((s.passCache core loc).perform (deviceWrite loc w)).homeWords core (loc + 4) ws

/-- One append: the record goes into slot TAIL and TAIL advances, as one step (R366). The slot is translated in the queue's context by
the core that appends. `pub` is what the append publishes to the grid that is launched (R297, R410). -/
def State.append (s : State) (core q : Nat) (rec_ : List CW) (pub : RSet) (node : Option (Nat × Nat)) : Append × State :=
  let lq := s.lq q
  if !lq.en || !lq.device || lq.slots == 0 then (.closed, s)
  else if lq.slots ≤ lq.pending then (.full, s)
  else
    let va := lq.slotAddr lq.tail
    match s.reach core lq.ctx va .store with
    | (.page p, s) =>
      let s := s.homeWords core p.loc rec_
      (.made, s.modLq q fun x =>
        { x with tail := (x.tail + 1) % 2 ^ 32
                 nodes := match node with
                   | some n => smSet x.nodes x.tail n
                   | none => x.nodes
                 pubs := smSet x.pubs x.tail pub })
    | (.fault reason level, s) => (.fault ⟨lq.ctx, spanBase level va, level⟩ reason va, s)
    | (.deny _, s) => (.denied va, s)
    | (.silent loc _, s) => (.silent va loc, s)

/-! ## Graph nodes (R414 to R416, R433) -/

def State.node? (s : State) (core n : Nat) : Option Node := smGet? (s.core core).nodes n
def State.setNode (s : State) (core n : Nat) (x : Node) : State := s.modCore core fun k => { k with nodes := smSet k.nodes n x }
def State.dropNode (s : State) (core n : Nat) : State := s.modCore core fun k => { k with nodes := smErase k.nodes n }

/-- Why words can not be read at their home: a page fault with its reason, a denial, or a module that does not answer. -/
inductive HomeStop where
  | fault (sp : Span) (reason : Nat)
  | deny
  | silent (loc : Nat)
deriving DecidableEq, Repr

/-- Read `n` words at home in a context, page by page, or what the first unreadable word meets. -/
def State.homeRead (s : State) (core ctx va : Nat) : Nat → Except HomeStop (List CW) × State
  | 0 => (.ok [], s)
  | n + 1 =>
    match s.reach core ctx (va % 2 ^ 72) .load with
    | (.page p, s) =>
      let s := s.passCache core p.loc
      let w := s.homeWord p.loc
      match s.homeRead core ctx (va + 4) n with
      | (.ok ws, s) => (.ok (w :: ws), s)
      | r => r
    | (.fault reason level, s) => (.error (.fault ⟨ctx, spanBase level (va % 2 ^ 72), level⟩ reason), s)
    | (.deny _, s) => (.error .deny, s)
    | (.silent loc _, s) => (.error (.silent loc), s)

/-- Post the PAGE record of a node's append (log entry 18 names its SOURCE and UNIT). -/
def State.nodeWait (s : State) (core : Nat) (x : Node) (sp : Span) (reason bits : Nat) : State :=
  let pl := s.wgPlace x.wg
  s.waitSpan sp ⟨1, 0, bits, reason, 0, sp.level, pl.lid, pl.wgId, unitOfCore core, sp.base, 0, 0, 0, 0⟩

/-- Try the append of a launched LAUNCH node: its record is read and appended; it stays due while the queue is full, a page is served or a
module does not answer, and is given up where it can not be made (R416, R366, R485; log entry 18). -/
def State.nodeAppend (s : State) (core n : Nat) : State :=
  match s.node? core n with
  | none => s
  | some x =>
    if !x.due then s
    else if !(s.lq x.lq).takes x.ctx then s.setNode core n { x with due := false, wait := none }
    else match s.homeRead core x.ctx x.record 64 with
      | (.error (.fault sp reason), s) => (s.setNode core n { x with wait := some sp }).nodeWait core x sp reason 0
      | (.error .deny, s) => s.setNode core n { x with due := false, wait := none }
      | (.error (.silent loc), s) => match s.waited (.node core n) core loc with
        | (true, s) => s.setNode core n { x with due := false, wait := none }
        | (false, s) => s.setNode core n { x with wait := none }
      | (.ok ws, s) => match s.append core x.lq ws x.pub (if n < orphanBase then some (core, n) else none) with
        | (.made, s) => s.setNode core n { x with due := false, wait := none }
        | (.full, s) => s.setNode core n { x with wait := none }
        | (.closed, s) => s.setNode core n { x with due := false, wait := none }
        | (.fault sp reason _, s) => (s.setNode core n { x with wait := some sp }).nodeWait core x sp reason 1
        | (.denied _, s) => s.setNode core n { x with due := false, wait := none }
        | (.silent _ loc, s) => match s.waited (.node core n) core loc with
          | (true, s) => (s.doubt loc 64).setNode core n { x with due := false, wait := none }
          | (false, s) => s.setNode core n { x with wait := none }

/-- A LAUNCH node whose workgroup has ended goes once its append is made or given up (R434). -/
def State.dropOrphans (s : State) (core : Nat) : State :=
  if (s.core core).nodes.any fun (n, x) => decide (orphanBase ≤ n) && !x.due then
    s.modCore core fun k => { k with nodes := k.nodes.filter fun (n, x) => decide (n < orphanBase) || x.due }
  else s

/-- Due appends to a queue whose HEAD has advanced or whose context's page has been served. -/
def State.retryNodes (s : State) (p : Node → Bool) : State :=
  (List.range 288).foldl (fun s c =>
    (((s.core c).nodes.filter fun (_, x) => x.due && p x).foldl (fun s (n, _) => s.nodeAppend c n) s).dropOrphans c) s

/-- The flag arrival of a completing node: now, or held while its workgroup is not resident (R434). -/
def State.nodeArrive (s : State) (core w flag : Nat) : State :=
  match s.wg? w with
  | some g =>
    if g.status = .resident then s.flagArrive w flag
    else s.modCore core fun k => { k with heldFlags := k.heldFlags ++ [(w, flag)] }
  | none => s

/-- A node that completes hands its set to those of its successors that still count (R297). -/
def State.passPub (s : State) (core w : Nat) (pub : RSet) (succs : List Nat) : State :=
  succs.foldl (fun s n => match s.node? core n with
    | some y => if y.wg = w ∧ y.state = .held ∧ y.count ≠ 0 then s.setNode core n { y with pub := y.pub.merge pub } else s
    | none => s) s

/-- A completing node arrives at its flag, hands on its set and becomes free (R297, R416). -/
def State.finishNode (s : State) (core n : Nat) (x : Node) (pub : RSet) : State :=
  let s := s.dropNode core n
  let s := match x.flag with
    | some f => s.nodeArrive core x.wg f
    | none => s
  s.passPub core x.wg pub x.succs

/-- Apply decrements one at a time; a node that reaches 0 launches, and a FLAG node completes at once, which decrements its
successors (R415, R416). Each node completes at most once, so the fuel of `nodeFuel` suffices. -/
def State.nodeDecs (s : State) (core w : Nat) : Nat → List Nat → State
  | 0, _ => s
  | _ + 1, [] => s
  | fuel + 1, n :: rest =>
    match s.node? core n with
    | none => s.nodeDecs core w fuel rest
    | some x =>
      if x.wg ≠ w ∨ x.state ≠ .held ∨ x.count = 0 then s.nodeDecs core w fuel rest
      else if x.count ≠ 1 then (s.setNode core n { x with count := x.count - 1 }).nodeDecs core w fuel rest
      else if x.launchKind then
        ((s.setNode core n { x with count := 0, state := .launched, due := true }).nodeAppend core n).nodeDecs core w fuel rest
      else
        (s.finishNode core n x x.pub).nodeDecs core w fuel (x.succs ++ rest)

/-- Decrements that one cascade may make: one, and four for each of 64 nodes. -/
def nodeFuel : Nat := 320

/-- One `gsig`: its release's publication joins the node's set (R297), and the count goes down by 1 (R415). -/
def State.gsig (s : State) (core w n : Nat) : State :=
  match s.wg? w with
  | some g => (s.passPub core w (g.publication w) [n]).nodeDecs core w nodeFuel [n]
  | none => s

/-- A LAUNCH node completes when its launch does, whose workgroups have published `pub` (R297, R416). -/
def State.completeNode (s : State) (core n : Nat) (pub : RSet) : State :=
  match s.node? core n with
  | some x =>
    if x.state = .launched then (s.finishNode core n x (x.pub.merge pub)).nodeDecs core x.wg nodeFuel x.succs else s
  | none => s

/-! ## Completion signals (R355) -/

/-- The signal of an engine command that has completed or been abandoned: an arrival at a phase flag, or one `gsig` (R355, R415). -/
def State.signal (s : State) (core w ck tgt : Nat) : State :=
  if ck = 1 then s.flagArrive w tgt
  else if ck = 2 then
    let pl := s.wgPlace w
    let (_, s) := s.release pl .dev fun _ => false
    (s.gsig core w tgt).modWg w Wg.advance
  else s

/-! ## Instructions that act once for the issue -/

/-- What a release of an agent publishes, before it advances the region (R297). -/
def State.publication (s : State) (pl : Place) : RSet :=
  let (region, set) := s.published pl
  if pl.lantern then set else { entries := (pl.wg, region) :: set.entries, sat := set.sat }

/-- Read operands of the elected lane; a bad word holds every active lane alike (R536); `k` gets their values. -/
def State.onceRead (s : State) (f : Frame) (src extra : List Opnd) (k : State → List Nat → State) : State :=
  s.guarded f src extra fun s =>
    let once := f.get f.elected src
    let s' := s.charge (.core f.pl.core) once.corr once.unc 0
    match once.vals with
    | .error w => s'.allLanes f (.lcc 0 w)
    | .ok vs => k s' vs

/-- `pfarrive`, `pfwait`, `pftest`: the flag's number and phase bit, after the checks all three make (R417 to R419). -/
def State.flagOp (s : State) (f : Frame) (a : Nat) (extra : List Opnd) (write : Bool) (k : State → Nat → Bool → Word → State) : State :=
  s.onceRead f [.s a] extra fun s vs =>
    let flag := val vs 0 % 256
    match s.wg? f.pl.wg with
    | none => s
    | some g =>
      if !flagInside flag g.sp then s.allLanes f (.at_ causeAccess (if write then 1 else 0) (4 * flag))
      else
        let s := s.flagNow f.pl.wg flag
        let x := (s.scratchOf f.pl.wg).1.word (4 * flag)
        let (c, u) := tally [x]
        let s := s.charge (.core f.pl.core) c u 0
        match (lccCheck x).data? with
        | none => s.allLanes f (.lcc (4 * flag) x)
        | some d => k s flag ((val vs 0).testBit 8) d

/-- R418: one arrival. -/
def execPfarrive (m : Mods) (a : BitVec 6) (s : State) : Host.Outcome State Fault Refusal :=
  coded m false (fun f s => s.flagOp f a.toNat [] true fun s flag _ d =>
    let (_, s) := s.release f.pl .wg f.mine
    let mem := (s.scratchOf f.pl.wg).1
    (s.setScratch f.pl.wg (mem.setWord (4 * flag) (CW.make (flagNext d)))).goOn f) s

/-- R419: the path waits while the phase is the one named; when it goes on, the pause-loop count starts afresh (R473). -/
def execPfwait (m : Mods) (a : BitVec 6) (s : State) : Host.Outcome State Fault Refusal :=
  coded m false (fun f s => s.flagOp f a.toNat [] false fun s flag phase d =>
    if flagPhase d != phase then (s.endPause f).goOn f
    else s.retire s f ⟨[], [], some [⟨f.i.pc, f.i.pri, f.i.lanes, .pfwait flag phase, 0⟩]⟩) s

/-- R419. -/
def execPftest (m : Mods) (d : BitVec 3) (a : BitVec 6) (s : State) : Host.Outcome State Fault Refusal :=
  coded m false (fun f s => s.flagOp f a.toNat [.s (64 + d.toNat)] false fun s _ phase x =>
    (s.setMask f d.toNat f.active (if flagPhase x != phase then f.active else 0)).goOn f) s

/-! ## `gnode`, `gdep`, `gsig` (R414, R415) -/

/-- Whether a node specification is malformed (R414). -/
def nodeMalformed (v sp : Nat) : Bool :=
  bits v 64 8 != 0 || bits v 48 7 != 0 || bits v 4 8 != 0 || decide (2 ≤ bits v 18 2)
    || (v.testBit 55 && !flagInside (bits v 56 8) sp)

/-- The successors of a specification. -/
def nodeSuccs (v : Nat) : List Nat :=
  ((List.range 4).filter fun k => v.testBit (20 + 7 * k + 6)).map fun k => bits v (20 + 7 * k) 6

/-- All ones in an s register. -/
def allOnes72 : Nat := 2 ^ 72 - 1

/-- R414: claims the lowest free node; in a section it writes all ones (R406). -/
def execGnode (m : Mods) (d a : BitVec 6) (s : State) : Host.Outcome State Fault Refusal :=
  coded m true (fun f s =>
    s.onceRead f [.s a.toNat] [.s d.toNat] fun s vs =>
      let v := val vs 0
      let done := fun (s : State) (n : Nat) => (s.results f false (f.put f.elected (.s d.toNat) n)).goOn f
      match f.lantern, s.wg? f.pl.wg with
      | true, _ => done s allOnes72
      | false, none => done s allOnes72
      | false, some g =>
        if nodeMalformed v g.sp then s.wholeActive f causeShape
        else
          let claim := fun (s : State) (addr : Nat) =>
            match smFree (s.core f.pl.core).nodes 64 with
            | none => done s allOnes72
            | some n =>
              let x : Node := ⟨.held, f.pl.wg, bits v 18 2 == 1, bits v 12 6, if v.testBit 55 then some (bits v 56 8) else none,
                nodeSuccs v, bits v 0 4, addr, f.pl.ctx, false, none, RSet.empty⟩
              if bits v 0 4 = 0 then
                done ((s.setNode f.pl.core n { x with count := 1 }).nodeDecs f.pl.core f.pl.wg nodeFuel [n]) n
              else done (s.setNode f.pl.core n x) n
          if bits v 18 2 = 1 then s.onceRead f [.s (a.toNat + 1)] [] fun s us => claim s (val us 0)
          else claim s 0) s

/-- R415: makes one node a successor of another; both must be held by the workgroup. -/
def execGdep (m : Mods) (a b : BitVec 6) (s : State) : Host.Outcome State Fault Refusal :=
  coded m true (fun f s =>
    if f.lantern then s.goOn f
    else s.onceRead f [.s a.toNat, .s b.toNat] [] fun s vs =>
      let na := val vs 0 % 2 ^ 64
      let nb := val vs 1 % 2 ^ 64
      match s.node? f.pl.core na, s.node? f.pl.core nb with
      | some x, some y =>
        if x.wg ≠ f.pl.wg ∨ y.wg ≠ f.pl.wg ∨ y.state ≠ .held ∨ 4 ≤ x.succs.length ∨ y.count = 15 then s.wholeActive f causeShape
        else if x.state ≠ .held then s.goOn f
        else
          let s := s.setNode f.pl.core na { x with succs := x.succs ++ [nb] }
          let y := (s.node? f.pl.core nb).getD y
          (s.setNode f.pl.core nb { y with count := y.count + 1 }).goOn f
      | _, _ => s.wholeActive f causeShape) s

/-- R415: one decrement, with a release at device scope. -/
def execGsig (m : Mods) (a : BitVec 6) (s : State) : Host.Outcome State Fault Refusal :=
  coded m true (fun f s =>
    if f.lantern then s.goOn f
    else s.onceRead f [.s a.toNat] [] fun s vs =>
      let (_, s) := s.release f.pl .dev f.mine
      ((s.gsig f.pl.core f.pl.wg (val vs 0 % 2 ^ 64)).advanceRegion f.pl .dev).goOn f) s

/-! ## `launch` and `trig` (R410, R411) -/

/-- The pages of a 256-byte record, each translated once: the spans that fault with their reasons, or the first address that is denied or
whose module does not answer, with what that comes to. -/
def State.recordPages (s : State) (f : Frame) (va : Nat) : List Nat → List (Span × Nat) × Option LaneOut × State
  | [] => ([], none, s)
  | off :: rest =>
    let a := (va + off) % 2 ^ 72
    match s.reach f.pl.core f.pl.ctx a .load with
    | (.page _, s) => s.recordPages f va rest
    | (.fault reason level, s) =>
      let (sps, d, s) := s.recordPages f va rest
      let sp : Span := ⟨f.pl.ctx, spanBase level a, level⟩
      (if sps.any (·.1 == sp) then sps else (sp, reason) :: sps, d, s)
    | (.deny bits, s) => ([], some (.fault (.at_ causeAccess bits a)), s)
    | (.silent loc bits, s) => let (o, s) := s.unanswered f a loc 4 bits; ([], some o, s)

/-- The plain reads of a record, word by word (R410 step 3); the address of a word that races. -/
def State.readRecord (s : State) (f : Frame) (va : Nat) : Nat → Except Nat (List CW) × State
  | 0 => (.ok [], s)
  | n + 1 =>
    match s.reach f.pl.core f.pl.ctx (va % 2 ^ 72) .load with
    | (.page p, s) =>
      let s := if p.rd then s.drainChecked (wordLoc p.loc) 1 else s
      if s.raced f .plain p 1 then (.error (va % 2 ^ 72), s)
      else
        let (w, _, s) := s.readMany f .plain p f.elected (wordLoc p.loc) 1
        match s.readRecord f (va + 4) n with
        | (.ok ws, s) => (.ok (w ++ ws), s)
        | r => r
    | (_, s) => (.error (va % 2 ^ 72), s)

/-- R410. A page fault parks the active lanes, as R302 has it, and not the lanes of the path that the prefix leaves out (log entry 55). -/
def execLaunch (m : Mods) (a q : BitVec 6) (s : State) : Host.Outcome State Fault Refusal :=
  coded m true (fun f s0 =>
    s0.onceRead f [.s a.toNat] [] fun s vs =>
      let va := val vs 0
      let lq := s.lq q.toNat
      if va % 64 ≠ 0 then s.allLanes f (.at_ causeAlign 0 va)
      else if !lq.takes f.pl.ctx then s.allLanes f (.at_ causeAccess 1 va)
      else
        let (sps, denied, s) := s.recordPages f va [0, 64, 128, 192]
        match denied, sps with
        | some (.fault c), _ => s.allLanes f c
        | some (.park r), _ => s0.retire s f ⟨[], f.lanes.map fun l => (l, r), none⟩
        | some (.done _), _ => s
        | none, _ :: _ => s0.retire s f ⟨[], f.lanes.map fun l => (l, .page sps va 0), none⟩
        | none, [] =>
          match s.readRecord f va 64 with
          | (.error addr, s) => s.allLanes f (.at_ causeRace 0 addr)
          | (.ok ws, s) =>
            if lq.slots ≤ lq.pending then s0
            else
              let (_, s) := s.release f.pl .dev f.mine
              let pub := s.publication f.pl
              let s := s.advanceRegion f.pl .dev
              match s.append f.pl.core q.toNat ws pub none with
              | (.made, s) => s.goOn f
              | (.full, _) => s0
              | (.closed, s) => s.allLanes f (.at_ causeAccess 1 va)
              | (.denied addr, s) => s.allLanes f (.at_ causeAccess 1 addr)
              | (.silent addr loc, s) => match s.unanswered f addr loc 256 1 with
                | (.fault c, s) => s.allLanes f c
                | (.park r, s) => s0.retire s f ⟨[], f.lanes.map fun l => (l, r), none⟩
                | (.done _, s) => s
              | (.fault sp reason addr, s) => s0.retire s f ⟨[], f.lanes.map fun l => (l, .slot sp reason addr), none⟩) s

/-- R411: the first `trig` of a workgroup counts for its dependants; every one releases at device scope. No effect in a section (R406). -/
def execTrig (m : Mods) (s : State) : Host.Outcome State Fault Refusal :=
  coded m true (fun f s =>
    if f.lantern then s.goOn f
    else s.masked f fun s =>
      let (_, s) := s.release f.pl .dev f.mine
      let pub := s.publication f.pl
      let s := s.advanceRegion f.pl .dev
      let s := match s.wg? f.pl.wg with
        | some g =>
          if g.triggered then s
          else ((s.setWg f.pl.wg { g with triggered := true }).modLaunch f.pl.launch fun l =>
            { l with triggered := l.triggered ++ [f.pl.wgId], trigPub := l.trigPub.merge pub }).checkEligible
        | none => s
      s.goOn f) s

end Sys2Proof.Machine
end

