-- ==== Sys2Proof/Machine/Engines.lean ====
section
/-!
DEFINITION. Sys2Proof/Machine/Engines.lean: what the matrix engine and the copy engine share: their sub-queues (spec R334, R382), one
word read or written on an engine path (R285, R340, R349, R353, R413), suspension on page faults (R359), and kind D causes (R163, R360).
-/

namespace Sys2Proof.Machine

/-! ## Sub-queues -/

/-- Entries a sub-queue holds (R334, R382). -/
def subQueueSize : Nat := 8

def Core.queues (k : Core) (copy : Bool) : List (List EngEntry) := if copy then k.copyQ else k.matrixQ

def Core.setQueues (k : Core) (copy : Bool) (qs : List (List EngEntry)) : Core :=
  if copy then { k with copyQ := qs } else { k with matrixQ := qs }

def State.subQueue (s : State) (copy : Bool) (core q : Nat) : List EngEntry := ((s.core core).queues copy).getD q []

def State.setSubQueue (s : State) (copy : Bool) (core q : Nat) (es : List EngEntry) : State :=
  s.modCore core fun k => k.setQueues copy ((k.queues copy).set q es)

/-- Change the head of a sub-queue. -/
def State.modHead (s : State) (copy : Bool) (core q : Nat) (f : EngEntry → EngEntry) : State :=
  match s.subQueue copy core q with
  | [] => s
  | e :: es => s.setSubQueue copy core q (f e :: es)

/-- A command enters the sub-queue of its beam's quarter, and the path goes on; while the sub-queue is full the path stays where it is
(R333, R334, R382). -/
def State.submit (s0 s : State) (f : Frame) (copy : Bool) (op : EngOp) (ck tgt : Nat) : State :=
  let q := f.b.quarter
  let es := s.subQueue copy f.pl.core q
  if subQueueSize ≤ es.length then s0
  else
    let e : EngEntry := ⟨f.pl.wg, f.b.number, f.elected, f.i.pc, op, ck, tgt, 0, s.engSeq, 0, [], []⟩
    (({ s with engSeq := s.engSeq + 1 }).setSubQueue copy f.pl.core q (es ++ [e])).goOn f

/-- Whether a completion target is impossible: CK = 0b11, a node above 63, a flag beyond the scratchpad (R338, R355). -/
def badTarget (ck tgt sp : Nat) : Bool := ck == 3 || (ck == 2 && decide (63 < tgt)) || (ck == 1 && !flagInside tgt sp)

/-- SOURCE of an engine's records (R384). -/
def engineSource (copy : Bool) : Nat := if copy then 1 else 2

/-! ## Kind D causes (R163, R165, R360) -/

/-- The pending cause that is delivered first: the lowest code, of these the oldest (R165). -/
def firstPendD : List PendD → Option PendD
  | [] => none
  | d :: ds => match firstPendD ds with
    | none => some d
    | some x => if d.cause.code ≤ x.cause.code then some d else some x

/-- Whether a beam has an entry that its primary port can come to issue: none while it waits for an extended block (R201). -/
def Beam.canRun (b : Beam) : Bool := (firstOf b.frontier).isSome && !b.frontier.any fun e => e.kind == .extAcq

/-- Deliver a beam's pending kind D cause of the lowest code: in place of the issue of its first entry, or, where nothing can run, on every
lane that is neither exited nor parked (R163, R165). It stays pending while a handler runs, while the paths that can run wait for results
(R80), while every lane is parked (log entry 46), while a full save stops the workgroup (R172), and where a fatal fault has waited to trap
(R160). -/
def State.deliverD (s : State) (a : Agent) : State :=
  match s.beam? a, s.nextFatal a with
  | none, _ => s
  | some _, some s' => s'
  | some b, none =>
    let path := match b.entry? false with
      | some e => if b.canRun then e.lanes else maskSub b.live (parkedLanes b.frontier)
      | none => if b.canRun then 0 else maskSub b.live (parkedLanes b.frontier)
    match firstPendD b.pendD with
    | none => s
    | some d =>
      if b.inh ∨ path = 0 ∨ !s.runs a then s
      else (s.modBeam a fun b => { b with pendD := b.pendD.erase d }).trap a d.cause 0 path d.pc false d.source

/-- The beam of a workgroup that takes a kind D cause of an issuing beam: that beam, or the lowest-numbered one, with an unexited lane
(R360). -/
def Wg.takesD (g : Wg) (beam : Nat) : Option Nat :=
  match smGet? g.beams beam with
  | some b => if b.live ≠ 0 then some beam else (g.beams.find? fun (_, b) => b.live != 0).map (·.1)
  | none => (g.beams.find? fun (_, b) => b.live != 0).map (·.1)

/-- A kind D cause of a command becomes pending at its beam, and is delivered at once where nothing there can run; with no beam left,
the workgroup is terminated with the cause in the record, though it may have ended, unless it has been terminated before (R163, R170,
R360). -/
def State.raiseD (s : State) (e : EngEntry) (c : Cause) (source : Nat) : State :=
  let c := { c with lanes := laneBit e.lane }
  match s.wg? e.wg with
  | none => s
  | some g =>
    match g.takesD e.beam with
    | some n =>
      let a := Agent.beam e.wg n
      let s := s.modBeam a fun b => { b with pendD := b.pendD ++ [⟨c, e.pc, source⟩] }
      if ((s.beam? a).map (·.canRun)).getD true then s else s.deliverD a
    | none => if g.fate.isSome then s else s.terminate e.wg (c.record e.pc source)

/-! ## The end of an entry (R355, R363) -/

/-- Path of an engine (R104). -/
def enginePath (copy : Bool) : Nat := if copy then 1 else 2

/-- The head of a sub-queue has completed or been abandoned: it leaves, the lines it wrote count for the releases that follow (R286), its
target is signalled, and an ended workgroup whose last entry it was leaves too. -/
def State.leaveQueue (s : State) (copy : Bool) (core q : Nat) : State :=
  match s.subQueue copy core q with
  | [] => s
  | e :: es =>
    let s := (s.setSubQueue copy core q es).share core fun f => flightOfWg e.wg f && f.path == enginePath copy
    let s := s.addUncovered (s.wgPlace e.wg) e.wrote
    (s.signal core e.wg e.ck e.tgt).reap e.wg

/-- Why an engine stops at an access: a kind D cause; page faults, each with its reason, address and access bits; or a module that does not
answer yet (R485). -/
inductive EngStop where
  | fault (c : Cause)
  | suspend (sps : List (Span × Nat × Nat × Nat))
  | wait
deriving DecidableEq, Repr

/-- The head of a sub-queue stops: it is abandoned with its cause, suspended with a record per span, or stays where it is (R358, R359,
R485). -/
def State.stopHead (s : State) (copy : Bool) (core q : Nat) (stop : EngStop) : State :=
  match s.subQueue copy core q with
  | [] => s
  | e :: _ =>
    match stop with
    | .wait => s
    | .fault c => (s.raiseD e c (engineSource copy)).leaveQueue copy core q
    | .suspend sps =>
      let pl := s.wgPlace e.wg
      let s := s.modHead copy core q fun e => { e with wait := sps.map fun (sp, _, va, bits) => (sp, va, bits) }
      sps.foldl (fun s (sp, reason, _, bits) =>
        s.waitSpan sp ⟨1, 0, bits, reason, engineSource copy, sp.level, pl.lid, pl.wgId, unitOfCore core, sp.base, e.pc, 0,
          laneBit e.lane, 0⟩) s

/-! ## One word on an engine path -/

def Access.engLoad : Access := ⟨true, false, false, true⟩
def Access.engStore : Access := ⟨false, true, false, true⟩

/-- A scratchpad offset of an engine access, where its word lies wholly inside (R244, R346). -/
def State.engSlot (s : State) (wg : Nat) (write : Bool) (off : Int) : Except EngStop Nat :=
  if off < 0 ∨ (s.scratchOf wg).2 < off.toNat + 4 then
    .error (.fault (.at_ causeAccess (4 + (if write then 1 else 0)) (if off < 0 then wrap 32 off else off.toNat)))
  else .ok off.toNat

/-- What an engine's access of `n` words, for the head of sub-queue `q`, to a module that does not answer comes to (R485). -/
def State.engSilent (s : State) (path q : Nat) (pl : Place) (write : Bool) (va loc n bits : Nat) : EngStop × State :=
  match s.waited (.engine pl.core path q) pl.core loc with
  | (true, s) => (.fault (.at_ causeAccess (bits + 8) va), if write then s.doubt loc n else s)
  | (false, s) => (.wait, s)

/-- Reach one word of memory on an engine path: translated, its rights judged, and race-checked on a page with RD = 1 (R259, R298). -/
def State.engReach (s : State) (path q : Nat) (pl : Place) (write : Bool) (va : Nat) : Except EngStop Page × State :=
  let acc := if write then Access.engStore else Access.engLoad
  match s.reach pl.core pl.ctx va acc with
  | (.page p, s) =>
    let s := if p.rd then s.drainChecked (wordLoc p.loc) 1 else s
    if p.rd && s.races pl.wg p.loc then (.error (.fault (.at_ causeRace 0 va)), s) else (.ok p, s)
  | (.deny bits, s) => (.error (.fault (.at_ causeAccess bits va)), s)
  | (.silent loc bits, s) => let (x, s) := s.engSilent path q pl write va loc 1 bits; (.error x, s)
  | (.fault reason level, s) => (.error (.suspend [(⟨pl.ctx, spanBase level va, level⟩, reason, va, acc.bits)]), s)

/-- Read one word on an engine path for the head of sub-queue `q`, unchecked: its own path's writes to it come first, of an overlapping copy
too (R413; log entry 56), and what other paths have under way is not seen: the word is then the one that the location holds meanwhile (R31,
R249, R340). -/
def State.engRead (s : State) (copy : Bool) (q : Nat) (pl : Place) (mem : Bool) (addr : Int) : Except EngStop CW × State :=
  let path := enginePath copy
  if mem then
    match s.engReach path q pl false (wrap 72 addr) with
    | (.ok p, s) =>
      let s := (s.drain pl.core fun f => f.path == path && f.loc / 4 == p.loc / 4).sliceRead p.loc p.alloc
      (.ok (s.homeWord p.loc), s)
    | (.error x, s) => (.error x, s)
  else match s.engSlot pl.wg false addr with
    | .ok off =>
      let (w, s) := s.poolRead pl.wg path off
      (.ok w, s)
    | .error x => (.error x, s)

/-- Write one word on an engine path, with its code: it leaves for its home point, as a plain checked write (R249, R295), and joins the lines
that the path's next `xfence` moves (R285) and, where an L1 may hold it, those that the entry has written (R286); `head` is the sub-queue
it is the head of. -/
def State.engWrite (s : State) (copy : Bool) (head : Nat) (pl : Place) (mem : Bool) (addr : Int) (w : CW) : Except EngStop Unit × State :=
  if mem then
    match s.engReach (enginePath copy) head pl true (wrap 72 addr) with
    | (.ok p, s) =>
      let f : Flight := { deviceWrite p.loc w with
        tag := if p.rd then s.tagOf pl.wg else none, launches := [pl.launch], wgs := [pl.wg], path := enginePath copy, alloc := p.writeAlloc }
      let s := s.send pl.core f
      let s := if p.signed p.loc then s.modHead copy pl.core head fun e =>
          { e with wrote := if e.wrote.contains (p.loc / 64) then e.wrote else e.wrote ++ [p.loc / 64] }
        else s
      (.ok (), if isSystem p.loc then s else s.modWg pl.wg fun g =>
        if copy then { g with sigCopy := g.sigCopy ||| lineSig (p.loc / 64) }
        else { g with sigMatrix := g.sigMatrix ||| lineSig (p.loc / 64) })
    | (.error x, s) => (.error x, s)
  else match s.engSlot pl.wg true addr with
    | .ok off => (.ok (), s.poolWrite pl.wg (enginePath copy) off w)
    | .error x => (.error x, s)

/-! ## Checked reads (R262, R267) -/

/-- What a step of the head of sub-queue `q` works on: the state; the words it has read whose codes were not clean, each with the place it
stands in (0 scratchpad, 1 memory, 2 a register, 3 a tile), so that it is counted once for the step; the variances it has clamped (R350);
whether it reads operands of a product, and whether one of them was stale, so that its product is undefined (R32, R524, R535). -/
structure EngWork where
  s : State
  q : Nat
  bad : List ((Nat × Int) × CW)
  nvc : Nat
  operands : Bool
  stale : Bool

/-- Check a word read from a place; `taddr` is what LCC_FAULT reports (R358). -/
def EngWork.check (x : EngWork) (key : Nat × Int) (taddr : Nat) (w : CW) : Except EngStop Word × EngWork :=
  let c := lccCheck w
  let x := match c with
    | .ok _ => x
    | _ => if x.bad.any (·.1 == key) then x else { x with bad := x.bad ++ [(key, w)] }
  match c.data? with
  | some d => (.ok d, x)
  | none => (.error (.fault (.lcc taddr w)), x)

/-- Read and check one word. -/
def EngWork.word (x : EngWork) (pl : Place) (mem : Bool) (addr : Int) : Except EngStop Word × EngWork :=
  let stale := x.stale || (x.operands && !mem && x.s.copyUnderWay pl.wg addr.toNat)
  match x.s.engRead false x.q pl mem addr with
  | (.ok w, s) => ({ x with s := s, stale := stale }).check (if mem then 1 else 0, addr) (wrap 72 addr) w
  | (.error e, s) => (.error e, { x with s := s })

/-- Read and check `n` consecutive words. -/
def EngWork.words (x : EngWork) (pl : Place) (mem : Bool) (addr : Int) : Nat → Except EngStop (List Word) × EngWork
  | 0 => (.ok [], x)
  | n + 1 =>
    match x.word pl mem addr with
    | (.error e, x) => (.error e, x)
    | (.ok w, x) => match x.words pl mem (addr + 4) n with
      | (.ok ws, x) => (.ok (w :: ws), x)
      | (.error e, x) => (.error e, x)

/-- Read and check rows of `n` words at the given addresses. -/
def EngWork.rows (x : EngWork) (pl : Place) (mem : Bool) (n : Nat) : List Int → Except EngStop (List (List Word)) × EngWork
  | [] => (.ok [], x)
  | a :: as =>
    match x.words pl mem a n with
    | (.error e, x) => (.error e, x)
    | (.ok ws, x) => match x.rows pl mem n as with
      | (.ok r, x) => (.ok (ws :: r), x)
      | (.error e, x) => (.error e, x)

/-- Check words that stand in registers or in a tile: LCC_FAULT reports address 0. -/
def EngWork.checks (x : EngWork) : List ((Nat × Int) × CW) → Except EngStop (List Word) × EngWork
  | [] => (.ok [], x)
  | (k, w) :: rest =>
    match x.check k 0 w with
    | (.error e, x) => (.error e, x)
    | (.ok d, x) => match x.checks rest with
      | (.ok ds, x) => (.ok (d :: ds), x)
      | (.error e, x) => (.error e, x)

/-- Charge what the step's checks counted to the core (R267, R469). -/
def EngWork.settle (x : EngWork) (core : Nat) : State :=
  let (c, u) := tally (x.bad.map (·.2))
  x.s.charge (.core core) c u x.nvc

end Sys2Proof.Machine
end

