-- ==== Sys2Proof/Machine/Copy.lean ====
section
/-!
DEFINITION. Sys2Proof/Machine/Copy.lean: the copy engine (spec R382, R412, R413).
-/

namespace Sys2Proof.Machine

/-- The checks of R412 on the destination, the source, the control word and the geometry word. -/
def copyMalformed (d a c g sp : Nat) : Bool :=
  bits c 64 8 != 0 || bits c 0 20 != 0 || bits g 64 8 != 0 || badTarget (bits c 22 2) (bits c 24 8) sp || bits g 0 16 == 0
    || bits c 32 32 % 4 != 0 || d % 4 != 0 || a % 4 != 0 || bits g 40 24 % 4 != 0 || bits g 16 24 % 4 != 0

/-- `cpy` and `cpy2d` at issue (R412); a `cpy` is a `cpy2d` of one row. -/
def copyIssue (twoD : Bool) (d a b : BitVec 6) (f : Frame) (s0 : State) : State :=
  s0.onceRead f ([.s d.toNat, .s a.toNat, .s b.toNat] ++ (if twoD then [.s (b.toNat + 1)] else [])) [] fun s vs =>
    let c := val vs 2
    let g := if twoD then val vs 3 else 1
    let sp := ((s.wg? f.pl.wg).map (·.sp)).getD 0
    if copyMalformed (val vs 0) (val vs 1) c g sp then s.wholeActive f causeShape
    else
      let dsp := c.testBit 21
      let ssp := c.testBit 20
      s0.submit s f true
        (.copy (if dsp then val vs 0 % 2 ^ 64 else val vs 0) (if ssp then val vs 1 % 2 ^ 64 else val vs 1) (bits c 32 32) (bits g 0 16)
          (signedBits 24 (bits g 40 24)) (signedBits 24 (bits g 16 24)) dsp ssp) (bits c 22 2) (bits c 24 8)

/-- R412. -/
def execCpy (m : Mods) (d a b : BitVec 6) (s : State) : Host.Outcome State Fault Refusal := coded m false (copyIssue false d a b) s

/-- R412. -/
def execCpy2d (m : Mods) (d a b : BitVec 6) (s : State) : Host.Outcome State Fault Refusal := coded m false (copyIssue true d a b) s

/-- An address or a scratchpad offset of a row; an offset counts modulo 2^64 (R413). -/
def copyAddr (base row : Nat) (stride : Int) (off : Nat) (sp : Bool) : Int :=
  let a : Int := base + row * stride + off
  if sp then wrap 64 a else a

/-- Copy word `i` of a command: read, then written, with its code (R413). -/
def State.copyWord (s : State) (q : Nat) (pl : Place) (dst src len : Nat) (dstride sstride : Int) (dsp ssp : Bool) (i : Nat) :
    Except EngStop Unit × State :=
  let row := 4 * i / len
  let off := 4 * i % len
  match s.engRead true q pl (!ssp) (copyAddr src row sstride off ssp) with
  | (.error e, s) => (.error e, s)
  | (.ok w, s) => s.engWrite true q pl (!dsp) (copyAddr dst row dstride off dsp) w

/-- The head of a sub-queue leaves where its last word is done, or where there is none (R412: LEN 0 copies nothing and still signals). -/
def State.copyEnd (s : State) (core q : Nat) : State :=
  match s.subQueue true core q with
  | [] => s
  | e :: _ => match e.op with
    | .copy _ _ len rows _ _ _ _ => if len * rows ≤ 4 * e.step then s.leaveQueue true core q else s
    | _ => s

/-- Copy the next word of the head of a sub-queue, where one is left; false where an access stopped it. -/
def State.copyOne (s : State) (core q : Nat) : Bool × State :=
  match s.subQueue true core q with
  | [] => (true, s)
  | e :: _ => match e.op with
    | .copy dst src len rows dstride sstride dsp ssp =>
      if len * rows ≤ 4 * e.step then (true, s)
      else match s.copyWord q (s.wgPlace e.wg) dst src len dstride sstride dsp ssp e.step with
        | (.error stop, s) => (false, s.stopHead true core q stop)
        | (.ok _, s) => (true, s.modHead true core q fun e => { e with step := e.step + 1 })
    | _ => (true, s)

/-- Run up to `n` words of a head (R413). -/
def State.copyRun (s : State) (core q : Nat) : Nat → Bool × State
  | 0 => (true, s)
  | n + 1 => match s.copyOne core q with
    | (true, s) => s.copyRun core q n
    | (false, s) => (false, s)

/-- Whether the head of a sub-queue waits for page service (R382). -/
def State.headWaits (s : State) (copy : Bool) (core q : Nat) : Bool :=
  match s.subQueue copy core q with
  | [] => true
  | e :: _ => !e.wait.isEmpty

/-- R413: the engine runs a head for some words; the number of words, like every moment, is the device's (log entry 1). -/
def execCopyCommandRun (core quarter words : Nat) (s : State) : Host.Outcome State Fault Refusal :=
  .next (if isLantern core || s.headWaits true core quarter then s
    else match s.copyRun core quarter words with
      | (true, s) => s.copyEnd core quarter
      | (false, s) => s)

end Sys2Proof.Machine
end

