-- ==== Sys2Proof/Machine/Sections.lean ====
section
/-!
DEFINITION. Sys2Proof/Machine/Sections.lean: shipped sections (spec R380, R381, R394 to R409, R435, R436, R486, R487): sending a
request, its way to a lantern core, the section's start and its ends, and the way of its result to a token slot.
-/

namespace Sys2Proof.Machine

/-! ## The lodestar table (R435, R486) -/

/-- The fold of a lock's key. -/
def starFold (key : Nat) : Nat :=
  bits key 0 12 ^^^ bits key 12 12 ^^^ bits key 24 12 ^^^ bits key 36 12 ^^^ bits key 48 12 ^^^ bits key 60 6

/-- Contents of a bucket of the main table. -/
def Module.star (m : Module) (b : Nat) : Nat := (smGet? m.lodestar b).getD (b % 128)

/-- Contents of bucket b of a die's sub-table. -/
def Module.sub (m : Module) (die b : Nat) : Nat := (smGet? m.substar (die * 512 + b)).getD (b % 16)

/-- Bucket number of a die's sub-table, as `starHold` numbers them. -/
def subBucket (die b : Nat) : Nat := 4096 + 512 * die + b

/-- Home of a lock: its lantern core, or 128 plus the module for a lock of another module; and the bucket that named it. -/
def State.lockHome (s : State) (p : Page) (va : Nat) : Nat × Option Nat :=
  if isSystem p.loc then
    if moduleOf p.loc = s.mod.number then
      let h := starFold (bits p.loc 6 52)
      (s.mod.star h % 128, some h)
    else (128 + moduleOf p.loc, none)
  else
    let h := starFold (bits va 6 66)
    if p.dpv then
      let b := h % 512 ^^^ h / 512
      (p.die * 16 + s.mod.sub p.die b % 16, some (subBucket p.die b))
    else (s.mod.star h % 128, some h)

/-! ## Token slots (R136, R137) -/

def Slot.free : Slot := ⟨.free, 0, 0, [], 0, 0, RSet.empty⟩

def Lane.slot (l : Lane) (t : Nat) : Slot := l.slots.getD t .free
def Lane.setSlot (l : Lane) (t : Nat) (x : Slot) : Lane := { l with slots := l.slots.set t x }

/-- Four result words; those beyond COUNT are zero (R136). -/
def Slot.word (x : Slot) (i : Nat) : CW := if i < x.count then x.res.getD i .zero else .zero

def SlotState.code : SlotState → Nat
  | .free => 0 | .pending => 1 | .done => 2

/-- The 32 bytes of a slot in the token save area (R136). -/
def Slot.record (x : Slot) : List CW :=
  (List.range 4).map x.word ++ freshWords 4 (x.state.code + x.status * 2 ^ 8 + x.count * 2 ^ 16)

/-- Physical address of a slot's record in a frame's token save area (R438). -/
def tokenAddr (e : CtxEntry) (frame thread slot : Nat) : Nat :=
  e.sfbase + frame * e.sfsize + e.sfsize - tokenArea + 288 * thread + 32 * slot

/-! ## Completing `ship.w` and `tkwait` (R397, R407) -/

/-- The cause of a section that did not end OK (R397). -/
def Slot.cause (x : Slot) : Cause :=
  if x.status / 64 = 1 then .at_ causeFaulted (x.status % 64) x.lock else .at_ causeOverrun 0 x.lock

/-- What collecting a slot writes. A `ship.w` writes COUNT result words; a `tkwait` writes the status word and four results, or, of a
FREE slot, 0x8000_0000 and zeros. -/
def Slot.collect (x : Slot) (slot l dst : Nat) : List RegWrite :=
  if slot = 8 then
    if x.status = 0 then (List.range x.count).map fun i => .v l (dst + i) (x.word i) else []
  else if x.state = .done then
    .v l dst (CW.make (.ofNat 32 (x.status + x.count * 256))) :: (List.range 4).map fun i => .v l (dst + 1 + i) (x.word i)
  else .v l dst (CW.make 0x80000000#32) :: (List.range 4).map fun i => .v l (dst + 1 + i) .zero

/-- The acquire of a completion: at the widest scope among the collected sections, with the sets their locks handed over (R273, R297). -/
def State.collectAcquire (s : State) (a : Agent) (xs : List Slot) : State :=
  if xs.isEmpty then s
  else
    let pl := s.place a
    let sc := scopeOf (xs.foldl (fun m x => max m x.scope) 0)
    let s := s.acquire pl sc
    (s.modWg pl.wg fun g => xs.foldl (fun g x => g.absorb x.pub) g).advanceRegion pl sc

/-- Write registers of a beam at once, or as outstanding results (R79). -/
def State.land (s : State) (a : Agent) (late : Bool) (ws : List RegWrite) : State :=
  s.modBeam a fun b =>
    if late then { b with outstanding := b.outstanding ++ ws.map fun w => ⟨w, w.lanes 0⟩ } else (b.writes ws).unlatch ws

/-- Complete a waiting `ship.w` or `tkwait` entry of a beam's current frontier, or of the kept one; what its lanes read comes after it (R273,
R278). -/
def State.finishToken (s : State) (a : Agent) (inKept : Bool) (e : Entry) (slot dst active : Nat) (zero : Bool) : State :=
  match s.beam? a with
  | none => s
  | some b =>
    let pl := s.place a
    let act := lanesOf (active &&& e.lanes) b.count
    let got := act.map fun l => (l, (b.lane l).slot slot)
    let writes := got.flatMap fun (l, x) => x.collect slot l dst
    let idle := lanesOf (maskSub e.lanes active) b.count
    let zeros : List RegWrite := if zero then
        idle.flatMap fun l => (List.range (if slot = 8 then 4 else 5)).map fun i => .v l (dst + i) .zero else []
    let bad := if slot = 8 then got.filter fun (_, x) => x.status != 0 else []
    let faults := bad.map fun (l, x) => (l, x.cause)
    let faulty := maskOf (bad.map (·.1))
    let s := s.land a (slot != 8 && !pl.lantern) (writes ++ zeros)
    let s := s.modBeam a fun b => act.foldl (fun b l => b.modLane l fun x => x.setSlot slot .free) b
    let s := s.collectAcquire a ((got.filter fun (_, x) => x.state == .done).map (·.2))
    let next := s.nextOf pl e.pc
    let swap := fun (fr : List Entry) =>
      placeEntries (fr.filter (· != e)) [.run next e.pri (maskSub e.lanes faulty) e.hold, .run e.pc e.pri faulty 0]
    let prefixed := next == e.pc + 8
    let s := s.modFrontier a fun b =>
      ((if inKept then { b with kept := b.kept.map swap } else { b with frontier := swap b.frontier } : Beam).forget e.lanes).unhold
    let s := if maskSub e.lanes faulty = 0 then s else s.modBeam a Beam.endPause
    match decide_ faults with
    | none => s
    | some c =>
      if inKept then faults.foldl (fun s (l, x) => s.raiseFatal a { x with lanes := laneBit l } e.pc prefixed) s
      else s.trap a c faulty e.lanes e.pc prefixed 0

/-- Whether a token wait is over: no waited slot is PENDING. -/
def Beam.tokenReady (b : Beam) (e : Entry) : Bool :=
  match e.kind with
  | .tkwait slot _ active _ => (lanesOf (active &&& e.lanes) b.count).all fun l => ((b.lane l).slot slot).state != .pending
  | _ => false

/-- The entry whose token wait is over and may complete: of the current frontier, or of the kept one where none of its lanes is on the
handler path (R426). -/
def Beam.readyToken (b : Beam) : Option (Bool × Entry) :=
  match b.frontier.find? b.tokenReady with
  | some e => some (false, e)
  | none =>
    let busy := b.frontier.foldl (fun m e => m ||| e.lanes) 0
    ((b.kept.getD []).find? fun e => b.tokenReady e && e.lanes &&& busy == 0).map fun e => (true, e)

/-- Complete every token wait of a beam that is over; where the full save has stopped it, at its redispatch. -/
def State.settleTokens (s : State) (a : Agent) : Nat → State
  | 0 => s
  | n + 1 =>
    match if s.saving a then none else (s.beam? a).bind Beam.readyToken with
    | some (kept, e) =>
      match e.kind with
      | .tkwait slot dst active zero => (s.finishToken a kept e slot dst active zero).settleTokens a n
      | _ => s
    | none => s

/-- Entries a beam's frontiers can hold. -/
def frontierSize : Nat := 64

/-! ## Sending (R394 to R398) -/

/-- One lane's request, sent at this clock of its core. -/
def Frame.request (f : Frame) (l n entry lock line slot scope dst d : Nat) (bucket : Option Nat) (pub : RSet) (now ordinal : Nat) :
    Request where
  ctx := f.pl.ctx
  wg := f.pl.wg
  lid := f.pl.lid
  beam := f.b.number
  lane := l
  thread := (f.b.lane l).thread
  core := f.pl.core
  entry := entry
  lock := lock
  line := line
  args := (List.range n).map fun i => f.b.vreg l (f.b.wb + d + i)
  slot := slot
  scope := scope
  dst := dst
  bucket := bucket
  resent := false
  nacked := false
  void := false
  ordinal := ordinal
  pub := pub
  module := none
  first := now
  sent := now

/-- The request of a lane, and its slot's new state. -/
def State.sendLane (s : State) (f : Frame) (home : Nat) (r : Request) : State :=
  let s := s.modBeam f.a fun b => b.modLane r.lane fun x => x.setSlot r.slot ⟨.pending, 0, 0, [], r.scope, r.lock, RSet.empty⟩
  { s with msgs := s.msgs ++ [.request home r] }

/-- The page of a lock as the sender's checks find it (R395 step 3); a module that does not answer is found out later (R485). -/
def State.lockPage (s : State) (f : Frame) (lock : Nat) : Except LaneOut Page × State :=
  match s.reach f.pl.core f.pl.ctx lock .atomic with
  | (.page p, s) => (.ok p, s)
  | (.deny bits, s) => (.error (.fault (.at_ causeAccess bits lock)), s)
  | (.silent _ _, s) => match s.translate f.pl.core f.pl.ctx lock with
    | (.leaf t, s) => (.ok (t.page lock), s)
    | (.fault reason level, s) =>
      (.error (.park (.page [(⟨f.pl.ctx, spanBase level lock, level⟩, reason)] lock Access.atomic.bits)), s)
  | (.fault reason level, s) =>
    (.error (.park (.page [(⟨f.pl.ctx, spanBase level lock, level⟩, reason)] lock Access.atomic.bits)), s)

/-- `ship.w` (slot 8) and `ship.t`: each active lane's checks, the release once for the issue, and the requests in ascending lane order
(R395). A request whose bucket a lodestar command holds does not leave: the path stays (R436). -/
def shipIssue (d : BitVec 7) (a : BitVec 6) (die : Bool) (n slot : Nat) (f : Frame) (s0 : State) : State :=
  let extra := Opnd.v d.toNat n :: (if slot = 8 then [.v d.toNat 4] else [])
  s0.onceRead f [.s a.toNat, .s (a.toNat + 1)] extra fun s vs =>
    let lock := val vs 0
    let entry := val vs 1
    let busy := f.lanes.filter fun l => slot != 8 && ((f.b.lane l).slot slot).state != .free
    let rest := f.lanes.filter fun l => !busy.contains l
    let busyF := busy.map fun l => (l, Cause.at_ causeBusy slot 0)
    let dst := f.b.wb + d.toNat
    let zeros : List RegWrite := if slot = 8 then f.zeroes (.v d.toNat 4) else []
    if rest.isEmpty then s.retire s f ⟨busyF, [], none⟩
    else if lock % 64 ≠ 0 then
      s.retire (s.results f false zeros) f ⟨busyF ++ rest.map fun l => (l, .at_ causeAlign 0 lock), [], none⟩
    else if entry % 4 ≠ 0 then
      s.retire (s.results f false zeros) f ⟨busyF ++ rest.map fun l => (l, .at_ causeAlign 0 entry), [], none⟩
    else match s.lockPage f lock with
      | (.error (.fault c), s) => s.retire (s.results f false zeros) f ⟨busyF ++ rest.map fun l => (l, c), [], none⟩
      | (.error (.park r), s) => s0.retire (s.results f false zeros) f ⟨busyF, rest.map fun l => (l, r), none⟩
      | (.error (.done _), s) => s
      | (.ok p, s) =>
        let (home, bucket) := s.lockHome p lock
        if (bucket.map fun b => s.mod.starHold.any (·.1 == b)).getD false then s0
        else
          let scope := if isSystem p.loc then 4 else if die && p.dpv && p.die == f.pl.die then 2 else 3
          let (_, s) := s.release f.pl (scopeOf scope) f.mine
          let pub := ((s.wg? f.pl.wg).map fun g => g.publication f.pl.wg).getD RSet.empty
          let s := s.advanceRegion f.pl (scopeOf scope)
          let now := s.clockAt f.pl.core
          let line := s.resolve p.loc / 64
          let s := rest.foldl (fun s l =>
            s.sendLane f home (f.request l n entry lock line slot scope dst d.toNat bucket pub now s.moves)) s
          if slot = 8 then
            s.retire s f ⟨[], [], some [⟨f.i.pc, f.i.pri, f.i.lanes, .tkwait 8 dst f.active f.p.z, 0⟩]⟩
          else s.retire s f ⟨busyF, [], none⟩

/-- R397. -/
def execShipW (m : Mods) (d : BitVec 7) (a : BitVec 6) (e : BitVec 1) (n : BitVec 3) (s : State) : Host.Outcome State Fault Refusal :=
  coded m false (shipIssue d a (e == 1) (n.toNat + 1) 8) s

/-- R395, R398. -/
def execShipT (m : Mods) (d : BitVec 7) (a : BitVec 6) (e : BitVec 1) (n k : BitVec 3) (s : State) :
    Host.Outcome State Fault Refusal :=
  coded m false (shipIssue d a (e == 1) (n.toNat + 1) k.toNat) s

/-- R407: the path waits while a named slot is PENDING, and collects when none is. -/
def execTkwait (m : Mods) (d : BitVec 7) (t : BitVec 3) (s : State) : Host.Outcome State Fault Refusal :=
  coded m true (fun f s =>
    s.guarded f [] [.v d.toNat 5] fun s =>
      let e : Entry := ⟨f.i.pc, f.i.pri, f.i.lanes, .tkwait t.toNat (f.b.wb + d.toNat) f.active f.p.z, if f.sw then f.i.lanes else 0⟩
      let s := s.retire s f ⟨[], [], some [e]⟩
      s.settleTokens f.a frontierSize) s

/-- R408. -/
def execTktest (m : Mods) (d t : BitVec 3) (s : State) : Host.Outcome State Fault Refusal :=
  coded m true (fun f s => s.maskOp f d.toNat [] [] fun l _ _ => ((f.b.lane l).slot t.toNat).state == .done) s

/-! ## The request at its lantern core (R380, R381) -/

/-- Requests a lantern core holds, the running one among them. -/
def Lantern.held (l : Lantern) : Nat := l.queue.length + (if l.running.isSome then 1 else 0)

/-- SERVE goes past void tickets to the next outstanding one, or to NEXT (R381). -/
def Lantern.pass (l : Lantern) : Nat → Lantern
  | 0 => l
  | n + 1 =>
    if l.serve = l.next ∨ l.outstanding.contains l.serve then l
    else ({ l with serve := (l.serve + 1) % 2 ^ 32, voids := l.voids.filter (· != l.serve) }).pass n

def Lantern.passVoids (l : Lantern) : Lantern := l.pass (l.voids.length + 1)

/-- A request is accepted. -/
def Lantern.accept (l : Lantern) (r : Request) : Lantern := { l with queue := l.queue ++ [r] }

/-- The lantern core that a request or a retry travels to, and the request. -/
def Msg.travels : Msg → Option (Nat × Request)
  | .request n r => some (n, r)
  | .retry n _ _ r => some (n, r)
  | _ => none

/-- Whether two requests to one lantern core share a route: they come from one core, or from one thread that has changed its core (R28,
R380). -/
def Request.sameRoute (a b : Request) : Bool :=
  a.module == b.module && (a.core == b.core || (a.wg == b.wg && a.thread == b.thread))

/-- Whether a message is the first on its route (R28, R380). -/
def State.firstOnRoute (s : State) (i : Nat) : Bool :=
  match (s.msgs[i]?).bind Msg.travels with
  | some (n, r) => (s.msgs.take i).all fun m => match m.travels with
    | some (k, x) => k != n || !x.sameRoute r
    | none => true
  | none => false

/-! ### A NACKed lane of a `ship.t` (R381, R395; log entry 19) -/

/-- The record under which a lane waits for its NACKed `ship.t` to be accepted. -/
def Beam.shipRecord (b : Beam) (l : Nat) : Option (Nat × Parked) := b.parked.find? fun (_, r) => r.cause == .ship && r.lanes.testBit l

/-- Whether a message is a request, other than a `ship.w`'s, of a thread that has been NACKed and not been accepted. -/
def Msg.nackedOf (w thread : Nat) (m : Msg) : Bool :=
  let is := fun (r : Request) => r.wg == w && r.thread == thread && r.slot != 8 && r.nacked
  match m with
  | .request _ r => is r
  | .retry _ _ _ r => is r
  | .nack _ _ _ r => is r
  | .backoff _ _ _ r => is r
  | .held _ r => is r
  | _ => false

/-- A lane leaves the entry that it stands in, whose other lanes no longer wait for its results (R80). -/
def leaveEntry (fr : List Entry) (l : Nat) : List Entry :=
  removeLanes (fr.map fun e => if e.lanes.testBit l then { e with hold := maskSub e.hold (laneBit l) } else e) (laneBit l)

/-- A lane of a NACKed `ship.t`, which has gone on with its path, parks where it stands; nothing where the beam's records are full (R175). A
lane that waits takes no issue slot, and parks once it stands where it could issue. -/
def Beam.parkShip (b : Beam) (l : Nat) : Option Beam :=
  match b.frontier.find? fun e => e.kind == .runnable && e.lanes.testBit l with
  | none => some b
  | some e => match smFree b.parked parkLimit with
    | none => none
    | some i =>
      some { b with
        frontier := placeEntry (leaveEntry b.frontier l) ⟨e.pc, e.pri, laneBit l, .parked i, e.hold⟩
        parked := smSet b.parked i ⟨.ship, e.pc, e.pri, laneBit l, false, []⟩ }

/-- Such a lane goes on where it stood, still waiting for the results that it waited for. -/
def Beam.unparkShip (b : Beam) (l : Nat) : Beam :=
  match b.shipRecord l with
  | none => b
  | some (i, _) =>
    { b.onFrontiers fun fr => placeEntries (fr.filter (·.kind != .parked i))
        ((fr.filter (·.kind == .parked i)).map fun e => { e with kind := .runnable }) with
      parked := smErase b.parked i }

/-- Take a message out of the network. -/
def State.takeMsg (s : State) (i : Nat) : State := { s with msgs := s.msgs.eraseIdx i }

/-- The beam and lane where a thread of a workgroup stands, unexited. -/
def Wg.findThread (g : Wg) (thread : Nat) : Option (Nat × Nat) :=
  g.beams.findSome? fun (n, b) =>
    ((List.range b.count).find? fun l => (b.lane l).thread == thread && !(b.lane l).exited).map fun l => (n, l)


/-- A request has been accepted: the lane that its NACK parked goes on, unless another of its requests is still NACKed (R381). -/
def State.acceptedBy (s : State) (r : Request) : State :=
  if r.slot = 8 ∨ (s.msgs.any (Msg.nackedOf r.wg r.thread)) then s
  else match (s.wg? r.wg).bind fun g => g.findThread r.thread with
    | some (b, l) => s.modFrontier (.beam r.wg b) fun b => b.unparkShip l
    | none => s

/-- R380: a request without a ticket arrives at its lantern core. -/
def execSectionRequestArrival (msg : Nat) (s : State) : Host.Outcome State Fault Refusal :=
  .next (match s.msgs[msg]? with
    | some (.request n r) =>
      let l := s.lantern n
      if 128 ≤ n ∨ !s.firstOnRoute msg then s
      else if l.held < 256 ∧ l.outstanding.isEmpty then ((s.takeMsg msg).modLantern n fun l => l.accept r).acceptedBy r
      else
        let t := l.next
        let s := (s.takeMsg msg).modLantern n fun l => { l with next := (t + 1) % 2 ^ 32, outstanding := l.outstanding ++ [t] }
        { s with msgs := s.msgs ++ [.nack n t 1 { r with nacked := true }] }
    | _ => s)

/-- R380: a retry arrives with its ticket; one whose ticket was cancelled while it was under way is NACKed no more (R381). -/
def execSectionRetryArrival (msg : Nat) (s : State) : Host.Outcome State Fault Refusal :=
  .next (match s.msgs[msg]? with
    | some (.retry n t k r) =>
      let l := s.lantern n
      if 128 ≤ n ∨ !s.firstOnRoute msg then s
      else if !l.outstanding.contains t then s.takeMsg msg
      else if l.held < 256 ∧ t = l.serve then
        ((s.takeMsg msg).modLantern n fun l =>
          { (l.accept r) with outstanding := l.outstanding.filter (· != t), serve := (t + 1) % 2 ^ 32 }.passVoids).wakeFree n |>.acceptedBy r
      else if r.void then s.takeMsg msg
      else { s.takeMsg msg with msgs := (s.takeMsg msg).msgs ++ [.nack n t (k + 1) r] }
    | _ => s)

/-- R381: a cancel makes its ticket void. -/
def execCancelArrival (msg : Nat) (s : State) : Host.Outcome State Fault Refusal :=
  .next (match s.msgs[msg]? with
    | some (.cancel n t) =>
      let l := s.lantern n
      let s := s.takeMsg msg
      if 128 ≤ n ∨ !l.outstanding.contains t then s
      else
        let s := s.modLantern n fun l =>
          ({ l with outstanding := l.outstanding.filter (· != t), voids := l.voids ++ [t] }).passVoids
        if t = l.serve then s.wakeFree n else s
    | _ => s)

/-- The lane of a NACKed `ship.w` leaves its waiting entry and parks (R381); nothing where the beam's records are full (R175). -/
def Beam.parkNack (b : Beam) (l lantern dst : Nat) : Option Beam :=
  let waits := fun (e : Entry) => match e.kind with
    | .tkwait 8 _ _ _ => e.lanes.testBit l
    | _ => false
  let all := b.frontier ++ b.kept.getD []
  match all.find? waits with
  | none => some b
  | some e =>
    let mine := b.parked.find? fun (_, r) => r.cause == .nack lantern dst && r.pc == e.pc
    let ix := match mine with
      | some (i, _) => some i
      | none => smFree b.parked parkLimit
    match ix with
    | none => none
    | some i =>
      let r : Parked := ((mine.map (·.2)).getD ⟨.nack lantern dst, e.pc, e.pri, 0, false, []⟩)
      let move := fun (fr : List Entry) =>
        if (fr.any fun x => waits x) then
          let fr := leaveEntry fr l
          if fr.any fun x => x.kind == .parked i then
            fr.map fun x => if x.kind = .parked i then
              { x with lanes := x.lanes ||| laneBit l, hold := x.hold ||| (e.hold &&& laneBit l) } else x
          else fr ++ [⟨e.pc, e.pri, laneBit l, .parked i, e.hold &&& laneBit l⟩]
        else fr
      some { b.onFrontiers move with parked := smSet b.parked i { r with lanes := r.lanes ||| laneBit l } }

/-- The request and the lantern core of a message whose NACK has reached this module's sender (R381). -/
def Msg.nacked? : Msg → Option (Nat × Request)
  | .backoff n _ _ r => if r.module.isSome then none else some (n, r)
  | .retry n _ _ r => if r.module.isSome then none else some (n, r)
  | .nack n _ k r => if k = 1 ∨ r.module.isSome then none else some (n, r)
  | _ => none

/-- A NACKed lane parks: that of a `ship.w` where it waits, and that of a `ship.t`, which has gone on, where it stands. -/
def Beam.parkNacked (b : Beam) (l lantern : Nat) (r : Request) : Option Beam :=
  if r.slot = 8 then b.parkNack l lantern r.dst else if (b.shipRecord l).isSome then some b else b.parkShip l

/-- NACKed lanes that were waiting, or away, park as soon as they stand where they could issue (R381, R395). -/
def State.settleShips (s : State) : State :=
  (s.msgs.filterMap Msg.nacked?).foldl (fun s (n, r) =>
    match (s.wg? r.wg).bind fun g => if g.status = .resident ∧ !g.deadline then g.findThread r.thread else none with
    | none => s
    | some (b, l) => s.modBeam (.beam r.wg b) fun x => (x.parkNacked l n r).getD x) s

/-- R381, R395: a NACK reaches the sender: the lane parks, and the backoff begins. The lane of a `ship.w` parks where it waits, and that of a
`ship.t`, which has gone on, where it stands. -/
def execNackArrival (msg : Nat) (s : State) : Host.Outcome State Fault Refusal :=
  .next (match s.msgs[msg]? with
    | some (.nack n t k r) =>
      let go := fun (s : State) =>
        let s : State := { s with msgs := s.msgs.set msg (.backoff n t k { r with sent := s.clockAt r.core }) }
        if r.module.isSome then s else s.count r.core 0x0C r.ctx 1
      match (s.wg? r.wg).bind fun g => if g.status = .resident ∧ k = 1 then g.findThread r.thread else none with
      | none => go s
      | some (b, l) =>
        let a := Agent.beam r.wg b
        match (s.beam? a).bind fun x => x.parkNacked l n r with
        | none => s
        | some x => (go (s.setBeam a x)).settleTokens a frontierSize
    | _ => s)

/-- Clocks of the sender's core from the arrival of its k-th NACK to its k-th retry (R381). -/
def backoffClocks (k : Nat) : Nat := 64 * 2 ^ min (k - 1) 6

/-- Whether the backoff of a NACKed request has run out; that of another module's counts clocks there. -/
def State.backoffOver (s : State) (m : Msg) : Bool :=
  match m with
  | .backoff _ _ k r => r.module.isSome || decide (r.sent + backoffClocks k ≤ s.clockAt r.core)
  | _ => false

/-- The retry of a NACKed request leaves. -/
def State.sendRetry (s : State) (i : Nat) : State :=
  match s.msgs[i]? with
  | some (.backoff n t k r) =>
    { s.takeMsg i with msgs := (s.takeMsg i).msgs ++ [.retry n t k { r with sent := s.clockAt r.core }] }
  | _ => s

/-- R381: the backoff of a NACKed request has run out, and its retry leaves; before that, nothing happens. -/
def execNackRetryTimer (msg : Nat) (s : State) : Host.Outcome State Fault Refusal :=
  .next (if (s.msgs[msg]?).any s.backoffOver then s.sendRetry msg else s)

/-- Whether a message is the backoff of a ticket of a lantern core. -/
def Msg.isBackoff (n t : Nat) : Msg → Bool
  | .backoff n' t' _ _ => n == n' && t == t'
  | _ => false

/-- Whether a message is a NACK of a ticket that is on its way. -/
def Msg.isNack (n t : Nat) : Msg → Bool
  | .nack n' t' _ _ => n == n' && t == t'
  | _ => false

/-- R380: a wake makes its ticket's sender retry at once; it does not overtake the ticket's NACK. -/
def execWakeArrival (msg : Nat) (s : State) : Host.Outcome State Fault Refusal :=
  .next (match s.msgs[msg]? with
    | some (.wake n t) =>
      if s.msgs.any (Msg.isNack n t) then s
      else
        let s := s.takeMsg msg
        match s.msgs.findIdx? (Msg.isBackoff n t) with
        | none => s
        | some i => s.sendRetry i
    | _ => s)

/-! ## The section (R151, R399, R400, R403, R404) -/

/-- s1 at entry: the sender (R400). -/
def Request.sender (r : Request) (module : Nat) : Nat :=
  r.thread + r.core % 36 * 2 ^ 10 + r.core / 36 * 2 ^ 16 + r.module.getD module * 2 ^ 19 + r.wg % 2 ^ 32 * 2 ^ 32

/-- s2 at entry: the request (R400). -/
def Request.status (r : Request) : Nat :=
  r.args.length + (if r.scope = 2 then 2 ^ 4 else 0) + (if r.slot = 8 then 0 else 2 ^ 5 + r.slot * 2 ^ 6)
    + (if r.nacked then 2 ^ 9 else 0) + (if r.resent then 2 ^ 10 else 0)

/-- The presets of fmt0 to fmt7 (R52). -/
def fmtPresets : List Word := [0x00076043#32, 0x000F2052#32, 0x0003A034#32, 0x0001A021#32, 0x00074044#32, 0, 0, 0]

/-- The beam of a section at its entry (R151, R399). -/
def sectionBeam (r : Request) (module : Nat) : Beam where
  number := 0
  quarter := 0
  width := 1
  role := 0
  base := 256
  extDecl := 0
  ext := 0
  asked := 0
  keptAsked := 0
  phys := [0]
  lanes := [{
    thread := 0
    v := r.args.take 8 ++ List.replicate (256 - (r.args.take 8).length) .zero
    x := List.replicate 4 (mkX 0)
    m := List.replicate 32 ⟨.zero, .zero⟩
    slots := List.replicate 9 .free
    exited := false
    fences := []
    reads := []
    early := [] }]
  s := [mkS r.lock, mkS (r.sender module), mkS r.status] ++ List.replicate 61 (mkS 0)
  k := onesK :: List.replicate 7 (mkK 1 0)
  rm := 1
  ftz := false
  nvc := false
  inh := false
  hck := false
  ord := false
  wb := 0
  tcause := 0
  tpc := 0
  entryPc := 0
  tlanes := 0
  taddr := 0
  tdata := 0
  tsource := 0
  held := 0
  prefixed := false
  kept := none
  pendD := []
  pendPreempt := false
  frontier := [.run r.entry 0 1 0]
  parked := []
  fatals := []
  outstanding := []
  latch := []
  paused := none
  regWait := 0
  barStall := 0
  pauseLoop := 0
  keptCounts := (0, 0, 0)
  yielded := false
  lastTurn := 0
  passed := 0
  passedLevel := 0
  hinted := 0
  gang := (0, 0)

/-- R399: the next accepted request begins: its state is set, its entry acquires, its set joins the lock's (R297); in an unusable
context it ends at once (R487). None begins while the module is brought to a quiesce point (R442, R494). -/
def execSectionStart (lantern : Nat) (s : State) : Host.Outcome State Fault Refusal :=
  .next (
    let l := s.lantern lantern
    match l.running, l.queue with
    | none, r :: rest =>
      if s.mod.status = 3 then s
      else
      let set := (smGet s.lockSets r.line).merge r.pub
      let sec : Section := ⟨r, sectionBeam r s.mod.number, fmtPresets, true, true, 0, [], none, [], [], set⟩
      let s := s.modLantern lantern fun l => { l with queue := rest, running := some sec }
      let s := { s with lockSets := smSet s.lockSets r.line set }
      let (ctx, s) := s.useCtx r.ctx
      match ctx with
      | none => s.endSection lantern (0x40 + causeAccess) 0 []
      | some _ => s.acquire (s.place (.lantern lantern)) r.ordering
    | _, _ => s)

/-- The step limit of a context's sections (R404, R438). -/
def State.stepLimit (s : State) (ctx : Nat) : Nat :=
  match s.ctxEntry? ctx with
  | some e => 2 ^ (if e.slog2 = 0 then 20 else e.slog2)
  | none => 2 ^ 20

/-- R404: a section that has executed as many instructions as its limit ends as OVERRUN; before that, nothing happens. -/
def execSectionStepLimit (lantern : Nat) (s : State) : Host.Outcome State Fault Refusal :=
  .next (match s.section? lantern with
    | none => s
    | some r =>
      if !r.wait.isEmpty ∨ r.ending.isSome ∨ r.steps < s.stepLimit r.req.ctx then s else s.endSection lantern 0x80 0 [])

/-- R402: a section's results are read with their codes, and it ends OK; on a throughput core `sret` is illegal. -/
def execSret (m : Mods) (d : BitVec 7) (n : BitVec 3) (s : State) : Host.Outcome State Fault Refusal :=
  codedPath m true (fun f s =>
    match f.a with
    | .beam _ _ => s.whole f (.plain causeIllegal) f.i.lanes
    | .lantern k =>
      if f.active = 0 then s.goOn f
      else s.guarded f [.v d.toNat n.toNat] [] fun s =>
        s.endSection k 0 n.toNat ((List.range n.toNat).map fun i => f.b.vreg 0 (f.b.wb + d.toNat + i))) s

/-! ## The result (R137, R138, R292, R397) -/

/-- The lane of a NACKed `ship.w` whose result has come: it goes on after it, with its acquire, or traps at it alone (R278, R397). -/
def State.finishNacked (s : State) (a : Agent) (l i : Nat) (r : Parked) (dst : Nat) : State :=
  match s.beam? a with
  | none => s
  | some b =>
    let x := (b.lane l).slot 8
    let next := s.nextOf (s.place a) r.pc
    let s := s.land a false (x.collect 8 l dst)
    let s := s.modBeam a fun b => b.modLane l fun y => y.setSlot 8 .free
    let s := s.collectAcquire a [x]
    let ok := x.status == 0
    let s := s.modFrontier a fun b => (b.unpark i (if ok then next else r.pc) (laneBit l) ok).forget (laneBit l)
    if ok then s.modBeam a Beam.endPause else s.raiseFatal a { x.cause with lanes := laneBit l } r.pc (next == r.pc + 8)

/-- The record a lane of a NACKed `ship.w` is parked under. -/
def Beam.nackRecord (b : Beam) (l : Nat) : Option (Nat × Parked × Nat) :=
  b.parked.findSome? fun (i, r) => match r.cause with
    | .nack _ dst => if r.lanes.testBit l then some (i, r, dst) else none
    | _ => none

/-- Finish the lanes of NACKed `ship.w`s whose results have come (R397); where the full save has stopped the beam, at its redispatch. -/
def State.settleNacked (s : State) (a : Agent) : State :=
  match s.beam? a with
  | none => s
  | some b =>
    if s.saving a then s
    else (List.range b.count).foldl (fun s l => match b.nackRecord l with
      | some (i, r, dst) => if ((b.lane l).slot 8).state = .done then s.finishNacked a l i r dst else s
      | none => s) s

/-- A result enters its thread's slot (R137); for a workgroup that is not resident, also its record in the token save area (R138); a
thread that has exited discards it. -/
def State.deliver (s : State) (r : Request) (status count : Nat) (res : List CW) (pub : RSet) : State :=
  match s.wg? r.wg with
  | none => s
  | some g =>
    match g.findThread r.thread with
    | none => s
    | some (bn, l) =>
      let a := Agent.beam r.wg bn
      match s.beam? a with
      | none => s
      | some b =>
        let old := (b.lane l).slot r.slot
        if old.state != .pending then s
        else
          let x : Slot := ⟨.done, status, count, (List.range 4).map fun i => if i < count then res.getD i .zero else .zero, old.scope,
            old.lock, pub⟩
          let s := s.modBeam a fun b => b.modLane l fun y => y.setSlot r.slot x
          match g.status, g.frame with
          | .resident, _ => (s.settleNacked a).settleTokens a frontierSize
          | _, some fr => match s.ctxEntry? g.ctx with
            | some e => s.deviceWords (tokenAddr e fr r.thread r.slot) x.record
            | none => s
          | _, none => s

/-- The results another module's section may return: free values (log entry 12). -/
def State.freeResults (s : State) : Nat → List CW × State
  | 0 => ([], s)
  | n + 1 =>
    let (v, s) := s.freeWord
    let (ws, s) := s.freeResults n
    (⟨v.setWidth 32, v.extractLsb' 32 8⟩ :: ws, s)

/-- R137, R397, R468: a section's result arrives; another module's sender has it there. What a section of another module, which this model does
not run, answers is a free value (log entry 12). -/
def execSectionResultArrival (msg : Nat) (s : State) : Host.Outcome State Fault Refusal :=
  .next (
    let counted := fun (s : State) (r : Request) =>
      (s.count r.core 0x0E r.ctx 1).count r.core 0x0D r.ctx ((s.clockAt r.core : Int) - r.first).toNat
    match s.msgs[msg]? with
    | some (.result r status count res pub) =>
      if r.module.isSome then s.takeMsg msg else (counted (s.takeMsg msg) r).deliver r status count res pub
    | some m => match m.travels with
      | none => s
      | some (n, r) =>
        if n < 128 ∨ s.mod.silent.contains (n - 128) ∨ !s.firstOnRoute msg then s
        else
          let (v, s) := (s.takeMsg msg).freeWord
          let (res, s) := s.freeResults 4
          let status := if v.getLsbD 0 then 0 else if v.getLsbD 1 then 0x80 else 0x40 + bits v.toNat 8 6
          ((counted s r).acceptedBy r).deliver r status (if status = 0 then min (bits v.toNat 16 3) 4 else 0) res RSet.empty
    | none => s)

/-! ## Other modules (R486, R487) -/

/-- Whether another module's request names a lock that is homed here, from a module of the domain. -/
def State.foreignOk (s : State) (r : ForeignReq) : Bool :=
  s.ready && r.fromModule != s.mod.number && decide (r.fromModule < s.mod.domain) && isSystem r.addr && moduleOf r.addr == s.mod.number
    && r.addr % 64 == 0 && r.lock % 64 == 0 && r.entry % 4 == 0 && decide (1 ≤ r.args.length) && decide (r.args.length ≤ 8)
    && decide (r.slot ≤ 8) && decide (r.wg < 2 ^ 32) && decide (r.core < 288) && decide (r.thread < 1024)

/-- A section request of another module enters the network here: its lock's home is this module's main table's, its orderings run at system
scope, and it waits outside while a lodestar command holds its bucket (R436, R486). -/
def State.foreign (s : State) (r : ForeignReq) : State :=
  let h := starFold (bits r.addr 6 52)
  if !s.foreignOk r || s.mod.starHold.any (·.1 == h) then s
  else
    let x : Request :=
      { ctx := r.ctx, wg := r.wg, lid := r.lid, beam := 0, lane := 0, thread := r.thread, core := r.core, entry := r.entry, lock := r.lock,
        line := s.resolve r.addr / 64, args := r.args, slot := r.slot, scope := 4, dst := 0, bucket := some h, resent := r.resent,
        nacked := false, void := false, ordinal := s.moves, pub := RSet.empty, module := some r.fromModule, first := 0, sent := 0 }
    { s with msgs := s.msgs ++ [.request (s.mod.star h % 128) x] }

/-- What another module sends about a message: a NACK of a request or a retry that has reached it, a wake of one it has NACKed, or the
cancel of a ticket that its own sender holds here (R380, R381, R486). -/
def State.abroad (s : State) (i : Nat) (c : C1) : State :=
  let put := fun (m : Msg) => ({ s with msgs := s.msgs.set i m } : State)
  match s.msgs[i]?, c with
  | some (.request n r), .nack t => if 128 ≤ n ∧ s.firstOnRoute i then put (.nack n t 1 { r with nacked := true }) else s
  | some (.retry n t k r), .nack _ => if 128 ≤ n ∧ s.firstOnRoute i then put (.nack n t (k + 1) r) else s
  | some (.backoff n t k r), .wake => if 128 ≤ n then put (.retry n t k r) else s
  | some (.nack n t _ r), .cancel => if r.module.isSome then put (.cancel n t) else s
  | some (.backoff n t _ r), .cancel => if r.module.isSome then put (.cancel n t) else s
  | _, _ => s

end Sys2Proof.Machine
end

