-- ==== Sys2Proof/Machine/Flow.lean ====
section
/-!
DEFINITION. Sys2Proof/Machine/Flow.lean: control flow, barriers, regrouping and tickets (spec R444 to R461, R152, R428 to R430).
-/

namespace Sys2Proof.Machine

/-! ## Regrouping (R428 to R430, R457, R458, R152) -/

/-- Lanes that wait in a bucket, in arrival order. -/
def Wg.bucket (g : Wg) (q key : Nat) : List Bucketed := g.buckets.filter fun x => x.quarter == q && x.key == key

/-- Beam contexts of a quarter of a core that are in use (R17). -/
def State.contextsUsed (s : State) (core q : Nat) : Nat :=
  (s.wgs.map fun (_, g) =>
    if g.core = core ∧ (g.status = .resident ∨ g.status = .queued) then g.beams.countP fun (_, b) => b.quarter == q else 0).sum

/-- Beam contexts of a quarter (R17). -/
def contextsPerQuarter : Nat := 32

/-- Lanes of a beam that are in a group about to form. -/
def groupLanes (group : List Bucketed) (beam : Nat) : Nat := maskOf ((group.filter (·.beam == beam)).map (·.lane))

/-- The number of the beam that a group forms, and the source beam whose context it takes: the lowest-numbered source beam with all its
unexited lanes in the group, else a free context and the lowest unused number (R430, R458). -/
def State.formNumber (s : State) (g : Wg) (q : Nat) (group : List Bucketed) : Option Nat :=
  match g.beams.find? fun (n, b) => group.any (·.beam == n) && maskSub b.live (groupLanes group n) == 0 with
  | some (n, _) => some n
  | none => if s.contextsUsed g.core q < contextsPerQuarter then smFree g.beams (g.beams.length + 1) else none

/-- The beam of a bucketed lane. -/
def Wg.beamOf (g : Wg) (x : Bucketed) : Beam := smGet g.beams x.beam

/-- Bit i of a new mask register: the lane's bit in its old beam (R152). -/
def Wg.carriedMask (g : Wg) (group : List Bucketed) (k : Nat) : Nat :=
  maskOf ((group.mapIdx fun i x => (i, ((g.beamOf x).kreg k).v.getLsbD x.lane)).filterMap fun (i, set) => if set then some i else none)

/-- The trap registers of a beam in a free context, which the spec does not state: free values in the bits that hold some (R145; log entry
6). -/
def freeTrap (b : Beam) (junk : Nat) : Beam :=
  { b with
    tcause := bits junk 0 16
    tpc := bits junk 16 70 * 4
    tlanes := bits junk 88 64
    taddr := bits junk 152 72
    tdata := bits junk 216 40
    tsource := 0
    entryPc := 0
    held := 0
    prefixed := false
    pendD := [] }

/-- The beam that a group forms (R152, R427, R429). Its trap registers are those of the context it takes, which only handler entry and
`wrctl` change (R154). -/
def Wg.formed (g : Wg) (number q phys : Nat) (group : List Bucketed) (junk : Nat) : Beam :=
  let first := (group.head?.map g.beamOf).getD default
  let old := match smGet? g.beams number with
    | some b => b
    | none => freeTrap default junk
  { first with
    number := number
    quarter := q
    ext := 0
    asked := 0
    keptAsked := 0
    phys := (List.range group.length).map fun i => phys + i
    lanes := group.map fun x => let l := (g.beamOf x).lane x.lane; { l with v := l.v.take first.base }
    k := onesK :: (List.range 7).map fun k => mkK first.width (g.carriedMask group (k + 1))
    inh := false
    wb := 0
    tcause := old.tcause
    tpc := old.tpc
    tlanes := old.tlanes
    taddr := old.taddr
    tdata := old.tdata
    tsource := old.tsource
    entryPc := old.entryPc
    held := 0
    prefixed := old.prefixed
    kept := none
    pendD := old.pendD
    pendPreempt := false
    frontier := placeEntries [] (group.mapIdx fun i x => .run x.pc x.pri (laneBit i) 0)
    parked := []
    fatals := []
    outstanding := []
    latch := []
    paused := none
    regWait := 0
    barStall := 0
    pauseLoop := 0
    keptCounts := (0, 0, 0)
    yielded := false
    lastTurn := 0
    passed := 0
    passedLevel := 0
    hinted := 0
    gang := (0, 0) }

/-- The lanes of a group leave their old beams, as exited lanes do; the beam whose context the new one takes goes. -/
def Wg.leaveOld (g : Wg) (number : Nat) (group : List Bucketed) : SMap Beam :=
  (g.beams.filter fun (n, _) => n != number).map fun (n, b) =>
    (n, (lanesOf (groupLanes group n) b.count).foldl (fun b l => b.modLane l fun x => { x with exited := true }) b)

/-- A beam that is left without unexited lanes frees its context: its pending kind D causes go to the lowest-numbered beam that has one
(R360, R426). -/
def Wg.sweep (g : Wg) : Wg :=
  let gone := fun (b : Beam) => b.live == 0
  let pend := g.beams.flatMap fun (_, b) => if gone b then b.pendD else []
  let stay := g.beams.filter fun (_, b) => !gone b
  { g with beams := match stay with
      | (n, b) :: rest => (n, { b with pendD := b.pendD ++ pend }) :: rest
      | [] => [] }

/-- Form one beam from a bucket, where a context is found; the bucket waits otherwise (R429, R430). Its lanes are placed after the `regroup`
(R447). -/
def State.formBeam (s : State) (w q key : Nat) : State :=
  match s.wg? w with
  | none => s
  | some g =>
    let group := (g.bucket q key).take g.width
    match group, s.formNumber g q group with
    | [], _ => s
    | _, none => s
    | _ :: _, some number =>
      let (v, s) := s.freeWord
      let phys := match smGet? g.beams number with
        | some b => b.phys.headD 0
        | none => bits v.toNat 0 6 / g.width * g.width
      let (v, s) := s.freeWord
      let b := g.formed number q phys group v.toNat
      let s := s.setWg w { g with
        beams := smSet (g.leaveOld number group) number b
        buckets := g.buckets.filter fun x => !group.contains x
        due := if (g.bucket q key).length ≤ g.width then g.due.filter (· != (q, key)) else g.due }
      let s := s.modWg w Wg.sweep
      let pl := s.wgPlace w
      s.modBeam (.beam w number) fun b => { b with frontier := s.settlePri pl [] b.frontier }

/-- Whether a lane of the workgroup on a quarter is neither exited nor in a bucket (R429). -/
def Wg.quarterBusy (g : Wg) (q : Nat) : Bool :=
  g.beams.any fun (n, b) => b.quarter == q && maskSub b.live (g.bucketLanes n) != 0

/-- The keys of the 16 buckets. -/
def bucketKeys : List Nat := List.range 16

/-- Where in the arrival order of its quarter a bucket has reached the beam width. -/
def Wg.fullAt (g : Wg) (q key : Nat) : Option Nat :=
  match (g.bucket q key)[g.width - 1]? with
  | some x => g.buckets.findIdx? (· == x)
  | none => none

/-- The bucket of a quarter that has reached the beam width first. -/
def Wg.firstFull (g : Wg) (q : Nat) : Option Nat :=
  (bucketKeys.foldl (fun (m : Option (Nat × Nat)) key => match g.fullAt q key, m with
    | some i, some (j, k) => if i < j then some (i, key) else some (j, k)
    | some i, none => some (i, key)
    | none, m => m) none).map (·.2)

/-- Full buckets form in the order in which they filled; those that find no context are passed over (R458 step 1). -/
def State.formFull (s : State) (w q : Nat) : Nat → State
  | 0 => s
  | fuel + 1 =>
    match (s.wg? w).bind fun g => g.firstFull q with
    | some key => (s.formBeam w q key).formFull w q fuel
    | none => s

/-- The buckets of a quarter that a condition names form in ascending key. -/
def State.formKeys (s : State) (w q : Nat) (p : Wg → Nat → Bool) : State :=
  bucketKeys.foldl (fun s key => match s.wg? w with
    | some g => if p g key then s.formBeam w q key else s
    | none => s) s

/-- Form the beams of a quarter after the arrivals of a clock: from full buckets, from flushed ones, and, where every other lane of the
quarter was in a bucket or had exited when they arrived, from the rest (R429, R458). -/
def State.formQuarter (s : State) (w q : Nat) : State :=
  let busy := ((s.wg? w).map fun g => g.quarterBusy q).getD true
  let s := s.formFull w q (((s.wg? w).map fun g => g.buckets.length).getD 0)
  let s := s.formKeys w q fun g key => decide (g.width ≤ (g.bucket q key).length)
  let s := s.formKeys w q fun g key => g.due.contains (q, key)
  if busy then s else s.formKeys w q fun _ _ => true

/-- A flush waits for the contexts of buckets that hold lanes only: the others it has done with (R430, R458). -/
def Wg.flushed (g : Wg) : Wg := { g with due := g.due.filter fun (q, key) => !(g.bucket q key).isEmpty }

/-- Form whatever beams of a workgroup can form, in every quarter, after the arrivals of a clock; the next ones come after them (R428). -/
def State.formBeams (s : State) (w : Nat) : State :=
  match s.wg? w with
  | none => s
  | some g =>
    if (g.buckets.isEmpty && g.due.isEmpty) || g.status != .resident then s
    else
      let s := (List.range 4).foldl (fun s q => s.formQuarter w q) s
      let s := s.modWg w fun g => { g.sweep.flushed with bucketSeq := g.bucketSeq + 1 }
      ((s.wg? w).map fun g => g.agents w).getD [] |>.foldl (fun s a => s.checkJoin a) s

/-- Put a lane behind those that arrived before it: earlier clocks, then lower source beams, then lower lanes (R428). -/
def insertArrival (x : Bucketed) : List Bucketed → List Bucketed
  | [] => [x]
  | y :: ys =>
    if y.seq = x.seq ∧ (x.beam < y.beam ∨ x.beam = y.beam ∧ x.lane < y.lane) then x :: y :: ys else y :: insertArrival x ys

/-- One lane arrives in a bucket of a workgroup that has not ended. -/
def State.arrive (s : State) (w q key beam lane pc pri : Nat) : State :=
  s.modWg w fun g =>
    if g.status != .resident then g
    else { g with buckets := insertArrival ⟨q, key, g.bucketSeq, beam, lane, pc, pri⟩ g.buckets }

/-- R457: the bound of vA, the three checks of the rule, then HAZARD (log entry 45). The beams that can form do so at the end of the clock
(`State.settle`). -/
def execRegroup (m : Mods) (a : BitVec 7) (s : State) : Host.Outcome State Fault Refusal :=
  coded m false (fun f s =>
    s.bounded f [.v a.toNat 1] fun s =>
    if f.b.inh then s.wholeActive f causeIllegal
    else if f.b.role = 1 ∨ f.b.role = 2 then s.wholeActive f causeIllegal
    else if f.b.ext ≠ 0 then s.wholeActive f causeBound
    else s.unhazarded f [.v a.toNat 1] [] fun s =>
      let got := f.lanes.map fun l => (l, f.get l [.v a.toNat 1])
      let s := got.foldl (fun s (_, x) => s.charge (.core f.pl.core) x.corr x.unc 0) s
      let keys := got.filterMap fun (l, x) => match x.vals with
        | .ok vs => some (l, val vs 0 % 16)
        | .error _ => none
      let faults := got.filterMap fun (l, x) => match x.vals with
        | .ok _ => none
        | .error w => some (l, Cause.lcc 0 w)
      let faulty := maskOf (faults.map (·.1))
      let go := maskOf (keys.map (·.1))
      let s := s.modBeam f.a fun b => { (b.landFor go) with latch := [] }
      let s := s.modFrontier f.a fun b => b.move go []
      let s := match decide_ faults with
        | some c => s.trap f.a c faulty faulty f.i.pc f.i.prefixed 0
        | none => s
      let s := keys.foldl (fun s (l, key) => s.arrive f.pl.wg f.b.quarter key f.b.number l f.i.next f.i.pri) s
      s.checkJoin f.a) s

/-- R458: the buckets of the workgroup on the issuing beam's quarter are due; those that hold lanes at the end of the clock, its arrivals among
them, form beams then (`State.settle`). -/
def execRegroupFlush (m : Mods) (s : State) : Host.Outcome State Fault Refusal :=
  coded m false (fun f s =>
    let s := s.modWg f.pl.wg fun g =>
      { g with due := g.due ++ (bucketKeys.filter fun key => !g.due.contains (f.b.quarter, key)).map fun key => (f.b.quarter, key) }
    s.goOn f) s

/-! ## Branches (R448 to R450) -/

/-- The base of link words: ENTRY of the launch, or of the section (R448). -/
def State.codeBase (s : State) (f : Frame) : Nat :=
  match f.a with
  | .lantern n => ((s.section? n).map (·.req.entry)).getD 0
  | .beam _ _ => ((s.launch? f.pl.launch).map (·.record.entry)).getD 0

/-- The target of a branch word: its own address plus 4 × off21 (R78). -/
def Frame.target (f : Frame) (o : BitVec 21) : Nat := wrap 72 ((f.i.next : Int) - 4 + 4 * o.toInt)

/-- Active lanes that take a conditional branch on mask `k`. -/
def Frame.taken (f : Frame) (k : Nat) : Nat := f.active &&& k

/-- Taken lanes go to the target, the path's others on (R448). -/
def Frame.branch (f : Frame) (k : Nat) (o : BitVec 21) : Outcomes :=
  ⟨[], [], some [.run (f.target o) f.i.pri (f.taken k) 0, .run f.i.next f.i.pri (maskSub f.i.lanes (f.taken k)) 0]⟩

/-- R448; the mask register is checked as a source read once for the issue (R536). -/
def execBra (m : Mods) (c : BitVec 3) (o : BitVec 21) (s : State) : Host.Outcome State Fault Refusal :=
  coded m true (fun f s => s.onceRead f [.s (64 + c.toNat)] [] fun s vs => s.retire s f (f.branch (val vs 0) o)) s

/-- The link word of the instruction after this one, or nothing where it does not fit (R448). -/
def State.link (s : State) (f : Frame) : Option Nat :=
  let d := ((f.i.next : Int) - s.codeBase f) / 4
  if -(2 ^ 31) ≤ d ∧ d < 2 ^ 31 then some (wrap 32 d) else none

/-- R448: the taken lanes' v[wb + 0] receive the link. -/
def execCall (m : Mods) (c : BitVec 3) (o : BitVec 21) (s : State) : Host.Outcome State Fault Refusal :=
  coded m true (fun f s =>
    s.guarded f [.s (64 + c.toNat)] [.v 0 1] fun s =>
      match s.link f with
      | none => s.wholeActive f causeIllegal
      | some n => s.onceRead f [.s (64 + c.toNat)] [.v 0 1] fun s vs =>
        let ws := (lanesOf (f.taken (val vs 0)) f.b.count).flatMap fun l => f.put l (.v 0 1) n
        s.retire (s.results f false ws) f (f.branch (val vs 0) o)) s

/-- Each active lane goes to a base plus four times its signed word of a V register; lanes whose word is bad stay (R449, R450). -/
def State.jumps (s : State) (f : Frame) (base n : Nat) : State :=
  let got := f.lanes.map fun l => (l, f.get l [.v n 1])
  let s := got.foldl (fun s (_, x) => s.charge (.core f.pl.core) x.corr x.unc 0) s
  let s := s.latch f [.v n 1]
  let es := got.filterMap fun (l, x) => match x.vals with
    | .ok vs => some (Entry.run (wrap 72 ((base : Int) + 4 * signedBits 32 (val vs 0))) f.i.pri (laneBit l) 0)
    | .error _ => none
  let faults := got.filterMap fun (l, x) => match x.vals with
    | .ok _ => none
    | .error w => some (l, Cause.lcc 0 w)
  s.retire s f ⟨faults, [], some (es ++ [.run f.i.next f.i.pri (maskSub f.i.lanes f.active) 0])⟩

/-- R449. -/
def execBrx (m : Mods) (a : BitVec 6) (b : BitVec 7) (s : State) : Host.Outcome State Fault Refusal :=
  coded m true (fun f s =>
    s.onceRead f [.s a.toNat] [.v b.toNat 1] fun s vs =>
      let base := val vs 0
      if base % 4 ≠ 0 then s.allLanes f (.at_ causeAlign 0 base) else s.jumps f base b.toNat) s

/-- R450. -/
def execRet (m : Mods) (s : State) : Host.Outcome State Fault Refusal :=
  coded m true (fun f s => s.guarded f [] [.v 0 1] fun s => s.jumps f (s.codeBase f) 0) s

/-! ## `exit`, `join`, `pri` (R447, R451, R452) -/

/-- Threads of lanes of a beam, as a mask. -/
def Beam.threadsOf (b : Beam) (lanes : Nat) : Nat := maskOf ((lanesOf lanes b.count).map fun l => (b.lane l).thread)

/-- Lanes exit: they leave every frontier, and their outstanding results are dropped (R423, R451). -/
def Beam.exitLanes (b : Beam) (lanes : Nat) : Beam :=
  let b := (lanesOf lanes b.count).foldl (fun b l => b.modLane l fun x => { x with exited := true }) b
  ({ (b.onFrontiers fun fr => removeLanes fr lanes) with
    outstanding := (b.outstanding.map fun p => { p with lanes := maskSub p.lanes lanes }).filter (·.lanes != 0) } : Beam).unhold

/-! ## The return of a handler path (R163 to R166) -/

/-- The first entry of a frontier (R424): of the runnable ones, or, where there is none, of all (log entry 46). -/
def firstEntry (fr : List Entry) : Entry :=
  match firstOf fr with
  | some e => e
  | none => match firstOf (fr.map fun e => { e with kind := .runnable }) with
    | some e => e
    | none => default

/-- Raise PREEMPT in a beam: the handler path is every lane neither exited nor parked (R164). Pending while a handler runs (R165), while
every lane is parked (log entry 46), or where a fatal fault has waited to trap (R160). -/
def State.deliverPreempt (s : State) (a : Agent) : State :=
  match s.beam? a, s.nextFatal a with
  | none, _ => s
  | some _, some s' => s'
  | some b, none =>
    let path := maskSub b.live (parkedLanes b.frontier)
    if !b.pendPreempt || b.inh || path == 0 then s
    else
      let s := s.modBeam a fun b => { b with pendPreempt := false }
      s.trap a { Cause.plain causePreempt with lanes := path } 0 path (firstEntry b.frontier).pc false 0

/-- After a return, a fatal fault of lanes that the handler had left aside traps (R160, R426); otherwise one pending cause is delivered, lowest
code first: a kind D cause, whose codes are below PREEMPT's, at once only where nothing can run, or PREEMPT (R163, R165). -/
def State.afterReturn (s : State) (a : Agent) : State :=
  match s.beam? a, s.nextFatal a with
  | none, _ => s
  | some _, some s' => s'
  | some b, none => if b.pendD.isEmpty then s.deliverPreempt a else if b.canRun then s else s.deliverD a

/-- A request for an extended block that waited when REG_WAIT was delivered leaves the grant order (R166). -/
def Wg.withdraw (g : Wg) (n : Nat) : Wg := { g with extQueue := g.extQueue.filter (·.1 != n) }

/-- The wait of an `ext.acq` that is resumed enters the grant order as a new request (R166). -/
def Wg.request (g : Wg) (n regs : Nat) : Wg := { g.withdraw n with extQueue := (g.withdraw n).extQueue ++ [(n, regs)] }

/-- Paths that wait at an `ext.acq` issue it again. -/
def Beam.reacquire (b : Beam) : Beam :=
  b.setFrontier (placeEntries (b.frontier.filter (·.kind != .extAcq))
    ((b.frontier.filter (·.kind == .extAcq)).map fun e => .run e.pc e.pri e.lanes 0))

/-- The return of a handler path (R166). A wait for an extended block that it resumes is a new request, which a beam that has kept a block of
its handler issues again, for REG_BOUND (R201); a request of the handler itself is withdrawn. -/
def State.tretPath (s : State) (a : Agent) (skip : Bool) : State :=
  match a, s.beam? a with
  | .beam w n, some b =>
    let s := if b.frontier.any (·.kind == .extAcq) then s.modWg w fun g => g.withdraw n else s
    let s := (s.modFrontier a fun b => b.tret skip).settleTokens a frontierSize
    let again := b.tcause % 256 = causeRegWait ∧ ((s.beam? a).map fun b => b.frontier.any (·.kind == .extAcq)).getD false
    let s := if !again then s else if b.ext ≠ 0 then s.modFrontier a Beam.reacquire else s.modWg w fun g => g.request n b.keptAsked
    ((s.checkJoin a).afterReturn a).serveExt w
  | _, _ => s

/-- When the last lane of a handler path has exited, the beam returns as by `tret.retry` (R166). -/
def State.returnEmpty (s : State) (a : Agent) : State :=
  match s.beam? a with
  | some b => if b.inh && b.frontier.isEmpty && b.live != 0 then s.tretPath a false else s
  | none => s

/-- What the end of threads of a beam sets off: barriers, joins, regrouping, freed contexts and blocks, and the end of the workgroup,
with a pending kind D cause that no beam is left to take (R35, R360, R426, R451). -/
def State.afterExit (s : State) (a : Agent) (w threads : Nat) : State :=
  let s := (s.countGone w threads).returnEmpty a
  let s := (s.checkJoin a).checkBarriers w
  match s.wg? w with
  | none => s
  | some g =>
    if g.status != .resident then s
    else if g.beams.all fun (_, b) => b.live == 0 then
      match firstPendD (g.beams.flatMap fun (_, b) => b.pendD) with
      | some d => s.terminate w (d.cause.record d.pc d.source)
      | none => s.checkWgExit w
    else ((s.setWg w g.sweep).checkWgExit w).serveExt w

/-- R451; in a section it ends the section (R461). -/
def execExit (m : Mods) (s : State) : Host.Outcome State Fault Refusal :=
  coded m true (fun f s =>
    if f.lantern then s.wholeActive f causeIllegal
    else s.masked f fun s =>
      let s' := s.goOn f
      let s' := s'.modBeam f.a fun b => b.exitLanes f.active
      s'.afterExit f.a f.pl.wg (f.b.threadsOf f.active)) s

/-- R452. -/
def execJoin (m : Mods) (s : State) : Host.Outcome State Fault Refusal :=
  coded m true (fun f s =>
    if f.lantern then s.goOn f
    else (s.retire s f ⟨[], [], some [⟨f.i.pc, f.i.pri, f.i.lanes, .join, 0⟩]⟩).checkJoin f.a) s

/-- R447: the path's lanes have the priority when the `pri` issues. -/
def execPri (m : Mods) (p : BitVec 16) (s : State) : Host.Outcome State Fault Refusal :=
  coded m true (fun f s => s.retire s f ⟨[], [], some [.run f.i.next p.toNat f.i.lanes 0]⟩) s

/-! ## Barriers (R454 to R456) -/

/-- A barrier's count has changed: the barrier-stall counts of beams whose oldest barrier entry waits for it start afresh (R472). -/
def State.recount (s : State) (w : Nat) (kind : EntryKind) : State :=
  s.modWg w fun g =>
    { g with beams := g.beams.map fun (n, b) => (n, b.recount kind) }

/-- R454: the threads of the path that have not arrived in this generation are counted, and the path waits. -/
def execBarWg (m : Mods) (s : State) : Host.Outcome State Fault Refusal :=
  coded m false (fun f s =>
    let mine := f.b.threadsOf f.i.lanes
    let (_, s) := s.release f.pl .wg f.pathMine
    let s := s.modWg f.pl.wg fun g =>
      { g.reach f.b.number with
          barArrived := g.barArrived + popMask (maskSub mine g.barThreads) g.threads, barThreads := g.barThreads ||| mine }
    ((s.retire s f ⟨[], [], some [⟨f.i.pc, f.i.pri, f.i.lanes, .barWg, 0⟩]⟩).recount f.pl.wg .barWg).checkBarWg f.pl.wg) s

/-- The threads of a workgroup arrive at a constellation's barrier: each is counted once in a generation (R432, R456). -/
def Group.arriveAt (c : Group) (id mine threads : Nat) (pub : RSet) : Group :=
  { c with
    arrived := c.arrived + popMask (maskSub mine (smGet c.who id)) threads
    who := smSet c.who id (smGet c.who id ||| mine)
    pub := c.pub.merge pub }

/-- R455: the arrival releases at device scope. -/
def execBarCon (m : Mods) (a : BitVec 6) (s : State) : Host.Outcome State Fault Refusal :=
  coded m false (fun f s =>
    s.onceRead f [.s a.toNat] [] fun s vs =>
      let c := val vs 0 % 256
      let found := (s.launch? f.pl.launch).bind fun l => l.groups.find? fun x => x.number == c && x.holds f.pl.wgId
      match found with
      | none => s.wholeActive f causeIllegal
      | some _ =>
        let (_, s) := s.release f.pl .dev f.pathMine
        let pub := ((s.wg? f.pl.wg).map fun g => g.publication f.pl.wg).getD RSet.empty
        let s := s.advanceRegion f.pl .dev
        let threads := ((s.wg? f.pl.wg).map (·.threads)).getD 0
        let mine := f.b.threadsOf f.i.lanes
        let s := s.modLaunch f.pl.launch fun l =>
          { l with groups := l.groups.map fun x => if x.number = c then x.arriveAt f.pl.wgId mine threads pub else x }
        let s := s.retire s f ⟨[], [], some [⟨f.i.pc, f.i.pri, f.i.lanes, .barCon c, 0⟩]⟩
        let s := (s.wgs.filter fun (_, g) => g.launch == f.pl.launch).foldl (fun s (w, _) => s.recount w (.barCon c)) s
        s.checkBarCon f.pl.launch c) s

/-! ## Tickets (R459, R460) -/

/-- Clocks of the lowered level after a turn that has not come (R460). -/
def ticketPause : Nat := 64

/-- The turn has not come: the path stays, and the beam is at the lowered level. -/
def State.notYet (s : State) (f : Frame) : State := s.modBeam f.a fun b => { b with paused := some ticketPause }

/-- R460. -/
def execTktTake (m : Mods) (n : BitVec 3) (s : State) : Host.Outcome State Fault Refusal :=
  coded m true (fun f s =>
    if f.lantern then s.goOn f
    else match s.launch? f.pl.launch, s.wg? f.pl.wg with
      | some l, some _ =>
        let t := l.tickets.getD n.toNat default
        if t.next < f.pl.wgId then s.notYet f
        else if t.next = f.pl.wgId then
          let (_, s) := s.release f.pl .dev f.mine
          let pub := ((s.wg? f.pl.wg).map fun g => g.publication f.pl.wg).getD RSet.empty
          let s := s.advanceRegion f.pl .dev
          let s := s.modLaunch f.pl.launch fun l =>
            ({ l with tickets := l.tickets.set n.toNat ⟨f.pl.wgId + 1, t.faulted, t.pub.merge pub⟩ }).pass n.toNat (l.ended.length + 1)
          s.goOn f
        else s.goOn f
      | _, _ => s) s

/-- R460. -/
def execTktWait (m : Mods) (n : BitVec 3) (s : State) : Host.Outcome State Fault Refusal :=
  coded m true (fun f s =>
    if f.lantern then s.goOn f
    else match s.launch? f.pl.launch with
      | some l =>
        let t := l.tickets.getD n.toNat default
        if t.next < f.pl.wgId then s.notYet f
        else
          let s := s.acquire f.pl .dev
          let s := (s.modWg f.pl.wg fun g => g.absorb t.pub).advanceRegion f.pl .dev
          s.goOn f
      | none => s) s

end Sys2Proof.Machine
end

