-- ==== Sys2Proof/Machine/System.lean ====
section
/-!
DEFINITION. Sys2Proof/Machine/System.lean: `pause` and `yield.save` (spec R378, R420, R421), traps, returns and control registers (R139
to R148, R166 to R169), counters (R463 to R471), the delivery of PREEMPT (R164, R165) and the watchdogs of beams (R472, R473).
-/

namespace Sys2Proof.Machine

/-! ## Traps and returns (R166, R168, R169) -/

/-- R168: USER_TRAP of kind W with DETAIL n. -/
def execTrap (m : Mods) (n : BitVec 7) (s : State) : Host.Outcome State Fault Refusal :=
  codedPath m true (fun f s => s.whole f ⟨causeUser, n.toNat, 0, 0, 0⟩ f.i.lanes) s

/-- `trapctl.BRK` of an agent. -/
def State.brkOf (s : State) (f : Frame) : Bool := (s.trapctlOf f.a).testBit 0

/-- R168: DEBUG_BREAK with `trapctl.BRK` = 1, otherwise nothing. -/
def execBrk (m : Mods) (s : State) : Host.Outcome State Fault Refusal :=
  codedPath m true (fun f s => if s.brkOf f then s.whole f (.plain causeBreak) f.i.lanes else s.goOn f) s

/-- R168. -/
def execNop (m : Mods) (s : State) : Host.Outcome State Fault Refusal := codedPath m true (fun f s => s.goOn f) s

/-- R168, R169: the workgroup, or the section, ends. In a handler the record carries the trap registers as they stand. -/
def execExitFault (m : Mods) (s : State) : Host.Outcome State Fault Refusal :=
  codedPath m true (fun f s =>
    match f.a with
    | .lantern n => s.endSection n (0x40 + causeExit) 0 []
    | .beam w _ =>
      if f.b.inh then s.terminate w (f.b.trapRecord (f.b.tcause % 256) (f.b.tcause / 256) f.b.tsource)
      else s.terminate w ({ Cause.plain causeExit with lanes := f.i.lanes }.record f.i.pc 0)) s

/-- `tret.retry` and `tret.skip` are legal in a handler only (R168, R169). -/
def tretOp (m : Mods) (skip : Bool) (s : State) : Host.Outcome State Fault Refusal :=
  codedPath m true (fun f s =>
    if f.lantern || !f.b.inh then s.whole f (.plain causeIllegal) f.i.lanes else s.tretPath f.a skip) s

/-- R166. -/
def execTretRetry (m : Mods) (s : State) : Host.Outcome State Fault Refusal := tretOp m false s

/-- R166. -/
def execTretSkip (m : Mods) (s : State) : Host.Outcome State Fault Refusal := tretOp m true s

/-! ## Control registers (R139 to R148) -/

/-- `trapvec`: of the workgroup, or 0 for a section (R145, R399). -/
def State.trapvecOf (s : State) (a : Agent) : Nat :=
  match a with
  | .lantern _ => 0
  | .beam w _ => ((s.wg? w).map (·.trapvec)).getD 0

/-- Control register `n` (R139). -/
def State.control (s : State) (f : Frame) (n : Nat) : Nat :=
  match n with
  | 0 => f.b.fpctl
  | 1 => if f.b.nvc then 1 else 0
  | 2 => f.b.beamctl
  | 3 => f.b.wb
  | 4 => s.trapctlOf f.a
  | 5 => f.b.tcause
  | 6 => f.b.tpc
  | 7 => f.b.tlanes
  | 8 => f.b.taddr
  | 9 => f.b.tdata
  | 10 => s.trapvecOf f.a
  | 11 => f.b.alloc f.lantern
  | n => (s.fmtReg f.a (n - 16)).toNat

/-- R168. -/
def execRdctl (m : Mods) (d : BitVec 7) (i : BitVec 10) (s : State) : Host.Outcome State Fault Refusal :=
  coded m true (fun f s => let v := s.control f i.toNat; s.scalarOp f [] d.toNat false fun _ => v) s

/-- Bits of a format register that hold a value (R47). -/
def fmtMask : Word := 0x00FFE0FF#32

/-- Write fmt`n`. -/
def State.setFmt (s : State) (f : Frame) (n v : Nat) : State :=
  let w : Word := .ofNat 32 v &&& fmtMask
  match f.a with
  | .lantern k => s.modSection k fun x => { x with fmt := x.fmt.set n w }
  | .beam k b => s.modWg k fun g => { g.wrote b n (g.fmt.getD n 0).toNat with fmt := g.fmt.set n w }

/-- Write `trapctl`. -/
def State.setTrapctl (s : State) (f : Frame) (v : Nat) : State :=
  match f.a with
  | .lantern k => s.modSection k fun x => { x with brk := v.testBit 0, psave := v.testBit 1 }
  | .beam k b => s.modWg k fun g => { g.wrote b 8 (trapctl g.psave g.brk) with brk := v.testBit 0, psave := v.testBit 1 }

/-- Write control register `n`; a write to an RO register is discarded (R139 to R146, R166). -/
def State.setControl (s : State) (f : Frame) (n v : Nat) : State :=
  match n with
  | 0 => s.modBeam f.a fun b => b.setFpctl v
  | 1 => s.modBeam f.a fun b => { b with nvc := v.testBit 0 }
  | 2 => s.modBeam f.a fun b => { b with ord := v.testBit 0, hck := v.testBit 1 }
  | 3 => s.modBeam f.a fun b => b.setWb v
  | 4 => s.setTrapctl f v
  | 5 => s
  | 6 => s.modBeam f.a fun b => { b with tpc := v % 2 ^ 72 / 4 * 4, prefixed := false }
  | 7 => s
  | 8 => s
  | 9 => s
  | 10 => s
  | 11 => s
  | n => s.setFmt f (n - 16) v

/-- R168: the elected lane's value of a per-lane source. -/
def execWrctl (m : Mods) (a : BitVec 7) (i : BitVec 10) (s : State) : Host.Outcome State Fault Refusal :=
  coded m true (fun f s => s.onceRead f [.s a.toNat] [] fun s vs => (s.setControl f i.toNat (val vs 0)).goOn f) s

/-! ## Counters (R463 to R471) -/

/-- A ticket counter as `rdcnt` returns it (R465). -/
def Ticket.value (t : Ticket) : Nat := t.next + (if t.faulted then 2 ^ 63 else 0)

/-- Counter `n` (R463). -/
def State.counter (s : State) (f : Frame) (n : Nat) : Nat :=
  let k := s.core f.pl.core
  let island := s.islands.getD (islandOfCore f.pl.core) .reset
  if n = 0 then island.cycle % 2 ^ 64
  else if n = 1 then islandOfCore f.pl.core
  else if n < 16 then
    if f.lantern then 0 else (((s.launch? f.pl.launch).bind fun l => l.tickets[n - 8]?).map Ticket.value).getD 0
  else if n < 32 then k.pmc.getD (n - 16) 0
  else if n = 32 then k.errs.corr
  else if n = 33 then k.errs.uncorr
  else if n = 34 then k.errs.nvc
  else if f.lantern || island.unlimited then 0
  else wrap 64 island.level

/-- R463. -/
def execRdcnt (m : Mods) (d : BitVec 7) (i : BitVec 10) (s : State) : Host.Outcome State Fault Refusal :=
  coded m true (fun f s => let v := s.counter f i.toNat; s.scalarOp f [] d.toNat false fun _ => v) s

/-! ## `pause` and `yield.save` (R378, R420, R421, R473) -/

/-- R378, R420: the pause-loop count grows by n; the `pause` that brings it to 2^PLL traps instead of going on (R472, R473), which on a
handler path is a double fault (R165). -/
def execPause (m : Mods) (i : BitVec 16) (s : State) : Host.Outcome State Fault Refusal :=
  codedPath m true (fun f s =>
    if f.lantern then s.goOn f
    else
      let s := s.modBeam f.a fun b => { b with paused := if i = 0 then none else some i.toNat }
      if f.b.pauseLoop + i.toNat < 2 ^ s.mod.pll then
        (s.modBeam f.a fun b => { b with pauseLoop := b.pauseLoop + i.toNat }).goOn f
      else
        let s := s.modBeam f.a fun b => { b with pauseLoop := 0 }
        s.trap f.a { Cause.plain causePause with lanes := f.i.lanes } 0 f.i.lanes f.i.pc f.i.prefixed 0) s

/-- R421: legal in a handler entered for PREEMPT; the beam's outstanding results are written, and it stops. -/
def execYieldSave (m : Mods) (s : State) : Host.Outcome State Fault Refusal :=
  codedPath m true (fun f s =>
    if f.lantern || !f.b.inh || f.b.tcause % 256 != causePreempt then s.whole f (.plain causeIllegal) f.i.lanes
    else (s.goOn f).modBeam f.a fun b => { b.settle with yielded := true }) s

/-! ## The watchdogs of beams (R472, R473)

They raise their traps in a workgroup that runs: not in one that is saved or being saved (R164, R172). -/

/-- Clocks of REG_WAIT. -/
def regWaitLimit : Nat := 2 ^ 20

/-- Raise a watchdog's trap on the lanes of an entry: they are the handler path, and nothing is held (R164). -/
def State.trapWait (s : State) (a : Agent) (c : Cause) (e : Entry) : State :=
  let prefixed := s.nextOf (s.place a) e.pc == e.pc + 8
  s.trap a { c with lanes := e.lanes } 0 e.lanes e.pc prefixed 0

/-- BARRIER_STALL at a barrier: DETAIL 1 and the constellation's number at a `bar.con` (R156). -/
def EntryKind.stall : EntryKind → Cause
  | .barCon c => .at_ causeBarrier 1 c
  | _ => .plain causeBarrier

/-- R472: the beam's request for an extended block has waited 2^20 clocks; it leaves the grant order, which a retry re-enters (R166). -/
def execRegWaitExpiry (a : Agent) (s : State) : Host.Outcome State Fault Refusal :=
  .next (match s.beam? a with
    | none => s
    | some b =>
      match b.frontier.find? (·.kind == .extAcq) with
      | none => s
      | some e =>
        match a with
        | .lantern _ => s
        | .beam w n =>
          if b.regWait < regWaitLimit ∨ !s.runs a then s
          else
            let s := (s.modBeam a fun b => { b with regWait := 0 }).trapWait a (.plain causeRegWait) e
            (s.modWg w fun g => g.withdraw n).serveExt w)

/-- R472: the beam's oldest barrier entry has waited 2^BSL clocks without that barrier's count changing. -/
def execBarrierStallExpiry (a : Agent) (entry : Nat) (s : State) : Host.Outcome State Fault Refusal :=
  .next (match s.beam? a with
    | none => s
    | some b =>
      match b.frontier[entry]? with
      | none => s
      | some e =>
        let older := (b.frontier.take entry).any fun x => match x.kind with
          | .barWg => true
          | .barCon _ => true
          | _ => false
        if decide (b.barStall < 2 ^ s.mod.bsl) || !s.runs a || older || oldestBarrier b.frontier != some e.kind then s
        else (s.modBeam a fun b => { b with barStall := 0 }).trapWait a e.kind.stall e)

/-- R472: a beam whose pause-loop count stands at or above a limit that was lowered since traps at the `pause` it stands at. -/
def execPauseLoopExpiry (a : Agent) (s : State) : Host.Outcome State Fault Refusal :=
  .next (match s.beam? a with
    | none => s
    | some b =>
      match firstOf b.frontier with
      | none => s
      | some e =>
        let atPause := match s.peek (s.place a) e.pc with
          | some w => bits w.toNat 24 7 == 0x65
          | none => false
        if decide (b.pauseLoop < 2 ^ s.mod.pll) || !s.runs a || !atPause then s
        else (s.modBeam a fun b => { b with pauseLoop := 0 }).trapWait a (.plain causePause) e)

/-- R378: the clocks of a pause have run out; before that, nothing happens. -/
def execPauseExpiry (a : Agent) (s : State) : Host.Outcome State Fault Refusal :=
  .next (match a with
    | .lantern _ => s
    | .beam _ _ => s.modBeam a fun b => if b.paused = some 0 then { b with paused := none } else b)

/-- R163: a pending kind D cause is delivered, in place of the beam's next primary issue. -/
def execEngineFaultDelivery (a : Agent) (s : State) : Host.Outcome State Fault Refusal := .next (s.deliverD a)

end Sys2Proof.Machine
end

