-- ==== Sys2Proof/Machine/Preempt.lean ====
section
/-!
DEFINITION. Sys2Proof/Machine/Preempt.lean: pre-emption (spec R164, R171, R172, R430), the save record and the token save area (R136,
R138, R174, R175, R438), restoring them (R173, R153), and page services (R160, R385).
-/

namespace Sys2Proof.Machine

/-! ## Pre-emption begins (R171, R172, R430, R438, R439) -/

/-- A lane of no entry re-enters a beam's frontier; where a handler runs, the one kept aside (R426). -/
def Beam.reenter (b : Beam) (e : Entry) : Beam :=
  match b.kept with
  | some fr => { b with kept := some (placeEntry fr e) }
  | none => b.setFrontier (placeEntry b.frontier e)

/-- Bucketed lanes return to their source beams, runnable at their `regroup` (R426, R430). -/
def State.unbucket (s : State) (w : Nat) : State :=
  match s.wg? w with
  | none => s
  | some g =>
    let s := s.setWg w { g with buckets := [], due := [] }
    g.buckets.foldl (fun s x => s.modFrontier (.beam w x.beam) fun b => b.reenter (.run (x.pc - 4) x.pri (laneBit x.lane) 0)) s

/-- A free save frame of a context (R438). -/
def State.freeFrame (s : State) (ctx : Nat) : Option Nat :=
  match s.ctxEntry? ctx with
  | some e => (List.range e.sfcount).find? fun f => !(s.ctx ctx).frames.contains f
  | none => none

/-- Pre-emption of a resident workgroup begins: it is given a frame, and PREEMPT is raised in its beams, or it goes straight to the
hardware full save (R161, R171). Nothing where its context has no free frame (R439). -/
def State.preempt (s : State) (w : Nat) : State :=
  match s.wg? w with
  | none => s
  | some g =>
    let (_, s) := s.useCtx g.ctx
    match s.freeFrame g.ctx with
    | none => s
    | some f =>
      if g.status ≠ .resident ∨ g.preempting then s
      else
        let soft := g.psave && g.trapvec != 0
        let s := s.modCtx g.ctx fun c => { c with frames := c.frames ++ [f] }
        let s := s.setWg w { g with preempting := true, deadline := !soft, frame := some f, raised := (s.islands.getD 40 default).cycle }
        let s := s.unbucket w
        if soft then
          let s := s.modWg w fun g => { g with beams := g.beams.map fun (n, b) => (n, { b with pendPreempt := true }) }
          (g.agents w).foldl (fun s a => s.deliverPreempt a) s
        else s

/-- Clocks of the service island in a microsecond, at its nominal frequency (R466, R498). -/
def serviceClocks : Nat := 1000

/-- The clock of the service island (R466). -/
def State.serviceClock (s : State) : Nat := (s.islands.getD 40 default).cycle

/-- Microseconds from PREEMPT to the deadline (R172, R438, R472). -/
def State.deadlineOf (s : State) (ctx : Nat) : Nat :=
  match s.ctxEntry? ctx with
  | some e => if e.pdead = 0 then 50 else e.pdead
  | none => 50

/-- Whether a workgroup's deadline has passed and it has not yielded (R172, R472). -/
def State.deadlineOver (s : State) (g : Wg) : Bool :=
  g.status == .resident && g.preempting && !g.deadline && decide (g.raised + s.deadlineOf g.ctx * serviceClocks ≤ s.serviceClock)

/-- R172: once the deadline has passed and the workgroup has not yielded, the hardware full save begins. -/
def execPreemptionDeadline (wg : Nat) (s : State) : Host.Outcome State Fault Refusal :=
  .next (match s.wg? wg with
    | none => s
    | some g => if s.deadlineOver g then (s.setWg wg { g with deadline := true }).unbucket wg else s)

/-! ## The save record (R174, R175) -/

/-- Control register `n` of a beam, as `rdctl` reads it (R139). -/
def Wg.control (g : Wg) (b : Beam) (n : Nat) : Nat :=
  match n with
  | 0 => b.fpctl
  | 1 => if b.nvc then 1 else 0
  | 2 => b.beamctl
  | 3 => b.wb
  | 4 => trapctl g.psave g.brk
  | 5 => b.tcause
  | 6 => b.tpc
  | 7 => b.tlanes
  | 8 => b.taddr
  | 9 => b.tdata
  | 10 => g.trapvec
  | _ => b.alloc false

/-- KIND and ARG of an entry (R422). -/
def EntryKind.coded : EntryKind → Nat × Nat
  | .runnable => (0, 0)
  | .join => (1, 0)
  | .barWg => (2, 0)
  | .barCon c => (2, 0x100 + c)
  | .pfwait flag phase => (3, flag + (if phase then 256 else 0))
  | .tkwait slot _ _ _ => (4, slot)
  | .extAcq => (5, 0)
  | .parked i => (6, i)

/-- An entry's 32 bytes as one number (R422). -/
def Entry.number (e : Entry) : Nat :=
  e.pc + e.pri * 2 ^ 72 + e.lanes * 2 ^ 88 + e.kind.coded.1 * 2 ^ 152 + e.kind.coded.2 * 2 ^ 160

/-- An s register's 16 bytes: words carried with their codes, the codes beside them (R174, R175). -/
def SReg.saved (r : SReg) : List CW :=
  [⟨r.v.setWidth 32, r.c0⟩, ⟨r.v.extractLsb' 32 32, r.c1⟩] ++
    freshWords 2 ((r.v.extractLsb' 64 8).toNat + r.c0.toNat * 2 ^ 8 + r.c1.toNat * 2 ^ 16 + r.c2.toNat * 2 ^ 24)

def KReg.saved (r : KReg) : List CW := r.words ++ freshWords 2 (r.c0.toNat + r.c1.toNat * 2 ^ 8)

def XReg.saved (r : XReg) : List CW := r.word :: freshWords 1 r.code.toNat

/-- The remap table: V and PHYS (R427); an entry with V = 0 has PHYS 0 (log entry 61). -/
def Beam.remap (b : Beam) : Nat := (b.phys.mapIdx fun i p => (128 + p % 64) * 2 ^ (8 * i)).sum

/-- Entries of a beam in the order of its record's frontier region: those of the frontier it runs on, then those of the one kept aside. -/
def Beam.allEntries (b : Beam) : List Entry := b.frontier ++ b.kept.getD []

/-- The three watchdog counts in five words (R473). -/
def countWords (c : Nat × Nat × Nat) : List CW := freshWords 1 c.1 ++ freshWords 2 c.2.1 ++ freshWords 2 c.2.2

/-- The kept-frontier flag, PREFIXED, the pending PREEMPT, and how many entries stand before the kept ones. -/
def Beam.trapFlags (b : Beam) : Nat :=
  (if b.kept.isSome then 1 else 0) + (if b.prefixed then 2 else 0) + (if b.pendPreempt then 4 else 0)
    + (if b.kept.isSome then b.frontier.length * 2 ^ 8 else 0)

/-- The trap state: the held set, the flags, the codes of the pending kind D causes, the watchdog counts, current and kept aside, and the
sizes of the blocks asked for (R166, R175; log entry 21). -/
def Beam.trapState (b : Beam) : List CW :=
  freshWords 2 b.held ++ freshWords 1 b.trapFlags ++ freshWords 1 (maskOf (b.pendD.map (·.cause.code)))
    ++ countWords (b.regWait, b.barStall, b.pauseLoop) ++ countWords b.keptCounts ++ freshWords 2 (b.asked + b.keptAsked * 2 ^ 16)

/-- The code of a parked record's cause, and its page address. -/
def ParkCause.coded : ParkCause → Nat × Nat
  | .page sps _ _ => (1, ((sps.head?).map (·.base)).getD 0)
  | .split _ _ _ => (2, 0)
  | .nack _ _ => (3, 0)
  | .answer _ _ _ _ _ => (4, 0)
  | .slot sp _ => (5, sp.base)
  | .ship => (6, 0)

/-- The replay operands of a parked record, in its last 23 bytes: of a page fault the lowest lane's address, the access bits, the level, and
the other span; of a queue slot its address and level; of a split gather the first destination, the width and the lowest far lane's address; of
a NACK the lantern core and the first destination; of an access that is not answered the size, the access bits, the module and the lowest
lane's address (R175; log entry 21). -/
def ParkCause.operands : ParkCause → Nat
  | .page sps addr bits =>
    let level := ((sps.head?).map (·.level)).getD 0
    let other := (sps[1]?).getD ⟨0, 0, 0⟩
    addr + bits * 2 ^ 72 + level * 2 ^ 80 + other.base * 2 ^ 88 + other.level * 2 ^ 160
  | .slot sp addr => addr + sp.level * 2 ^ 80
  | .split far dst width => ((far.head?).map (·.2)).getD 0 + dst * 2 ^ 72 + width * 2 ^ 88
  | .nack lantern dst => lantern + dst * 2 ^ 16
  | .answer asks size bits module _ => ((asks.head?).map (·.2.1)).getD 0 + size * 2 ^ 72 + bits * 2 ^ 88 + module * 2 ^ 96
  | .ship => 0

/-- A parked record's 64 bytes: the instruction and prefix words, the address and priority, the lane set, the cause with the number of words
and PREFIXED, the page address, and the replay operands; the device keeps those of further lanes, for which there is no room (R175; log entry
21). -/
def Parked.number (r : Parked) : Nat :=
  let (c, page) := r.cause.coded
  r.words.getLastD 0 + (if 1 < r.words.length then r.words.headD 0 else 0) * 2 ^ 32 + r.pc * 2 ^ 64 + r.pri * 2 ^ 136 + r.lanes * 2 ^ 160
    + c * 2 ^ 224 + (if r.prefixed then 2 ^ 232 else 0) + r.words.length * 2 ^ 240 + page * 2 ^ 256 + r.cause.operands * 2 ^ 328

/-- A beam record (R175). -/
def Wg.beamRecord (g : Wg) (b : Beam) : List CW :=
  b.s.flatMap SReg.saved ++ b.k.flatMap KReg.saved ++ ((List.range 12).flatMap fun n => freshWords 4 (g.control b n))
    ++ b.trapState ++ freshWords 16 b.remap ++ freshWords 16 0
    ++ ((List.range 64).flatMap fun i => freshWords 8 ((b.allEntries[i]?.map Entry.number).getD 0))
    ++ ((List.range 64).flatMap fun l => match b.lanes[l]? with
        | some x => x.x.flatMap XReg.saved
        | none => freshWords 8 0)
    ++ ((List.range parkLimit).flatMap fun i => freshWords 16 (((smGet? b.parked i).map Parked.number).getD 0))

/-- The v and m words of a beam's unexited lanes, lane after lane: the v registers of the allocation, then mean and variance of each m
register where the grid has the moment file (R174; log entry 21). -/
def Beam.storage (b : Beam) (moment : Bool) : List CW :=
  (b.lanes.filter fun l => !l.exited).flatMap fun l =>
    l.v ++ if moment then l.m.flatMap fun r => [r.mean, r.var] else []

/-- The register-file words of a workgroup, beam after beam. -/
def Wg.storage (g : Wg) : List CW := g.beams.flatMap fun (_, b) => b.storage g.moment

/-- A granule image: 4,096 data words with their codes, then the codes four to a word (R174). -/
def granule (word : Nat → CW) : List CW :=
  (List.range 4096).map word ++ (List.range 1024).map fun j =>
    CW.make (.ofNat 32 ((word (4 * j)).code.toNat + (word (4 * j + 1)).code.toNat * 2 ^ 8
      + (word (4 * j + 2)).code.toNat * 2 ^ 16 + (word (4 * j + 3)).code.toNat * 2 ^ 24))

/-- The partition word (R242). -/
def Wg.part (g : Wg) : Nat := g.rf * 2 ^ 15 + g.sp * 2 ^ 8 + g.acc

/-- The header (R174). -/
def Wg.header (g : Wg) (lid : Nat) : List CW :=
  freshWords 8 (1 + (if g.deadline then 2 ^ 32 else 0) + lid * 2 ^ 64 + g.id * 2 ^ 128 + g.part * 2 ^ 160 + g.beams.length * 2 ^ 192
      + g.width * 2 ^ 208 + trapctl g.psave g.brk * 2 ^ 224)
    ++ (g.fmt.map CW.make) ++ freshWords 48 (g.barArrived + g.barGen * 2 ^ 16 + g.extIndex * 2 ^ 32)

/-- The save record (R174). -/
def Wg.saveRecord (g : Wg) (lid : Nat) : List CW :=
  g.header lid ++ (g.beams.flatMap fun (_, b) => g.beamRecord b)
    ++ ((List.range g.rf).flatMap fun i => granule fun n => g.storage.getD (4096 * i + n) .zero)
    ++ ((List.range g.sp).flatMap fun i => granule fun n => g.scratch.word (16384 * i + 4 * n))
    ++ ((List.range g.acc).flatMap fun i => granule fun n => (smGet? g.tiles (4096 * i + n)).getD .zero)

/-- The nine slots of a thread in the token save area (R136, R438). -/
def Wg.tokenRecords (g : Wg) (thread : Nat) : List CW :=
  match g.findThread thread with
  | some (n, l) => (List.range 9).flatMap fun t => (((smGet g.beams n).lane l).slot t).record
  | none => (List.range 9).flatMap fun _ => Slot.free.record

/-- Whether a workgroup has yielded: every beam has executed `yield.save` or has no unexited lane (R171). -/
def Wg.yieldedAll (g : Wg) : Bool := (g.beams.all fun (_, b) => b.yielded || b.live == 0) && g.beams.any fun (_, b) => b.yielded

/-- The tickets of a pre-empted workgroup's NACKed requests are cancelled, and the requests held for redispatch (R381). -/
def State.holdRequests (s : State) (w : Nat) : State :=
  { s with msgs := s.msgs.flatMap fun m =>
      match m, m.nacked? with
      | .backoff n t _ r, some _ => if r.wg = w then [.cancel n t, .held n r] else [m]
      | .nack n t _ r, some _ => if r.wg = w then [.cancel n t, .held n r] else [m]
      | .retry n t _ r, some _ => if r.wg = w then [.cancel n t, .held n r] else [m]
      | _, _ => [m] }

/-- The request and the lantern core of a message that has not had its answer there. -/
def Msg.underWay? : Msg → Option (Nat × Request)
  | .request n r => if r.module.isSome then none else some (n, r)
  | .nack n _ k r => if k = 1 ∧ r.module.isNone then some (n, r) else none
  | _ => none

/-- Whether a request of a workgroup is under way behind one of the same thread, to the same lantern core, that would be held: the save waits
for its answer, so that the thread's requests keep their order (R28, R37). -/
def State.straggles (s : State) (w : Nat) : Bool :=
  let held := s.msgs.filterMap Msg.nacked?
  (s.msgs.filterMap Msg.underWay?).any fun (n, r) => r.wg == w && held.any fun (k, x) =>
    k == n && x.wg == w && x.thread == r.thread && decide (x.ordinal < r.ordinal)

/-- Whether a workgroup holds a graph node of a core (R434). -/
def State.holdsNode (s : State) (w core : Nat) : Bool := (s.core core).nodes.any fun (_, n) => n.wg == w

/-- The save frame of a workgroup: the one that it was given, or, where a handler that was restored with it yields, a free one of its
context (R171, R438). -/
def State.saveFrame (s : State) (g : Wg) : Option Nat :=
  match g.frame with
  | some f => some f
  | none => s.freeFrame g.ctx

/-- Whether a workgroup is to be saved: it has yielded, or the hardware full save has stopped it, and its engine commands have completed
(R171, R172, R363). -/
def State.saves (s : State) (wg : Nat) (g : Wg) : Bool :=
  g.status == .resident && (g.deadline || g.yieldedAll) && !s.engineHolds wg && !s.straggles wg

/-- R171, R172: a workgroup that is to be saved has its outstanding results written, its writes to system addresses performed (R37, R272); the
release of R290 runs, the save record and the token save area are written, and its granules are freed. -/
def execSaveRecordWrite (wg : Nat) (s : State) : Host.Outcome State Fault Refusal :=
  .next (match s.wg? wg with
    | none => s
    | some g =>
      if !s.saves wg g then s
      else
        match s.saveFrame g, s.ctxEntry? g.ctx with
        | some f, some e =>
          let pl := s.wgPlace wg
          let s := s.modCtx g.ctx fun c => if c.frames.contains f then c else { c with frames := c.frames ++ [f] }
          let s := s.modWg wg fun g => { g with
            frame := some f
            pinned := s.holdsNode wg g.core
            beams := g.beams.map fun (n, b) => (n, { b.settle with latch := [], lanes := b.settle.lanes.map Lane.forget }) }
          let s := (s.drain g.core (flightOfWg wg)).drainPool wg fun _ => true
          let (_, s) := s.release pl .dev (flightOfWg wg)
          let s := s.advanceRegion pl .dev
          let g := (s.wg? wg).getD g
          let base := e.sfbase + f * e.sfsize
          let s := s.deviceWords base (g.saveRecord pl.lid)
          let s := s.deviceWords (base + e.sfsize - tokenArea) ((List.range g.threads).flatMap g.tokenRecords)
          let s := s.holdRequests wg
          s.setWg wg { g with
            status := .preempted
            preempting := false
            deadline := false
            beams := g.beams.map fun (n, b) => (n, { b with yielded := false }) }
        | _, _ => s)

/-! ## Restoring (R173, R243) -/

/-- The data of words as one number: a carrier checks and corrects nothing (R262). -/
def rawNum (ws : List CW) : Nat := natOfWords (ws.map (·.data))

/-- `n` words from index `i`. -/
def slice (ws : List CW) (i n : Nat) : List CW := (ws.drop i).take n

/-- An s register from its 16 bytes (R175). -/
def restoreS (ws : List CW) : Option SReg :=
  let x := rawNum ws
  if bits x 96 32 ≠ 0 then none
  else some ⟨.ofNat 72 x, .ofNat 8 (x / 2 ^ 72), .ofNat 8 (x / 2 ^ 80), .ofNat 8 (x / 2 ^ 88)⟩

/-- A k register; bits at or above the width can not be set, and k0 holds ones (R126, R134). -/
def restoreK (width n : Nat) (ws : List CW) : Option KReg :=
  let x := rawNum ws
  let v := x % 2 ^ 64
  if x / 2 ^ 80 ≠ 0 ∨ (n ≠ 0 ∧ v / 2 ^ width ≠ 0) ∨ (n = 0 ∧ v ≠ 2 ^ 64 - 1) then none
  else some ⟨.ofNat 64 v, .ofNat 8 (x / 2 ^ 64), .ofNat 8 (x / 2 ^ 72)⟩

/-- An x register: its word is sign-extended from 16 bits. -/
def restoreX (ws : List CW) : Option XReg :=
  let x := rawNum ws
  let v := BitVec.ofNat 16 x
  if x / 2 ^ 40 ≠ 0 ∨ v.signExtend 32 ≠ .ofNat 32 x then none else some ⟨v, .ofNat 8 (x / 2 ^ 32)⟩

/-- All values, or nothing. -/
def allSome {α : Type} : List (Option α) → Option (List α)
  | [] => some []
  | none :: _ => none
  | some x :: xs => (allSome xs).map (x :: ·)

/-- KIND and ARG of an entry as its wait; the hidden parts of a `tkwait` come from the entry that was saved there (R422). -/
def restoreKind (b : Beam) (i kind arg : Nat) : Option EntryKind :=
  match kind, arg with
  | 0, 0 => some .runnable
  | 1, 0 => some .join
  | 2, 0 => some .barWg
  | 2, n => if 0x100 ≤ n ∧ n < 0x200 then some (.barCon (n - 0x100)) else none
  | 3, n => if n < 512 then some (.pfwait (n % 256) (n.testBit 8)) else none
  | 4, n => match (b.allEntries[i]?).map Entry.kind with
    | some (.tkwait slot dst active zero) => if slot = n then some (.tkwait slot dst active zero) else none
    | _ => none
  | 5, 0 => some .extAcq
  | 6, n => if (smGet? b.parked n).isSome then some (.parked n) else none
  | _, _ => none

/-- The switch-marker wait of an entry whose results are still to come, as the device kept it (R80, R172; log entry 21). -/
def Beam.keptHold (b : Beam) (i : Nat) (k : EntryKind) : Nat :=
  if k.resultsKnown then 0 else ((b.allEntries[i]?).map (·.hold)).getD 0

/-- An entry from its 32 bytes; `some none` where the place is empty (R422). -/
def restoreEntry (b : Beam) (i : Nat) (ws : List CW) : Option (Option Entry) :=
  let x := rawNum ws
  if x = 0 then some none
  else
    let pc := bits x 0 72
    let lanes := bits x 88 64
    match restoreKind b i (bits x 152 8) (bits x 160 64) with
    | some k =>
      if x / 2 ^ 224 ≠ 0 ∨ lanes = 0 ∨ maskSub lanes b.live ≠ 0 ∨ pc % 4 ≠ 0 then none
      else some (some ⟨pc, bits x 72 16, lanes, k, b.keptHold i k⟩)
    | none => none

/-- The union of the lanes of entries, nothing where two overlap. -/
def disjointLanes : List Entry → Option Nat
  | [] => some 0
  | e :: es => match disjointLanes es with
    | some m => if m &&& e.lanes = 0 then some (m ||| e.lanes) else none
    | none => none

/-- Both frontiers from the region of 2,048 bytes and the trap flags: each lane that stood in one stands in one entry of it (R422, R423,
R426). Entries beyond the 64 places are those that the device kept (log entry 21). -/
def restoreFrontiers (b : Beam) (flags : Nat) (ws : List CW) : Option (List Entry × Option (List Entry)) :=
  match allSome ((List.range 64).map fun i => restoreEntry b i (slice ws (8 * i) 8)) with
  | none => none
  | some es =>
    let kept := flags.testBit 0
    let n := if kept then bits flags 8 8 else 64
    let fr := (es.take n).filterMap id
    let rest := (es.drop n).filterMap id ++ b.allEntries.drop 64
    if flags / 2 ^ 16 ≠ 0 ∨ bits flags 3 5 ≠ 0 ∨ (kept = false ∧ bits flags 8 8 ≠ 0) ∨ kept ≠ b.kept.isSome
        ∨ disjointLanes fr ≠ disjointLanes b.frontier ∨ (kept ∧ disjointLanes rest ≠ b.kept.bind disjointLanes) then none
    else some (fr, if kept then some rest else none)

/-- Whether control register values are ones that the registers can hold (R140 to R146). -/
def controlsOk (g : Wg) (b : Beam) (c : Nat → Nat) : Bool :=
  decide (1 ≤ c 0 % 8) && decide (c 0 % 8 ≤ 5) && decide (c 0 < 16) && decide (c 1 < 2)
    && (c 2 / 4 * 4 == b.beamctl / 4 * 4) && decide (c 3 < 256) && decide (c 4 < 4) && decide (c 5 < 2 ^ 16)
    && (c 6 % 4 == 0) && decide (c 6 < 2 ^ 72) && decide (c 7 < 2 ^ 64) && decide (c 8 < 2 ^ 72) && decide (c 9 < 2 ^ 40)
    && (c 10 == g.trapvec) && (c 11 == b.alloc false)

/-- A fault span of a record: its level is one of the five, and its base is a multiple of what it covers (R160, R256). -/
def spanOk (base level : Nat) : Bool := decide (1 ≤ level) && decide (level ≤ 5) && spanBase level base == base

/-- The cause of a parked record from its page address and its replay operands, with what the device kept of the record that was saved there;
nothing where they hold a value that they can not have (R173, R175; log entry 21). -/
def restoreCause (saved : ParkCause) (page x : Nat) : Option ParkCause :=
  match saved with
  | .page (sp :: rest) _ _ =>
    let level := bits x 80 8
    let other := rest.mapIdx fun i sq => if i = 0 then { sq with base := bits x 88 72, level := bits x 160 8 } else sq
    if !spanOk page level || (rest.isEmpty && x / 2 ^ 88 != 0) || 16 ≤ bits x 72 8 || x / 2 ^ 168 != 0
        || (other.any fun sq => !spanOk sq.base sq.level) then none
    else some (.page ({ sp with base := page, level := level } :: other) (bits x 0 72) (bits x 72 8))
  | .slot sp _ =>
    let level := bits x 80 8
    if !spanOk page level || bits x 72 8 != 0 || x / 2 ^ 88 != 0 then none
    else some (.slot { sp with base := page, level := level } (bits x 0 72))
  | .split ((l, _) :: far) _ _ =>
    if page ≠ 0 ∨ x / 2 ^ 96 ≠ 0 ∨ 4 < bits x 88 8 ∨ 256 ≤ bits x 72 16 then none
    else some (.split ((l, bits x 0 72) :: far) (bits x 72 16) (bits x 88 8))
  | .nack _ _ =>
    if page ≠ 0 ∨ x / 2 ^ 32 ≠ 0 ∨ 256 ≤ bits x 16 16 then none else some (.nack (bits x 0 16) (bits x 16 16))
  | .answer ((l, _, loc) :: asks) _ _ _ since =>
    if page ≠ 0 ∨ x / 2 ^ 104 ≠ 0 ∨ 16 ≤ bits x 88 8 ∨ 128 ≤ bits x 96 8 then none
    else some (.answer ((l, bits x 0 72, loc) :: asks) (bits x 72 16) (bits x 88 8) (bits x 96 8) since)
  | c => if page = 0 ∧ x = 0 then some c else none

/-- A parked record from its 64 bytes (R175). -/
def restoreParked (b : Beam) (i : Nat) (ws : List CW) : Option (Option (Nat × Parked)) :=
  let x := rawNum ws
  match smGet? b.parked i with
  | none => if x = 0 then some none else none
  | some r =>
    let lanes := bits x 160 64
    let n := bits x 240 16
    match restoreCause r.cause (bits x 256 72) (x / 2 ^ 328) with
    | none => none
    | some c =>
      if bits x 64 72 % 4 ≠ 0 ∨ bits x 152 8 ≠ 0 ∨ bits x 224 8 ≠ r.cause.coded.1 ∨ bits x 233 7 ≠ 0 ∨ 2 < n
          ∨ lanes = 0 ∨ maskSub lanes b.live ≠ 0 then none
      else some (some (i, ⟨c, bits x 64 72, bits x 136 16, lanes, x.testBit 232,
        if n = 0 then [] else if n = 1 then [bits x 0 32] else [bits x 32 32, bits x 0 32]⟩))

/-- The three watchdog counts from five words; nothing where one is above its greatest limit (R173, R472). -/
def restoreCounts (ws : List CW) : Option (Nat × Nat × Nat) :=
  let c := (rawNum (slice ws 0 1), rawNum (slice ws 1 2), rawNum (slice ws 3 2))
  if c.1 ≤ regWaitLimit ∧ c.2.1 ≤ 2 ^ 32 ∧ c.2.2 ≤ 2 ^ 32 then some c else none

/-- Registers per lane that an `ext.acq` may ask for, or none (R201). -/
def askedOk (n : Nat) : Bool := n % 32 == 0 && decide (n ≤ 224)

/-- Words as moments. -/
def momsOf : List CW → List Mom
  | a :: b :: rest => ⟨a, b⟩ :: momsOf rest
  | _ => []

/-- Lanes with their v and m words from the granules, in the order of `Beam.storage`; the words that are left follow. -/
def restoreStorage (moment : Bool) : List Lane → List CW → List Lane
  | [], _ => []
  | l :: ls, ws =>
    if l.exited then l :: restoreStorage moment ls ws
    else
      let n := l.v.length
      let k := if moment then 64 else 0
      { l with v := ws.take n, m := if moment then momsOf ((ws.drop n).take k) else l.m } :: restoreStorage moment ls (ws.drop (n + k))

/-- The lanes of a beam with their x registers restored. -/
def restoreLanes (b : Beam) (ws : List CW) : Option (List Lane) :=
  allSome (b.lanes.mapIdx fun l x =>
    (allSome ((List.range 4).map fun i => restoreX (slice ws (8 * l + 2 * i) 2))).map fun xs => { x with x := xs })

/-- A beam from its record and its register-file words (R173, R175): what the record has no place for, the device keeps. PHYS comes from the
redispatch; a beam keeps its quarter, a regrouped one too, whose number R16 does not bind (R190, R458; log entry 47). -/
def restoreBeam (g : Wg) (b : Beam) (phys : Nat) (ws store : List CW) : Option Beam :=
  let trap := slice ws 336 16
  let flags := rawNum (slice trap 2 1)
  let remap := rawNum (slice ws 352 16)
  let c := fun n => rawNum (slice ws (288 + 4 * n) 4)
  match allSome ((List.range 64).map fun i => restoreS (slice ws (4 * i) 4)),
      allSome ((List.range 8).map fun i => restoreK b.width i (slice ws (256 + 4 * i) 4)),
      restoreFrontiers b flags (slice ws 384 512), restoreLanes b (slice ws 896 512),
      allSome ((List.range parkLimit).map fun i => restoreParked b i (slice ws (1408 + 16 * i) 16)),
      restoreCounts (slice trap 4 5), restoreCounts (slice trap 9 5) with
  | some ss, some ks, some (fr, kept), some lanes, some parked, some (rw, bs, pl), some counts =>
    let held := rawNum (slice trap 0 2)
    let asked := rawNum (slice trap 14 2)
    if !controlsOk g b c || rawNum (slice ws 368 16) != 0 || held / 2 ^ b.count != 0
        || !askedOk (asked % 2 ^ 16) || !askedOk (asked / 2 ^ 16)
        || rawNum (slice trap 3 1) != maskOf (b.pendD.map (·.cause.code))
        || (List.range 64).any fun i => bits remap (8 * i) 8 / 64 != (if i < b.count then 2 else 0) then none
    else some { (b.setFpctl (c 0)) with
      s := ss
      k := ks
      nvc := (c 1).testBit 0
      ord := (c 2).testBit 0
      hck := (c 2).testBit 1
      wb := c 3
      tcause := c 5
      tpc := c 6
      tlanes := c 7
      taddr := c 8
      tdata := c 9
      held := held
      asked := asked % 2 ^ 16
      keptAsked := asked / 2 ^ 16
      prefixed := flags.testBit 1
      pendPreempt := flags.testBit 2
      regWait := rw
      barStall := bs
      pauseLoop := pl
      keptCounts := counts
      phys := (List.range b.count).map fun i => phys + i
      frontier := fr
      kept := kept
      parked := parked.filterMap id
      lanes := restoreStorage g.moment lanes store
      lastTurn := 0
      passed := 0
      gang := (0, 0) }
  | _, _, _, _, _, _, _ => none

/-- The beams of a workgroup from the records from index `i` on and the register-file words. -/
def restoreBeams (g : Wg) (phys : Nat → Nat) (record : Nat → List CW) : Nat → SMap Beam → List CW → Option (SMap Beam)
  | _, [], _ => some []
  | i, (n, b) :: rest, ws =>
    match restoreBeam g b (phys n) (record i) ws, restoreBeams g phys record (i + 1) rest (ws.drop (b.storage g.moment).length) with
    | some x, some xs => some ((n, x) :: xs)
    | _, _ => none

/-- A token slot from its record; its hidden parts are kept (R136). -/
def restoreSlot (old : Slot) (ws : List CW) : Option Slot :=
  let x := rawNum (ws.drop 4)
  let st : Option SlotState := match bits x 0 8 with
    | 0 => some .free
    | 1 => some .pending
    | 2 => some .done
    | _ => none
  let n := bits x 16 8
  match st with
  | none => none
  | some st =>
    if 4 < n ∨ x / 2 ^ 24 ≠ 0 ∨ (((ws.take 4).drop n).any fun w => w.data != 0) then none
    else some { old with state := st, status := bits x 8 8, count := n, res := ws.take 4 }

/-- The token slots of a beam's unexited lanes, from the save area. -/
def State.restoreSlots (s : State) (e : CtxEntry) (frame : Nat) (b : Beam) : Option Beam :=
  (allSome (b.lanes.map fun x =>
    if x.exited then some x
    else (allSome ((List.range 9).map fun t => restoreSlot (x.slot t) (s.physWords (tokenAddr e frame x.thread t) 8))).map
      fun ss => { x with slots := ss })).map fun ls => { b with lanes := ls }

/-- A granule's words, each with the code its image gives beside it (R174). -/
def granuleWords (ws : List CW) : List CW :=
  let cs := (slice ws 4096 1024).map fun w => w.data.toNat
  (ws.take 4096).mapIdx fun i w => ⟨w.data, .ofNat 8 (cs.getD (i / 4) 0 / 2 ^ (8 * (i % 4)))⟩

/-- The whole workgroup from its save record and token save area; nothing where a saved value is one that no register or field can
hold (R173). `phys` gives each beam's first physical lane. -/
def State.restoreWg (s : State) (g : Wg) (e : CtxEntry) (frame lid : Nat) (phys : Nat → Nat) : Option Wg :=
  let base := e.sfbase + frame * e.sfsize
  let nb := g.beams.length
  let head := s.physWords base 64
  let granules := fun (i n : Nat) => (List.range n).flatMap fun k =>
    granuleWords (s.physWords (base + 256 + 8192 * nb + 20480 * (i + k)) 5120)
  let h := rawNum (head.take 8)
  let fmt := (slice head 8 8).map fun w => w.data
  let bar := rawNum (head.drop 16)
  let ctl := bits h 224 32
  let same := h % 2 ^ 32 == 1 && decide (bits h 32 32 < 2) && bits h 64 64 == lid && bits h 128 32 == g.id && bits h 160 32 == g.part
    && bits h 192 16 == nb && bits h 208 8 == g.width && bits h 216 8 == 0 && decide (ctl < 4)
    && fmt.all (fun f => f &&& fmtMask == f) && decide (bits bar 0 16 ≤ g.threads) && bar / 2 ^ 64 == 0
  match (restoreBeams g phys (fun i => s.physWords (base + 256 + 8192 * i) 2048) 0 g.beams (granules 0 g.rf)).bind fun bs =>
      allSome (bs.map fun (n, b) => (s.restoreSlots e frame b).map fun b => (n, b)) with
  | some beams =>
    if !same then none
    else some { g with
      psave := ctl.testBit 1
      brk := ctl.testBit 0
      fmt := fmt
      barArrived := bits bar 0 16
      barGen := bits bar 16 16
      extIndex := bits bar 32 32
      beams := beams
      scratch := Mem.empty.setWords 0 (granules g.rf g.sp)
      tiles := (((granules (g.rf + g.sp) g.acc).mapIdx fun i w => (i, w)).filter fun (_, w) => w != .zero) }
  | none => none

/-! ## Page services (R160, R385) -/

/-- The cause that a fatal completion of a span which holds the address makes of a parked record, which waits on that span (R160, R410). -/
def ParkCause.served (c : ParkCause) (ctx va : Nat) : Option Cause :=
  match c with
  | .page sps addr bits => (sps.find? fun sp => sp.holds ctx va).map fun sp => .at_ causePage bits (max addr sp.base)
  | .slot sp addr => if sp.holds ctx va then some (.at_ causeAccess 1 addr) else none
  | _ => none

/-- Serve the parked records of a beam that wait on a span holding the address: their lanes replay, or, where it is fatal, trap at the
instruction (R160, R410). -/
def State.serveBeam (s : State) (a : Agent) (ctx va : Nat) (fatal : Bool) : State :=
  ((s.beam? a).map (·.parked)).getD [] |>.foldl (fun s (i, r) => match r.cause.served ctx va with
    | none => s
    | some c =>
      let s := s.modFrontier a fun b => b.unpark i r.pc r.lanes false
      if fatal then s.raiseFatal a { c with lanes := r.lanes } r.pc r.prefixed else s) s

/-- Serve a workgroup's parked lanes: at once while it runs, otherwise at redispatch (R173). -/
def State.serveWg (s : State) (w ctx va : Nat) (fatal : Bool) : State :=
  match s.wg? w with
  | none => s
  | some g =>
    if g.status = .resident ∧ !g.deadline then (g.agents w).foldl (fun s a => s.serveBeam a ctx va fatal) s
    else s.setWg w { g with served := g.served ++ [(va, fatal)] }

end Sys2Proof.Machine
end

