-- ==== Sys2Proof/Machine/Launches.lean ====
section
/-!
DEFINITION. Sys2Proof/Machine/Launches.lean: taking launch records (spec R364 to R372, R242, R129, R431), dispatch and placement (R16, R17,
R22, R25, R26, R373 to R376), the start and the redispatch of a workgroup (R13, R126, R173, R243, R290, R381, R434) and completion
(R371, R416).
-/

namespace Sys2Proof.Machine

/-! ## Launch records (R368, R369) -/

/-- The dispatcher, as an agent that translates: it has no TLB and no cache. -/
def dispatcherCore : Nat := 416

/-- A budget of registers within R124's limits. -/
def budgetOk (b e : Nat) : Bool :=
  b % 8 == 0 && decide (32 ≤ b) && decide (b ≤ 128) && e % 32 == 0 && decide (e ≤ 224) && decide (b + e ≤ 256)

/-- Role of beam `b` (R22): 0 none, 1 copy, 2 matrix, 3 epilogue. -/
def roleOf (roles : Bool) (copies b : Nat) : Nat := if !roles then 0 else if b < copies then 1 else if b = copies then 2 else 3

/-- The budget of a role: (base, extension). -/
def budgetOf (regs : List (Nat × Nat)) (role : Nat) : Nat × Nat := regs.getD (if role = 2 then 1 else if role = 3 then 2 else 0) (0, 0)

def LaunchRec.beams (r : LaunchRec) : Nat := r.threads / r.width
def LaunchRec.total (r : LaunchRec) : Nat := r.gx * r.gy * r.gz
def LaunchRec.granules (r : LaunchRec) : Nat := r.rf + r.sp + r.acc
def LaunchRec.budget (r : LaunchRec) (b : Nat) : Nat × Nat := budgetOf r.regs (roleOf r.roles r.copies b)

/-- Register demand (R129). -/
def LaunchRec.demand (r : LaunchRec) : Nat :=
  ((List.range r.beams).map fun b => r.width * (r.budget b).1 * 4).sum + (if r.moment then 256 * r.threads else 0)

/-- The fields of a record given as one number (R368). -/
def parseRecord (ctx n : Nat) : LaunchRec where
  ctx := ctx
  prio := bits n 22 2
  moment := n.testBit 21
  strict := n.testBit 17
  dies := bits n 8 8
  width := bits n 0 8
  rf := bits n (32 + 15) 7
  sp := bits n (32 + 8) 7
  acc := bits n 32 6
  roles := n.testBit (64 + 31)
  copies := bits n (64 + 24) 7
  epilogues := bits n (64 + 17) 7
  regs := [(bits n (96 + 8) 8, bits n 96 8), (bits n (96 + 24) 8, bits n (96 + 16) 8), (bits n (128 + 8) 8, bits n 128 8)]
  threads := bits n 160 11
  gx := bits n 192 32
  gy := bits n 224 32
  gz := bits n 256 32
  lid := bits n 320 64
  entry := bits n 512 72
  trapvec := bits n 640 72
  args := bits n 768 72
  compl := bits n 1024 72

/-- GROUPS and NGRP of a record. -/
def recordGroups (n : Nat) : Nat := bits n 896 72
def recordNgrp (n : Nat) : Nat := bits n 288 9

/-- PRED0 to PRED3. -/
def recordPreds (n : Nat) : List Nat := (List.range 4).map fun i => bits n (1152 + 64 * i) 64

/-- Whether a record's reserved fields are zero: those of CTRL, PART, ROLES, REGSB, THREADS, NGRP, the slots and the rest (R368, R242,
R312). -/
def recordReserved (n : Nat) : Bool :=
  !n.testBit 16 && bits n (32 + 22) 10 == 0 && bits n (32 + 6) 2 == 0 && bits n 64 17 == 0 && bits n (128 + 16) 16 == 0
    && bits n (160 + 11) 21 == 0 && bits n (288 + 9) 23 == 0 && bits n 384 128 == 0
    && ([512, 640, 768, 896, 1024].all fun o => bits n (o + 72) 56 == 0) && n / 2 ^ 1408 == 0

/-- Whether a record alone obeys R369; the group table is judged apart. -/
def recordOk (n : Nat) : Bool :=
  let r := parseRecord 0 n
  let npred := bits n 18 3
  bits n 24 8 == 1 && recordReserved n && [8, 16, 32, 64].contains r.width && decide (1 ≤ r.threads) && decide (r.threads ≤ 1024)
    && r.threads % r.width == 0 && r.gx != 0 && r.gy != 0 && r.gz != 0 && decide (r.total ≤ 2 ^ 32)
    && (r.roles || (r.copies == 0 && r.epilogues == 0)) && (!r.roles || r.copies + 1 + r.epilogues == r.beams)
    && (if r.roles then r.regs.all fun (b, e) => budgetOk b e
        else budgetOk (r.budget 0).1 (r.budget 0).2 && (r.regs.drop 1).all fun x => x == (0, 0))
    && (recordNgrp n != 0 || recordGroups n == 0) && r.rf != 0 && decide (r.granules ≤ 112) && decide (r.acc ≤ 32)
    && decide (r.demand ≤ r.rf * 16384) && r.dies != 0 && decide (npred ≤ 4) && decide (recordNgrp n ≤ 256)
    && ((recordPreds n).drop npred).all (· == 0) && r.entry % 64 == 0 && r.trapvec % 4 == 0 && recordGroups n % 16 == 0
    && r.compl % 4 == 0

/-! ## The group table (R431) -/

/-- The ranges of an entry given as one number. -/
def groupRanges (x : Nat) : List (Nat × Nat) :=
  (List.range (bits x 0 5)).map fun k => (bits x (64 + 64 * k) 32, bits x (96 + 64 * k) 32)

def insertRange (r : Nat × Nat) : List (Nat × Nat) → List (Nat × Nat)
  | [] => [r]
  | q :: qs => if r.1 ≤ q.1 then r :: q :: qs else q :: insertRange r qs

/-- Numbers covered by ranges that rise by their first number, from `next` on. -/
def coverFrom (next : Nat) : List (Nat × Nat) → Nat
  | [] => 0
  | (a, b) :: rest => (b + 1 - max a next) + coverFrom (max next (b + 1)) rest

/-- Members of ranges that may overlap. -/
def memberCount (rs : List (Nat × Nat)) : Nat := coverFrom 0 (rs.foldr insertRange [])

/-- Whether an entry obeys R431 in a grid of this many workgroups. -/
def groupOk (total x : Nat) : Bool :=
  if x.testBit 31 then
    let n := bits x 0 5
    bits x 5 24 == 0 && bits x 32 32 == 0 && decide (1 ≤ n) && decide (n ≤ 16) && bits x (64 + 64 * n) (1152 - 64 - 64 * n) == 0
      && (groupRanges x).all fun (a, b) => decide (a ≤ b) && decide (b < total)
  else x == 0

def makeGroup (number x : Nat) : Group :=
  ⟨number, x.testBit 30, x.testBit 29, groupRanges x, memberCount (groupRanges x), 0, [], 0, [], RSet.empty⟩

/-- The constellations of a table, or nothing where it breaks R431 or puts a workgroup in a fifth (R26): a range's first number is where
coverage rises. -/
def parseGroups (total : Nat) (xs : List Nat) : Option (List Group) :=
  let gs := (xs.mapIdx fun i x => (i, x)).filterMap fun (i, x) => if x.testBit 31 then some (makeGroup i x) else none
  let firsts := gs.flatMap fun g => g.ranges.map (·.1)
  if xs.all (groupOk total) && firsts.all fun f => decide (gs.countP (fun g => g.holds f) ≤ 4) then some gs else none

/-- A table's words as one number per entry of 144 bytes. -/
def groupNumbers (n : Nat) (ws : List Word) : List Nat := (List.range n).map fun i => natOfWords ((ws.drop (36 * i)).take 36)

/-! ## Taking a record (R367, R369, R370, R372) -/

/-- Why a record is rejected (R370). -/
def rejectMalformed : Nat := 1
def rejectNoFit : Nat := 2
def rejectUnreadable : Nat := 3
def rejectCompl : Nat := 4
def rejectFrame : Nat := 5

/-- Charge checks of consecutive words read by the dispatcher to the slices that hold them (R369, R469). -/
def State.chargeWords (s : State) (ctx va : Nat) : List CW → State
  | [] => s
  | w :: ws =>
    let (c, u) := tally [w]
    let s := if c = 0 ∧ u = 0 then s else match s.reach dispatcherCore ctx (va % 2 ^ 72) .load with
      | (.page p, s) => chargeHome s p.loc c u
      | (_, s) => s
    s.chargeWords ctx (va + 4) ws

/-- Post a LAUNCH record (R384). -/
def State.launchRecord (s : State) (ctx q lid slot reason : Nat) : State :=
  s.postRecord ctx { (default : FaultRec) with kind := 3, reason := reason, source := 5, lid := lid, unit := 0xC000 + q, addr := slot }

/-- Post the PAGE record of a span that the dispatcher waits on. -/
def State.dispatcherWait (s : State) (q lid reason bits : Nat) (sp : Span) : State :=
  s.waitSpan sp ⟨1, 0, bits, reason, 5, sp.level, lid, 0, 0xC000 + q, sp.base, 0, 0, 0, 0⟩

/-- A launch as it enters the table. -/
def newLaunch (r : LaunchRec) (q slot : Nat) (groups : List Group) (preds : List Nat) (node : Option (Nat × Nat)) (pub : RSet)
    (rejected : Bool) : Launch :=
  { record := r, queue := q, slotAddr := slot, groups := groups, preds := preds, eligible := none, nextWg := 0, ended := [],
    triggered := [], terminated := [], tickets := List.replicate 8 ⟨0, false, RSet.empty⟩, exitPubs := [], trigPub := .empty, epoch := 0, oldCode := [],
    served := [], node := node, pub := pub, waiting := none, rejected := rejected }

/-- Live launches of the context that PRED entries name: of several with one identity, the one taken most recently (R372). -/
def State.bindPreds (s : State) (ctx : Nat) (lids : List Nat) : List Nat :=
  lids.filterMap fun lid =>
    if lid = 0 then none
    else ((s.launches.filter fun (_, l) => l.record.ctx == ctx && l.record.lid == lid).getLast?).map (·.1)

/-- Bytes of a frame that a workgroup of the launch needs (R369). -/
def LaunchRec.frameBytes (r : LaunchRec) : Nat := tokenArea + 256 + 8192 * r.beams + 20480 * r.granules

/-- A record that has been read enters the table: judged, its predecessors bound, and eligible at once with none (R369, R370, R372). The
completion address of a record that breaks R369 counts where it is a legal address (log entry 22). What its append published passes to its
workgroups (R297). -/
def State.enterTable (s : State) (q : Nat) (slot : Nat) (ws table : List CW) (unreadable : Bool) (node : Option (Nat × Nat)) : State :=
  let ctx := (s.lq q).ctx
  let n := natOfWords (ws.map fun w => ((lccCheck w).data?).getD w.data)
  let r := parseRecord ctx n
  let badCompl := (checkedData (slice ws 32 4)).isNone || bits n (1024 + 72) 56 != 0 || r.compl % 4 != 0
  let groups := match checkedData table with
    | some ds => parseGroups r.total (groupNumbers (recordNgrp n) ds)
    | none => none
  let frame := match s.ctxEntry? ctx with
    | some e => e.sfcount != 0 && decide (e.sfsize < r.frameBytes)
    | none => false
  let pub := (smGet? (s.lq q).pubs (s.lq q).head).getD RSet.empty
  let add := fun (s : State) (l : Launch) =>
    { s with launches := smSet s.launches s.nextLaunch l, nextLaunch := s.nextLaunch + 1 }
  let reject := fun (reason : Nat) =>
    add (s.launchRecord ctx q r.lid slot reason)
      (newLaunch { r with compl := if badCompl then 0 else r.compl } q slot [] [] node pub true)
  if unreadable then reject rejectUnreadable
  else match recordOk n, groups with
    | true, some gs =>
      if frame then reject rejectFrame
      else (add s (newLaunch r q slot gs (s.bindPreds ctx ((recordPreds n).take (bits n 18 3))) node pub false)).checkEligible
    | _, _ => reject rejectMalformed

/-- HEAD advances: the slot may be reused, and appends that waited for room go on (R366, R367). -/
def State.advanceHead (s : State) (q : Nat) : State :=
  let s := s.modLq q fun x => { x with head := (x.head + 1) % 2 ^ 32, tableFatal := false, nodes := smErase x.nodes x.head, pubs := smErase x.pubs x.head }
  { s with lastQueue := q }.retryNodes fun x => x.lq == q && x.wait.isNone

/-- The queue stops (R367). -/
def State.stopQueue (s : State) (q : Nat) : State := s.modLq q fun x => { x with en := false, err := true }

/-- Try to take the record at a queue's head; answers whether one was taken (R367, R369, R439). A page fault on the group table is recorded
with the launch identity that the record has given by then (R384). -/
def State.takeFrom (s : State) (q : Nat) : Bool × State :=
  let lq := s.lq q
  if !lq.en || lq.slots == 0 || lq.pending == 0 || lq.wait.isSome then (false, s)
  else match s.useCtx lq.ctx with
    | (none, s) => (false, s.modLq q fun x => { x with err := true })
    | (some _, s) =>
      let slot := lq.slotAddr lq.head
      match s.homeRead dispatcherCore lq.ctx slot 64 with
      | (.error (.fault sp reason), s) =>
        (false, (s.modLq q fun x => { x with wait := some sp, inTable := false }).dispatcherWait q 0 reason 0 sp)
      | (.error .deny, s) => (false, s.stopQueue q)
      | (.error (.silent loc), s) => match s.waited (.queue q) dispatcherCore loc with
        | (true, s) => (false, s.stopQueue q)
        | (false, s) => (false, s)
      | (.ok ws, s) =>
        let s := s.chargeWords lq.ctx slot ws
        let n := natOfWords (ws.map fun w => ((lccCheck w).data?).getD w.data)
        let node := smGet? lq.nodes lq.head
        let bad := (checkedData ws).isNone
        let ngrp := recordNgrp n
        if bad || ngrp == 0 || decide (256 < ngrp) || recordGroups n % 16 != 0 then
          (true, (s.enterTable q slot ws [] bad node).advanceHead q)
        else if lq.tableFatal then (true, (s.enterTable q slot ws [] true node).advanceHead q)
        else match s.homeRead dispatcherCore lq.ctx (recordGroups n) (36 * ngrp) with
          | (.error (.fault sp reason), s) =>
            (false, (s.modLq q fun x => { x with wait := some sp, inTable := true }).dispatcherWait q (bits n 320 64) reason 0 sp)
          | (.error .deny, s) => (true, (s.enterTable q slot ws [] true node).advanceHead q)
          | (.error (.silent loc), s) => match s.waited (.queue q) dispatcherCore loc with
            | (true, s) => (true, (s.enterTable q slot ws [] true node).advanceHead q)
            | (false, s) => (false, s)
          | (.ok ts, s) =>
            let s := s.chargeWords lq.ctx (recordGroups n) ts
            (true, (s.enterTable q slot ws ts (checkedData ts).isNone node).advanceHead q)

/-- Take from the first of these queues that yields a record. -/
def State.takeFirst (s : State) : List Nat → State
  | [] => s
  | q :: qs => match s.takeFrom q with
    | (true, s) => s
    | (false, s) => s.takeFirst qs

/-- Live launches the table holds (R367). -/
def launchTable : Nat := 512

/-- R367: one record is taken, round-robin by queue number; none in the pilot light, nor at a quiesce point (R489, R494). -/
def execLaunchRecordTake (s : State) : Host.Outcome State Fault Refusal :=
  .next (if !s.ready ∨ s.dispatcherStalls ∨ launchTable ≤ s.launches.length then s
    else s.takeFirst ((List.range 64).map fun i => (s.lastQueue + 1 + i) % 64))

/-! ## Room (R17, R242, R374) -/

/-- Granules a core offers (R242). -/
def coreGranules : Nat := 112

/-- Workgroups resident on a core at most (R17). -/
def coreWorkgroups : Nat := 16

/-- What a workgroup needs of a core: granules, and beam contexts by quarter. -/
structure Need where
  granules : Nat
  contexts : List Nat

/-- What a workgroup needs at its first dispatch (R16). -/
def LaunchRec.need (r : LaunchRec) : Need :=
  ⟨r.granules, (List.range 4).map fun q => (List.range r.beams).countP fun b => quarterOf b == q⟩

/-- What a pre-empted workgroup needs. -/
def Wg.need (g : Wg) : Need := ⟨g.rf + g.sp + g.acc, (List.range 4).map fun q => g.beams.countP fun (_, b) => b.quarter == q⟩

/-- Whether a core has room, not counting workgroups that `gone` picks (R17). -/
def State.room (s : State) (core : Nat) (n : Need) (gone : Wg → Bool) : Bool :=
  let here := (s.wgs.map (·.2)).filter fun g => g.core == core && g.status != .preempted && !gone g
  let live := here.filter fun g => g.status != .ended
  decide ((here.map fun g => g.rf + g.sp + g.acc).sum + n.granules ≤ coreGranules) && decide (live.length < coreWorkgroups)
    && (List.range 4).all fun q =>
      decide ((live.map fun g => g.beams.countP fun (_, b) => b.quarter == q).sum + n.contexts.getD q 0 ≤ contextsPerQuarter)

/-- The cores a workgroup is tried on, in order (R374). -/
def LaunchRec.cores (r : LaunchRec) (id : Nat) : List Nat :=
  let dies := lanesOf r.dies 8
  let n := dies.length
  let order := (List.range (if r.strict then 1 else n)).map fun i => dies.getD ((id % n + i) % n) 0
  order.flatMap fun d => (d * 36 + id / n % 36) :: (List.range 36).map fun c => d * 36 + c

/-- Entries of a die's dispatch queue (R374). -/
def dispatchQueue : Nat := 64

def State.queuedOn (s : State) (die : Nat) : Nat := (s.wgs.filter fun (_, g) => g.status == .queued && dieOfCore g.core == die).length

/-! ## A new workgroup (R13, R14, R16, R126 to R131, R242 to R245) -/

/-- A lane at launch. -/
def newLane (thread base : Nat) : Lane :=
  { thread := thread, v := List.replicate base .zero, x := List.replicate 4 (mkX 0), m := List.replicate 32 ⟨.zero, .zero⟩,
    slots := List.replicate 9 .free, exited := false, fences := [], reads := [], early := [] }

/-- A beam at launch. -/
def LaunchRec.beam (r : LaunchRec) (b phys : Nat) : Beam :=
  { number := b, quarter := quarterOf b, width := r.width, role := roleOf r.roles r.copies b, base := (r.budget b).1,
    extDecl := (r.budget b).2, ext := 0, asked := 0, keptAsked := 0, phys := (List.range r.width).map fun i => phys + i,
    lanes := (List.range r.width).map fun i => newLane (b * r.width + i) (r.budget b).1,
    s := mkS r.args :: List.replicate 63 (mkS 0), k := onesK :: List.replicate 7 (mkK r.width 0), rm := 1, ftz := false, nvc := false,
    inh := false, hck := false, ord := false, wb := 0, tcause := 0, tpc := 0, tlanes := 0, taddr := 0, tdata := 0, tsource := 0, entryPc := 0,
    held := 0, prefixed := false, kept := none, pendD := [], pendPreempt := false, frontier := [.run r.entry 0 (2 ^ r.width - 1) 0],
    parked := [], fatals := [], outstanding := [], latch := [], paused := none, regWait := 0, barStall := 0, pauseLoop := 0,
    keptCounts := (0, 0, 0), yielded := false, lastTurn := 0, passed := 0, passedLevel := 0, hinted := 0, gang := (0, 0) }

/-- A workgroup at its first dispatch to a core: its granules read zero (R243). `phys` gives each beam's first physical lane. -/
def LaunchRec.wg (r : LaunchRec) (launch id core dispatched : Nat) (pub : RSet) (phys : Nat → Nat) : Wg :=
  { launch := launch, id := id, ctx := r.ctx, core := core, status := .queued, preempting := false, deadline := false, frame := none,
    dispatched := dispatched, rf := r.rf, sp := r.sp, acc := r.acc, width := r.width, threads := r.threads, moment := r.moment,
    psave := true, brk := true, trapvec := r.trapvec, fmt := fmtPresets, unseen := [], scratch := .empty, pool := [], tiles := [],
    beams := (List.range r.beams).map fun b => (b, r.beam b (phys b)), reserve := r.rf * 16384 - r.demand, extQueue := [], extIndex := 0,
    barArrived := 0, barGen := 0, barThreads := 0, raised := 0, pinned := false, exitedThreads := 0, cons := [], owed := [], served := [], buckets := [],
    bucketSeq := 0, due := [], triggered := false, region := 0, rset := pub, uncovered := [], sigCopy := 0, sigMatrix := 0, fate := none }

/-- First physical lanes of beams, chosen by the device: a free value (R18, R427). -/
def physOf (v : BitVec 256) (width n : Nat) : Nat := bits v.toNat (n % 250) 6 / width * width

/-- A new workgroup of a launch is placed on a core and enters its die's dispatch queue. -/
def State.place1 (s : State) (k : Nat) (l : Launch) (core : Nat) : State :=
  let (v, s) := s.freeWord
  let g := { l.record.wg k l.nextWg core s.dispatchCount l.pub (physOf v l.record.width) with
    cons := (l.groups.filter (·.holds l.nextWg)).map (·.number) }
  { (s.setWg (wgKey k l.nextWg) g).modLaunch k (fun l => { l with nextWg := l.nextWg + 1 }) with dispatchCount := s.dispatchCount + 1 }

/-! ## The dispatcher (R373 to R376) -/

/-- Place every workgroup of a co-resident launch, or none (R375). -/
def State.placeAll (s : State) (k : Nat) : Nat → Option State
  | 0 => some s
  | n + 1 =>
    match s.launch? k with
    | none => none
    | some l =>
      match (l.record.cores l.nextWg).find? fun c => s.room c l.record.need fun _ => false with
      | none => none
      | some c => (s.place1 k l c).placeAll k n

/-- Workgroups of a launch that an empty core holds. -/
def LaunchRec.perCore (r : LaunchRec) : Nat :=
  min (min (coreGranules / r.granules) coreWorkgroups) (contextsPerQuarter / ((r.beams + 3) / 4))

/-- Whether a grid fits on the cores its workgroups may use, taken as empty (R26, R375). -/
def LaunchRec.fitsEmpty (r : LaunchRec) : Bool :=
  let n := (lanesOf r.dies 8).length
  if r.strict then decide ((r.total + n - 1) / n ≤ 36 * r.perCore) else decide (r.total ≤ n * 36 * r.perCore)

/-- The better victim: the lower PRIO, then the more recently dispatched (R376). -/
def betterVictim (a b : Nat × Nat × Nat) : Nat × Nat × Nat :=
  if a.2.1 < b.2.1 ∨ (a.2.1 = b.2.1 ∧ b.2.2 < a.2.2) then a else b

/-- Pre-empt one lower-priority workgroup for one that has no room, unless room is already being made (R376). -/
def State.preemptFor (s : State) (r : LaunchRec) (cores : List Nat) (need : Need) : Option State :=
  if r.prio = 0 ∨ cores.any fun c => s.room c need fun g => g.preempting then none
  else
    let prioOf := fun (g : Wg) => ((s.launch? g.launch).map (·.record.prio)).getD 0
    let s := s.wgs.foldl (fun s (_, g) => s.loadCtx g.ctx) s
    let may := s.wgs.filter fun (_, g) =>
      g.status == .resident && !g.preempting && r.dies.testBit (dieOfCore g.core) && decide (prioOf g < r.prio)
        && ((s.ctxEntry? g.ctx).map fun e => !e.nopre).getD false && (s.freeFrame g.ctx).isSome
    match may.map fun (w, g) => (w, prioOf g, g.dispatched) with
    | [] => none
    | v :: vs => some (s.preempt (vs.foldl betterVictim v).1)

/-- What the dispatcher does for a launch: redispatch its lowest pre-empted workgroup, else place its next one; nothing where that one
has to wait (R25, R373 to R376). -/
def State.dispatchFor (s : State) (k : Nat) (l : Launch) : Option State :=
  let r := l.record
  let free := fun (_ : Wg) => false
  match s.wgs.find? fun (_, g) => g.launch == k && g.status == .preempted with
  | some (w, g) =>
    let cores := if g.pinned then [g.core] else r.cores g.id
    match cores.find? fun c => s.room c g.need free with
    | some c =>
      if dispatchQueue ≤ s.queuedOn (dieOfCore c) then none
      else some { s.setWg w { g with status := .queued, core := c, dispatched := s.dispatchCount } with
        dispatchCount := s.dispatchCount + 1 }
    | none => s.preemptFor r cores g.need
  | none =>
    if r.total ≤ l.nextWg then none
    else if l.groups.any (·.coresident) then
      if !r.fitsEmpty then
        some ((s.launchRecord r.ctx l.queue r.lid l.slotAddr rejectNoFit).modLaunch k fun l => { l with rejected := true }).checkEligible
      else match s.placeAll k (r.total - l.nextWg) with
        | some s => some s
        | none => s.preemptFor r (r.cores l.nextWg) r.need
    else match (r.cores l.nextWg).find? fun c => s.room c r.need free with
      | some c => if dispatchQueue ≤ s.queuedOn (dieOfCore c) then none else some (s.place1 k l c)
      | none => s.preemptFor r (r.cores l.nextWg) r.need

/-- Whether launch a is considered before launch b (R373). -/
def Launch.before (a b : Launch) : Bool :=
  decide (b.record.prio < a.record.prio)
    || (a.record.prio == b.record.prio && decide (a.eligible.getD 0 < b.eligible.getD 0))

def insertLaunch (x : Nat × Launch) : List (Nat × Launch) → List (Nat × Launch)
  | [] => [x]
  | y :: ys => if x.2.before y.2 then x :: y :: ys else y :: insertLaunch x ys

/-- Eligible launches in the dispatcher's order. -/
def State.candidates (s : State) : List (Nat × Launch) :=
  (s.launches.filter fun (_, l) => l.eligible.isSome && !l.rejected).foldr insertLaunch []

/-- R373 to R376: the first launch in order for which something can be done. In the pilot light every compute island stands still (R489). -/
def execWorkgroupDispatch (s : State) : Host.Outcome State Fault Refusal :=
  .next (if !s.ready ∨ s.dispatcherStalls then s else (s.candidates.findSome? fun (k, l) => s.dispatchFor k l).getD s)

/-! ## The start of a workgroup (R13, R173, R243, R290) -/

/-- Put a held request behind those that were first sent before it. -/
def insertHeld (x : Nat × Request) : List (Nat × Request) → List (Nat × Request)
  | [] => [x]
  | y :: ys => if x.2.ordinal < y.2.ordinal then x :: y :: ys else y :: insertHeld x ys

/-- The requests held for a workgroup, each with the lantern core that NACKed it, in the order in which they were first sent. -/
def State.heldFor (s : State) (w : Nat) : List (Nat × Request) :=
  (s.msgs.filterMap fun m => match m with
    | .held n r => if r.wg = w then some (n, r) else none
    | _ => none).foldl (fun l x => insertHeld x l) []

/-- Requests held for a workgroup are sent again, without a ticket, to their home as it now is, those of one thread in its program order
(R28, R37); one whose bucket a lodestar command holds stays held (R381, R436). The clocks since its first send go with it to the new core
(R468). -/
def State.resend (s : State) (w : Nat) : State :=
  (s.heldFor w).foldl (fun s (n, r) => match s.wg? w with
    | some g =>
      let (home, bucket, line, s) := match s.translate g.core r.ctx r.lock with
        | (.leaf t, s) =>
          let p := t.page r.lock
          let (h, b) := s.lockHome p r.lock
          (h, b, s.resolve p.loc / 64, s)
        | (_, s) => (n, none, r.line, s)
      if (bucket.map fun b => s.mod.starHold.any (·.1 == b)).getD false then s
      else
        let x := { r with
          resent := true
          core := g.core
          bucket := bucket
          line := line
          sent := s.clockAt g.core
          first := s.clockAt g.core - (s.clockAt r.core - r.first) }
        { s with msgs := s.msgs.erase (.held n r) ++ [.request home x] }
    | none => s) s

/-- Flag arrivals held for a workgroup are applied, in order (R434). -/
def State.applyHeldFlags (s : State) (w core : Nat) : State :=
  let mine := (s.core core).heldFlags.filter (·.1 == w)
  let s := s.modCore core fun k => { k with heldFlags := k.heldFlags.filter (·.1 != w) }
  mine.foldl (fun s (_, flag) => s.flagArrive w flag) s

/-- Lanes parked on a module that answers again replay their access (R485). -/
def Beam.answered (b : Beam) (silent : List Nat) : Beam :=
  b.parked.foldl (fun b (i, r) => match r.cause with
    | .answer _ _ _ m _ => if silent.contains m then b else b.unpark i r.pc r.lanes false
    | _ => b) b

/-- At another core, the wait for a module that does not answer is counted in that core's clocks, afresh (R485). -/
def Beam.restartWaits (b : Beam) (now : Nat) : Beam :=
  { b with parked := b.parked.map fun (i, r) => (i, match r.cause with
      | .answer asks size bits m _ => { r with cause := .answer asks size bits m now }
      | _ => r) }

/-- What a redispatched workgroup finds: its frame is free, completed barriers and flag arrivals that came meanwhile are applied, it acquires
at device scope, its requests are sent again, results that have come meanwhile are collected, and page services posted meanwhile are applied;
fatal faults trap (R138, R173, R290, R381, R397, R434, R455). -/
def State.resume (s : State) (w : Nat) (g : Wg) (frame : Nat) : State :=
  let s := s.modCtx g.ctx fun c => { c with frames := c.frames.filter (· != frame) }
  let s := s.setWg w { g with status := .resident, frame := none, owed := [], served := [] }
  let s := s.modBeams w fun b => (b.answered s.mod.silent).restartWaits (s.clockAt g.core)
  let s := g.owed.foldl (fun s c => s.modBeams w fun b => b.passBarrier (.barCon c)) s
  let s := s.applyHeldFlags w g.core
  let s := (s.acquire (s.wgPlace w) .dev).advanceRegion (s.wgPlace w) .dev
  let s := s.resend w
  let s := (g.agents w).foldl (fun s a => ((s.settleNacked a).settleTokens a frontierSize).checkJoin a) s
  let s := g.served.foldl (fun s (va, fatal) => s.serveWg w g.ctx va fatal) (s.serveExt w)
  (g.agents w).foldl (fun s a => (s.nextFatal a).getD s) s

/-- R243, R173: a placed workgroup's granules are zeroed or restored, and its first instruction may issue; an acquire comes first, which
advances its region (R290, R296). A save record that holds a value no register can hold terminates it. -/
def execWorkgroupStart (wg : Nat) (s : State) : Host.Outcome State Fault Refusal :=
  .next (match s.wg? wg with
    | none => s
    | some g =>
      if g.status ≠ .queued ∨ !s.ready then s
      else match g.frame with
        | none => ((s.setWg wg { g with status := .resident }).acquire (s.wgPlace wg) .dev).advanceRegion (s.wgPlace wg) .dev
        | some f =>
          let (ctx, s) := s.useCtx g.ctx
          let (v, s) := s.freeWord
          match ctx.bind fun e => s.restoreWg g e f (s.wgPlace wg).lid (physOf v g.width) with
          | some g' => s.resume wg g' f
          | none => s.terminate wg ((Cause.plain causeRestore).record 0 0))

/-! ## Completion (R371, R416) -/

/-- A launch leaves the table; the node that made it completes. -/
def State.dropLaunch (s : State) (k : Nat) : State :=
  match s.launch? k with
  | none => s
  | some l =>
    let s := { s with launches := smErase s.launches k }
    let s := match l.node with
      | some (c, n) => s.completeNode c n l.published
      | none => s
    s.checkEligible

/-- The increment of the completion word, and the completion. Its release at system scope covers what the launch's workgroups wrote, which
each has released at that scope before it left, so that every write of the launch is performed by now (R371; `State.settleWg`). -/
def State.finishLaunch (s : State) (k : Nat) (l : Launch) : State :=
  let r := l.record
  let failed := fun (s : State) => (s.launchRecord r.ctx l.queue r.lid l.slotAddr rejectCompl).dropLaunch k
  if r.compl = 0 then s.dropLaunch k
  else match s.reach dispatcherCore r.ctx r.compl .atomic with
    | (.fault reason level, s) =>
      let sp : Span := ⟨r.ctx, spanBase level r.compl, level⟩
      (s.modLaunch k fun l => { l with waiting := some sp }).dispatcherWait l.queue r.lid reason 1 sp
    | (.deny _, s) => failed s
    | (.silent loc _, s) => match s.waited (.launch k) dispatcherCore loc with
      | (true, s) => failed (s.doubt loc 1)
      | (false, s) => s
    | (.page p, s) =>
      let w := s.homeWord p.loc
      let (c, u) := tally [w]
      let s := chargeHome s p.loc c u
      match (lccCheck w).data? with
      | some d => (s.perform (deviceWrite p.loc (CW.make (d + 1)))).dropLaunch k
      | none => failed s

/-- Whether every workgroup of a launch has ended and left (R371). -/
def State.launchOver (s : State) (k : Nat) (l : Launch) : Bool :=
  l.rejected || (decide (l.record.total ≤ l.ended.length) && !(s.wgs.any fun (_, g) => g.launch == k))

/-- R371: a launch completes. -/
def execLaunchComplete (uid : Nat) (s : State) : Host.Outcome State Fault Refusal :=
  .next (match s.launch? uid with
    | none => s
    | some l => if s.launchOver uid l && l.waiting.isNone && !s.dispatcherStalls then s.finishLaunch uid l else s)

end Sys2Proof.Machine
end

