-- ==== Sys2Proof/Machine/Reset.lean ====
section
/-!
DEFINITION. Sys2Proof/Machine/Reset.lean: substitution of spares (spec R441, R442, R493, R496), the reset sequence and the pilot light (R475,
R488, R489, R491, R499), and what changes a module from outside its programs: clocks, wear, heat and patrol reads (R493, R495, R498).
-/

namespace Sys2Proof.Machine

/-! ## Spares (R441, R442, R496) -/

/-- Physical index of the spare that is taken: an opaque choice among those left (R442; log entry 23). -/
def Module.nextSpare (m : Module) (c scope : Nat) : Nat :=
  let n := retiredIn m.chart c scope
  if c = 5 then Config.spareSegment scope n
  else
    let left := spareUnits m.chart c scope
    left.getD (Config.spareChoice c scope n % left.length) 0

/-- The action byte of the entries still held for a part that has been acted on (R496; log entry 23). -/
def Module.act (m : Module) (p action : Nat) : Module :=
  { m with report := m.report.map fun e =>
      if e.unit = partUnit p ∧ e.sub = partSub p ∧ e.action = 0 then { e with action := action } else e }

/-- The chart entry of a part that failed, with no spare to take its place, is no longer valid (R441). -/
def Module.invalidate (m : Module) (p : Nat) : Module := if m.invalid.contains p then m else { m with invalid := m.invalid ++ [p] }

/-- A substituted core brings its own pool granules, none of them retired (log entry 23). -/
def Module.freshPool (m : Module) (p : Nat) : Module :=
  if p < 288 then
    { m with
      chart := m.chart.filter fun (k, _) => k / 2 ^ 16 != 3 * 2 ^ 16 + p
      mapping := m.mapping.filter fun (q, _) => !(decide (65536 ≤ q) && partUnit q == p)
      candidates := m.candidates.filter fun q => !(decide (65536 ≤ q) && partUnit q == p) }
  else m

/-- Retire a part and move its logical identity to a spare of its class and scope; nothing where none is left (R442). -/
def Module.substitute (m : Module) (p : Nat) : Option Module :=
  match partPlace p with
  | none => none
  | some (c, scope, _) =>
    if sparesLeft m.chart c scope = 0 then none
    else
      let old := m.physical p
      let new := m.nextSpare c scope
      let m := { m with
        chart := smSet (smSet m.chart (chartKey c scope old) .retired) (chartKey c scope new) .inUse
        mapping := smSet m.mapping p new
        invalid := m.invalid.filter (· != p)
        candidates := m.candidates.filter (· != p) }
      some ((m.freshPool p).act p 1)

/-- STATUS.DEGR follows the candidates (R477, R493). -/
def Module.degrade (m : Module) : Module := { m with degr := !m.candidates.isEmpty }

/-- Self-test at a reset: each failed part is replaced from a spare; it stops at one that has none (R488 step 4). Answers whether it went
through. -/
def Module.selfTest (m : Module) : List Nat → Module × Bool
  | [] => (m, true)
  | p :: ps =>
    match partPlace p with
    | none => m.selfTest ps
    | some _ =>
      let e := fun (action : Nat) => (⟨partUnit p, m.physical p, 1, action, partSub p, m.resets⟩ : ReportEntry)
      match m.substitute p with
      | some m' => (m'.addReport (e 1)).selfTest ps
      | none => ((m.addReport (e 2)).invalidate p, false)

/-- Substitute the candidates among `ps`; those with no spare stay in use and flagged (R493). Answers how many were substituted and how
many were left. -/
def Module.replace (m : Module) : List Nat → Nat × Nat × Module
  | [] => (0, 0, m)
  | p :: ps =>
    if !m.candidates.contains p then m.replace ps
    else match m.substitute p with
      | some m' => let (a, b, x) := m'.replace ps; (a + 1, b, x)
      | none => let (a, b, x) := (m.act p 2).replace ps; (a, b + 1, x)

/-! ## The reset sequence (R488, R491) -/

/-- The bytes at system addresses: other modules' memory (R246). -/
def Mem.system (m : Mem) : Mem :=
  ⟨m.data.filter fun c => decide (2 ^ 57 ≤ c.1), m.codes.filter fun c => decide (2 ^ 57 ≤ c.1)⟩

/-- The islands, the 40 compute islands stopped or not. -/
def resetIslands (stopped : Bool) : List Island := List.replicate 40 { Island.reset with stopped := stopped } ++ [.reset]

/-- Everything outside the module's own registers, as a reset leaves it. -/
def State.cleared (s : State) (mem : Mem) (stopped : Bool) (m : Module) : State :=
  { State.reset with mem := mem, islands := resetIslands stopped, mod := m, moves := s.moves, free := s.free, agenda := s.agenda }

/-- Extend measurement i (R491). -/
def Module.extend (m : Module) (i : Nat) (v : BitVec 256) : Module :=
  { m with meas := m.meas.set i (measExtend (m.meas.getD i 0) v) }

/-- Digest of the image in a flash slot (R490). -/
def Module.imageDigest (m : Module) (slot : Nat) : BitVec 256 :=
  match smGet? m.flash slot with
  | some (_, d) => .ofNat 256 d
  | none => Config.slotDigest slot

/-- The module's registers and tables at their reset values, with what survives a reset (R441, R488, R490, R496). -/
def Module.afresh (m : Module) : Module :=
  { Module.reset with
    status := 0, meas := List.replicate 8 0, chart := m.chart, mapping := m.mapping, invalid := m.invalid, candidates := m.candidates,
    degr := m.degr,
    report := m.report, reportOverwritten := m.reportOverwritten, resets := m.resets, flash := m.flash, silent := m.silent,
    sent := m.sent }

/-- Whether every firmware image that the flash holds carries a valid signature (R488 step 3, R490). -/
def Module.imagesOk (m : Module) : Bool := (List.range 4).all fun i => Config.signatureOk (m.imageDigest i)

/-- A module reset begins (R488): everything that runs is lost, and STATE is SELFTEST until the sequence has ended. Memory keeps its contents
until step 5, but nothing can read them. -/
def State.moduleReset (s : State) (f : ResetFindings) : State :=
  s.cleared s.mem false { s.mod.afresh with resets := s.mod.resets + 1, task := some (.reset f) }

/-- The reset sequence ends (R488): in READY, with every cell 0 and every table at its reset value, or in the pilot light. -/
def State.endReset (s : State) (f : ResetFindings) : State :=
  let stop := fun (m : Module) (cause : Nat) => s.cleared s.mem true { m.degrade with status := 2, plcause := cause }
  let m := { s.mod with task := none }
  if !f.romOk then stop m 1
  else
    let m := m.extend 0 Config.romDigest
    if !m.imagesOk then stop m 2
    else
      let m := (List.range 4).foldl (fun m i => m.extend (i + 1) (m.imageDigest i)) m
      match m.selfTest f.failed with
      | (m, false) => stop m 3
      | (m, true) =>
        let (_, _, m) := m.replace m.candidates
        let m := m.extend 5 (sm3 (chartSummary m.chart))
        s.cleared s.mem.system false { m.afresh.degrade with status := 1, meas := m.meas }

/-- The supply is off: what is left is what outlives power (R441, R490, R499). -/
def State.unpowered (s : State) : State :=
  let m := s.mod
  { s.cleared s.mem.system true { Module.reset with
      status := 4, meas := List.replicate 8 0, chart := m.chart, mapping := m.mapping, invalid := m.invalid, candidates := m.candidates, resets := 0,
      flash := m.flash, silent := m.silent, sent := m.sent } with
    islands := List.replicate 41 { Island.reset with stopped := true } }

/-- A reset of a module that has power. -/
def State.resetBy (s : State) (f : ResetFindings) : State := if s.powered then s.moduleReset f else s

/-- R488, R499: power arrives. -/
def execPowerOn (f : ResetFindings) (s : State) : Host.Outcome State Fault Refusal := .next (s.unpowered.moduleReset f)

/-- R488. -/
def execPcieHotReset (f : ResetFindings) (s : State) : Host.Outcome State Fault Refusal := .next (s.resetBy f)

/-- R488. -/
def execLinkDown (f : ResetFindings) (s : State) : Host.Outcome State Fault Refusal := .next (s.resetBy f)

/-- R475: a Function Level Reset of function 0. -/
def execFunctionLevelReset (f : ResetFindings) (s : State) : Host.Outcome State Fault Refusal := .next (s.resetBy f)

/-- R475: a Function Level Reset of function 1 empties its mailbox only. -/
def execServiceFunctionLevelReset (s : State) : Host.Outcome State Fault Refusal :=
  .next (s.modMod fun m => { m with service := { Mailbox.reset with quote := m.service.quote } })

/-- R477: RESETCTL.RST is written with 1. -/
def execResetctlRst (f : ResetFindings) (s : State) : Host.Outcome State Fault Refusal := .next (s.resetBy f)

/-- R499. -/
def execPowerRemoved (s : State) : Host.Outcome State Fault Refusal := .next s.unpowered

/-! ## Heat, clocks, wear and patrol (R493, R495, R498) -/

/-- Operating points of an island: the nominal one, point 0, and those below it (R498). -/
def operatingPoints (island : Nat) : Nat := if 40 ≤ island then 1 else if island % 5 = 3 then 5 else 8

/-- A core that has lost its work keeps its counters (R474). -/
def Core.stopped (k : Core) : Core := { Core.reset with pmc := k.pmc, pmcsel := k.pmcsel, errs := k.errs }

/-- R498: an island that is too hot at its lowest operating point: every compute island stops, the module is in the pilot light, and all
running work is lost. -/
def execThermalStop (island : Nat) (s : State) : Host.Outcome State Fault Refusal :=
  .next (if (s.ready || s.mod.status == 3) && decide (island < 41) && (s.islands.getD island default).point + 1 == operatingPoints island then
      { s with
        launches := [], wgs := [], cores := s.cores.map Core.stopped, lanterns := List.replicate 128 .reset, msgs := [], lockSets := [],
        lqs := s.lqs.map fun q => { q with wait := none, nodes := [] }
        islands := s.islands.mapIdx fun i x => if i < 40 then { x with stopped := true } else x
        mod := { s.mod with status := 2, plcause := 4, starHold := [], task := none, waits := [] } }
    else s)

/-- R498: an island runs at another of its operating points. -/
def execOperatingPointChange (island point : Nat) (s : State) : Host.Outcome State Fault Refusal :=
  .next (if decide (point < operatingPoints island) && s.powered then s.modIsland island fun i => { i with point := point } else s)

/-- R493: a unit is worn past its limit. -/
def execAgeingMonitorReport (unit : Nat) (s : State) : Host.Outcome State Fault Refusal :=
  .next (if s.ready && ((partPlace unit).isSome || unit == 0x1000) then s.flag unit 3 else s)

/-- Channel of a cell: 128 to a die (R248, R479). -/
def channelOfLoc (loc : Nat) : Nat := dieOfLoc loc * 128 + Config.channelOf (loc % dieBytes) % 128

/-- R495: one stored word is read and checked at its channel; a word that does not check is a patrol failure of the channel (R493). -/
def execPatrolRead (cell : Nat) (s : State) : Host.Outcome State Fault Refusal :=
  .next (if !(s.ready && s.mod.patrol) || decide (8 * dieBytes ≤ cell) then s
    else
      let (c, u) := tally [s.mem.word cell]
      let ch := channelOfLoc cell
      let s := s.charge (.channel ch) c u 0
      if u = 0 then s else s.flag (0x2000 + ch) 4)

end Sys2Proof.Machine
end

