-- ==== Sys2Proof/Machine/Bar.lean ====
section
/-!
DEFINITION. Sys2Proof/Machine/Bar.lean: the two functions' BAR 0 registers and what writing them does (spec R364 to R366, R386, R475 to R478,
R482, R489, R496), and the BAR 2 window into device memory (R266, R481).
-/

namespace Sys2Proof.Machine

/-! ## Numbers and bytes -/

/-- The number some bytes hold, the low byte first. -/
def natOfBytes : List Byte → Nat
  | [] => 0
  | b :: bs => b.toNat + 256 * natOfBytes bs

/-- `n` bytes of a number, the low byte first. -/
def bytesOfNat : Nat → Nat → List Byte
  | 0, _ => []
  | n + 1, x => .ofNat 8 x :: bytesOfNat n (x / 256)

/-- `n` bytes of a list from index i, 0 beyond its end. -/
def bytesAt (bs : List Byte) (i n : Nat) : List Byte := (List.range n).map fun j => bs.getD (i + j) 0

/-- A list with bytes written from index i. -/
def putBytes (bs : List Byte) (i : Nat) : List Byte → List Byte
  | [] => bs
  | v :: vs => putBytes (bs.set i v) (i + 1) vs

/-! ## Mailboxes and vectors -/

def Module.mailbox (m : Module) (svc : Bool) : Mailbox := if svc then m.service else m.control

def Module.modMailbox (m : Module) (svc : Bool) (f : Mailbox → Mailbox) : Module :=
  if svc then { m with service := f m.service } else { m with control := f m.control }

/-- Slots of a mailbox (R386). -/
def mailboxSlots : Nat := 64

/-- The 64 bytes of a slot; a slot that nothing has written holds zeros (log entry 2). -/
def Mailbox.slot (b : Mailbox) (n : Nat) : List Byte := (smGet? b.slots (n % mailboxSlots)).getD (List.replicate 64 0)

/-- Entries of a function's MSI-X table (R476). -/
def msixEntries (svc : Bool) : Nat := if svc then 16 else 2048

def Module.vector (m : Module) (svc : Bool) (n : Nat) : Vector := (smGet? (if svc then m.svcMsix else m.msix) n).getD .reset

def Module.setVector (m : Module) (svc : Bool) (n : Nat) (v : Vector) : Module :=
  if svc then { m with svcMsix := smSet m.svcMsix n v } else { m with msix := smSet m.msix n v }

/-! ## What registers read (R477, R478, R491, R496) -/

/-- IDENT (R477). -/
def identWord : Nat := 0xA8A80001

/-- STATUS (R477). -/
def Module.statusWord (m : Module) : Nat :=
  bits m.status 0 4 + m.plcause % 256 * 2 ^ 8 + (if m.degr then 2 ^ 16 else 0) + m.number % 128 * 2 ^ 17

/-- LQCFG (R364). -/
def LaunchQueue.cfg (q : LaunchQueue) : Nat :=
  (if q.en then 2 ^ 31 else 0) + (if q.device then 2 ^ 30 else 0) + (if q.err then 2 ^ 29 else 0) + q.log2 % 16 * 2 ^ 20 + q.ctx % 65536

/-- The bytes of an entry of the self-test report (R496). -/
def ReportEntry.bytes (e : ReportEntry) : List Byte :=
  bytesOfNat 64 (e.unit % 65536 + e.physical % 256 * 2 ^ 16 + e.result % 256 * 2 ^ 24 + e.action % 256 * 2 ^ 32 + e.sub % 65536 * 2 ^ 48
    + e.resets % 2 ^ 64 * 2 ^ 64)

/-- FIRST: the ring index of the oldest entry held (R496). -/
def Module.reportFirst (m : Module) : Nat := m.reportOverwritten % 1000

/-- The self-test report: its header, then its ring (R496). -/
def Module.reportBytes (m : Module) (off : Nat) : List Byte :=
  if off < 64 then
    bytesAt (bytesOfNat 64 (1 + m.report.length * 2 ^ 32 + m.resets % 2 ^ 64 * 2 ^ 64 + m.reportFirst * 2 ^ 128
      + m.reportOverwritten % 2 ^ 32 * 2 ^ 160)) (off % 64) 8
  else
    let ix := (off - 64) / 64
    let e := (m.report[(ix + 1000 - m.reportFirst) % 1000]?).map ReportEntry.bytes
    bytesAt (e.getD []) (off % 64) 8

/-- A launch queue's register at an offset in its block (R364). -/
def LaunchQueue.register (q : LaunchQueue) (r : Nat) : Nat :=
  if r = 0 then q.cfg
  else if r = 8 then q.base % 2 ^ 64
  else if r = 16 then bits q.base 64 8
  else if r = 24 then q.head
  else if r = 32 then q.tail
  else 0

/-- The 8 bytes of a vector's entry at offset 0 or 8 (R476, PCI Express; log entry 4). -/
def Vector.register (v : Vector) (high : Bool) : Nat :=
  if high then v.data % 2 ^ 32 + (if v.masked then 2 ^ 32 else 0) else v.addr % 2 ^ 64

/-- 64 pending bits from vector `n` on. -/
def Module.pending (m : Module) (svc : Bool) (n : Nat) : Nat := maskOf ((List.range 64).filter fun i => (m.vector svc (n + i)).pending)

/-- The 8 bytes at an 8-aligned offset of a function's BAR 0; a reserved offset reads as 0 (R475, R476). -/
def State.register (s : State) (svc : Bool) (o : Nat) : Nat :=
  let m := s.mod
  let b := m.mailbox svc
  let meas := fun (i : Nat) => natOfBytes (bytesAt (m.meas.flatMap bytes32) i 8)
  let chart := fun (i : Nat) => natOfBytes (bytesAt (chartSummary m.chart) i 8)
  let quote := fun (i : Nat) => natOfBytes (bytesAt b.quote i 8)
  let cert := fun (i : Nat) => natOfBytes ((List.range 8).map fun j => Config.certificate (i + j))
  let table := if svc then 0x7000 else 0x30000
  let pba := if svc then 0x7100 else 0x38000
  if o = 0x1000 then (if b.ien then 2 ^ 31 else 0) + b.vec % 2048
  else if o = 0x1008 then b.head
  else if o = 0x1010 then b.tail
  else if 0x2000 ≤ o ∧ o < 0x3000 then natOfBytes (bytesAt (b.slot ((o - 0x2000) / 64)) (o % 64) 8)
  else if table ≤ o ∧ o < table + 16 * msixEntries svc then (m.vector svc ((o - table) / 16)).register (o % 16 == 8)
  else if pba ≤ o ∧ o < pba + (if svc then 8 else 256) then m.pending svc ((o - pba) * 8)
  else if svc then
    if o = 0 then m.statusWord
    else if 0x3000 ≤ o ∧ o < 0x4000 then quote (o - 0x3000)
    else if 0x4000 ≤ o ∧ o < 0x4100 then meas (o - 0x4000)
    else if 0x5000 ≤ o ∧ o < 0x6000 then cert (o - 0x5000)
    else if 0x6000 ≤ o ∧ o < 0x60A0 then chart (o - 0x6000)
    else 0
  else if o = 0 then identWord
  else if o = 8 then m.statusWord
  else if o = 0x18 then m.winbase
  else if 0x10000 ≤ o ∧ o < 0x14000 then (s.lq ((o - 0x10000) / 256)).register (o % 256)
  else if 0x100000 ≤ o ∧ o < 0x10FA40 then natOfBytes (m.reportBytes (o - 0x100000))
  else if 0x110000 ≤ o ∧ o < 0x1100A0 then chart (o - 0x110000)
  else if 0x111000 ≤ o ∧ o < 0x111100 then meas (o - 0x111000)
  else if 0x112000 ≤ o ∧ o < 0x113000 then cert (o - 0x112000)
  else if 0x113000 ≤ o ∧ o < 0x114000 then quote (o - 0x113000)
  else if 0x1000000 ≤ o ∧ o < 0x2000000 then
    natOfBytes ((List.range 8).map fun j => (smGet? m.staging (o - 0x1000000 + j)).getD 0)
  else 0

/-- Whether BAR 0 accepts an access (R475). -/
def barAccepts (svc : Bool) (off size : Nat) : Bool :=
  (size == 4 || size == 8) && off % size == 0 && decide (off < if svc then 2 ^ 16 else 2 ^ 26)

/-- What a host read of BAR 0 returns (R475). -/
def State.barRead (s : State) (svc : Bool) (off size : Nat) : Nat :=
  if !barAccepts svc off size then 0 else s.register svc (off - off % 8) / 2 ^ (8 * (off % 8)) % 2 ^ (8 * size)

/-! ## Launch-queue registers (R364 to R366) -/

/-- Whether MODE, LOG2SIZE, CTX and BASE may change (R364). -/
def LaunchQueue.idle (q : LaunchQueue) : Bool := !q.en && q.head == q.tail

/-- R364: a write to LQCFG. -/
def LaunchQueue.writeCfg (q : LaunchQueue) (v : Nat) : LaunchQueue :=
  let en := v.testBit 31
  let err := q.err && !v.testBit 29
  if q.idle then { q with en := en, device := v.testBit 30, err := err, log2 := bits v 20 4, ctx := bits v 0 16 }
  else
    let differs := v.testBit 30 != q.device || bits v 20 4 != q.log2 || bits v 0 16 != q.ctx
    { q with en := en, err := err || differs }

/-- R364: a write to LQBASE, or to LQBASEH. -/
def LaunchQueue.writeBase (q : LaunchQueue) (high : Bool) (v : Nat) : LaunchQueue :=
  if !q.idle then { q with err := true }
  else if high then { q with base := q.base % 2 ^ 64 + bits v 0 8 * 2 ^ 64 }
  else { q with base := q.base / 2 ^ 64 * 2 ^ 64 + v % 2 ^ 64 / 256 * 256 }

/-- Whether a tail write is in range (R365). -/
def tailOk (slots head tail t : Nat) : Bool :=
  if slots = 0 then t == tail else decide (wrap 32 ((t : Int) - head) ≤ slots) && decide (wrap 32 ((t : Int) - tail) ≤ slots)

/-- Whether a doorbell is accepted (R365, R366). -/
def LaunchQueue.rings (q : LaunchQueue) (t : Nat) : Bool := !q.device && tailOk q.slots q.head q.tail t

/-- R365, R366: a doorbell. -/
def LaunchQueue.writeTail (q : LaunchQueue) (t : Nat) : LaunchQueue := if q.rings t then { q with tail := t } else { q with err := true }

/-- Whether the module runs: READY, or at a quiesce point (R488, R489, R494). -/
def State.operating (s : State) : Bool := s.ready || s.mod.status == 3

/-- LQCFG writes are discarded unless the module runs (R488, R489). -/
def State.writeCfg (s : State) (q v : Nat) : State := if s.operating then s.modLq q fun x => x.writeCfg v else s

/-- An accepted doorbell acquires at system scope: no core keeps a line that the host or another module has written before it (R365). -/
def State.hostAcquire (s : State) : State :=
  let s := s.mod.outside.foldl (fun s ln => (List.range s.cores.length).foldl (fun s c => s.dropLine c ln) s) s
  s.modMod fun m => { m with outside := [] }

/-- A line that the host or another module writes. -/
def State.noteOutside (s : State) (loc : Nat) : State :=
  s.modMod fun m => if m.outside.contains (loc / 64) then m else { m with outside := m.outside ++ [loc / 64] }

/-- R365, R366: a doorbell; it is discarded unless the module runs. -/
def State.writeTail (s : State) (q v : Nat) : State :=
  if !s.operating then s
  else
    let x := (s.lq q).writeTail (v % 2 ^ 32)
    let s := if (s.lq q).rings (v % 2 ^ 32) then s.hostAcquire else s
    s.modLq q fun _ => x
def State.writeBase (s : State) (q : Nat) (high : Bool) (v : Nat) : State :=
  if s.powered then s.modLq q fun x => x.writeBase high v else s

/-- R364. -/
def execLqcfgWrite (q val : Nat) (s : State) : Host.Outcome State Fault Refusal := .next (s.writeCfg q val)

/-- R364. -/
def execLqbaseWrite (q : Nat) (high : Bool) (val : Nat) (s : State) : Host.Outcome State Fault Refusal :=
  .next (s.writeBase q high val)

/-- R365, R366. -/
def execLqtailWrite (q val : Nat) (s : State) : Host.Outcome State Fault Refusal := .next (s.writeTail q val)

/-! ## Mailbox registers and vectors (R386, R478, R482) -/

/-- R386: a tail write in range submits commands; any other is discarded. The mailbox takes writes in the pilot light too (R489). -/
def State.writeMbtail (s : State) (svc : Bool) (v : Nat) : State :=
  if !(s.operating || s.mod.status == 2) then s
  else s.modMod fun m => m.modMailbox svc fun b =>
    if tailOk mailboxSlots b.head b.tail (v % 2 ^ 32) then { b with tail := v % 2 ^ 32 } else b

/-- R478. -/
def State.writeMbcfg (s : State) (svc : Bool) (v : Nat) : State :=
  if !s.powered || (svc && bits v 4 7 != 0) then s
  else s.modMod fun m => m.modMailbox svc fun b => { b with ien := v.testBit 31, vec := bits v 0 11 }

/-- A vector's mask bit is written; unmasking one that is pending sends one message (R482). -/
def State.maskVector (s : State) (svc : Bool) (n : Nat) (masked : Bool) : State :=
  let v := s.mod.vector svc n
  if v.pending && !masked then
    (s.modMod fun m => m.setVector svc n { v with masked := false, pending := false }).sendMsix svc n
  else s.modMod fun m => m.setVector svc n { v with masked := masked }

/-- R386. -/
def execMbtailWrite (svc : Bool) (val : Nat) (s : State) : Host.Outcome State Fault Refusal := .next (s.writeMbtail svc val)

/-- R478. -/
def execMbcfgWrite (svc : Bool) (val : Nat) (s : State) : Host.Outcome State Fault Refusal := .next (s.writeMbcfg svc val)

/-- R482: system software unmasks a vector. -/
def execMsixUnmask (svc : Bool) (vec : Nat) (s : State) : Host.Outcome State Fault Refusal :=
  .next (if s.powered && decide (vec < msixEntries svc) then s.maskVector svc vec false else s)

/-! ## Register writes (R475 to R477) -/

/-- An 8-byte register with the written part replaced. -/
def mergeWrite (old off size val : Nat) : Nat :=
  if size = 8 then val % 2 ^ 64
  else if off % 8 = 0 then old / 2 ^ 32 * 2 ^ 32 + val % 2 ^ 32
  else old % 2 ^ 32 + val % 2 ^ 32 * 2 ^ 32

/-- Findings of a reset that a plain register write starts: free values (log entry 6). -/
def State.findings (s : State) : ResetFindings × State :=
  let (v, s) := s.freeWord
  let n := bits v.toNat 2 16
  (⟨v.getLsbD 0, (List.range n).map fun i => bits (Config.freeValue (s.free + i)).toNat 0 32⟩, { s with free := s.free + n })

/-- Write of an MSI-X table entry: address at 0, data and mask at 8 (R476, PCI Express; log entry 4). -/
def State.writeVector (s : State) (svc : Bool) (off size val base : Nat) : State :=
  let n := (off - base) / 16
  let v := s.mod.vector svc n
  let x := mergeWrite (v.register (off % 16 / 8 == 1)) off size val
  if off % 16 < 8 then s.modMod fun m => m.setVector svc n { v with addr := x }
  else (s.modMod fun m => m.setVector svc n { v with data := x % 2 ^ 32 }).maskVector svc n (x.testBit 32)

/-- A write to the registers of a launch queue's block. -/
def State.writeQueue (s : State) (q r size val : Nat) : State :=
  let o := r - r % 8
  let low := size = 8 ∨ r % 8 = 0
  let x := mergeWrite ((s.lq q).register o) r size val
  if o = 0 then (if low then s.writeCfg q (val % 2 ^ 32) else s)
  else if o = 8 then s.writeBase q false x
  else if o = 16 then s.writeBase q true x
  else if o = 32 then (if low then s.writeTail q (val % 2 ^ 32) else s)
  else s

/-- A write of BAR 0 that R475 accepts. -/
def State.writeRegister (s : State) (svc : Bool) (off size val : Nat) : State :=
  let o := off - off % 8
  let low := size = 8 ∨ off % 8 = 0
  let table := if svc then 0x7000 else 0x30000
  if 0x2000 ≤ off ∧ off < 0x3000 then
    s.modMod fun m => m.modMailbox svc fun b =>
      { b with slots := smSet b.slots ((off - 0x2000) / 64) (putBytes (b.slot ((off - 0x2000) / 64)) (off % 64) (bytesOfNat size val)) }
  else if o = 0x1000 then (if low then s.writeMbcfg svc (val % 2 ^ 32) else s)
  else if o = 0x1010 then (if low then s.writeMbtail svc (val % 2 ^ 32) else s)
  else if table ≤ o ∧ o < table + 16 * msixEntries svc then s.writeVector svc off size val table
  else if svc then s
  else if 0x10000 ≤ o ∧ o < 0x14000 then s.writeQueue ((off - 0x10000) / 256) (off % 256) size val
  else if o = 0x10 then
    (if low ∧ val % 2 = 1 then let (f, s) := s.findings; s.moduleReset f else s)
  else if o = 0x18 then
    s.modMod fun m => { m with winbase := bits (mergeWrite m.winbase off size val) 28 30 * 2 ^ 28 }
  else if 0x1000000 ≤ o ∧ o < 0x2000000 then
    s.modMod fun m => { m with staging := (bytesOfNat size val).zipIdx.foldl (fun st (b, i) => smSet st (off - 0x1000000 + i) b) m.staging }
  else s

/-- R475 to R477. -/
def execRegisterWrite (svc : Bool) (off size val : Nat) (s : State) : Host.Outcome State Fault Refusal :=
  .next (if s.powered && barAccepts svc off size then s.writeRegister svc off size val else s)

/-! ## BAR 2 (R266, R481) -/

/-- Bytes of BAR 2. -/
def bar2Bytes : Nat := 2 ^ 28

/-- The cell that an offset reaches; nothing where the access completes with Unsupported Request (R481, R489). -/
def State.bar2Loc (s : State) (off : Nat) : Option Nat :=
  if s.operating && decide (off < bar2Bytes) then cellLoc (s.mod.winbase + off) else none

/-- The word at offset `w` with the bytes that an access of `size` bytes at `off` covers replaced by those of its value (R264). -/
def mergeBytes (old : Word) (w off size val : Nat) : Word :=
  .ofNat 32 (natOfBytes ((List.range 4).map fun i =>
    if off ≤ w + i ∧ w + i < off + size then BitVec.ofNat 8 (val / 2 ^ (8 * (w + i - off)))
    else BitVec.ofNat 8 (old.toNat / 2 ^ (8 * i))))

/-- Write the aligned word at an offset, of an access of `size` bytes at `off` (R481). -/
def State.bar2Word (s : State) (off size val w : Nat) : State :=
  match s.bar2Loc w with
  | none => s
  | some loc =>
    let s := s.noteOutside loc
    if off ≤ w ∧ w + 4 ≤ off + size then s.perform (deviceWrite loc (CW.make (mergeBytes 0 w off size val)))
    else
      let old := s.homeWord loc
      let (c, u) := tally [old]
      let s := s.charge .bridge c u 0
      match (lccCheck old).data? with
      | some d => s.perform (deviceWrite loc (CW.make (mergeBytes d w off size val)))
      | none => s

/-- Aligned words that an access touches. -/
def wordsTouched (off size : Nat) : List Nat :=
  if size = 0 then [] else (List.range ((off % 4 + size + 3) / 4)).map fun i => off - off % 4 + 4 * i

/-- R481. -/
def execHostBar2Write (off size val : Nat) (s : State) : Host.Outcome State Fault Refusal :=
  .next ((wordsTouched off size).foldl (fun s w => s.bar2Word off size val w) s)

/-- One word read through the bridge: corrected, or poisoned (R266). -/
def State.bridgeRead (s : State) (w : CW) : (Nat × Bool) × State :=
  let (c, u) := tally [w]
  let s := s.charge .bridge c u 0
  match (lccCheck w).data? with
  | some d => ((d.toNat, false), s)
  | none => ((w.data.toNat, true), s)

/-- Read words at offsets; an Unsupported Request ends the access with no data. -/
def State.bar2Read (s : State) : List Nat → Option (List (Nat × Bool)) × State
  | [] => (some [], s)
  | w :: ws =>
    match s.bar2Loc w with
    | none => (none, s)
    | some loc =>
      let (x, s) := s.bridgeRead (s.homeWord loc)
      match s.bar2Read ws with
      | (some xs, s) => (some (x :: xs), s)
      | (none, s) => (none, s)

/-- R266, R481: `reply` holds the aligned words that hold the bytes read. -/
def execHostBar2Read (off size : Nat) (s : State) : Host.Outcome State Fault Refusal :=
  .next (let (r, s) := s.bar2Read (wordsTouched off size)
         s.modMod fun m => { m with reply := r.getD [] })

end Sys2Proof.Machine
end

