-- ==== Sys2Proof/Machine/Matrix.lean ====
section
/-!
DEFINITION. Sys2Proof/Machine/Matrix.lean: the matrix engine (spec R66 to R68, R96 to R100, R330 to R363): commands and tile accesses at
issue, and the engine's step.
-/

namespace Sys2Proof.Machine

/-! ## Shapes (R96 to R100) -/

/-- A shape: M, N, K and the engine clocks of one step. -/
structure MShape where
  m : Nat
  n : Nat
  k : Nat
  clocks : Nat
deriving DecidableEq, Repr

/-- Bits of a matrix element type (R39, R96). -/
def matBits : Nat → Nat
  | 0 => 64 | 1 => 32 | 2 => 16 | 3 => 16 | 4 => 8 | 5 => 8 | _ => 4

/-- Whether a type is scaled: nf8 or nf4. -/
def matScaled (ty : Nat) : Bool := ty == 4 || ty == 6

/-- R97. -/
def denseShapes : Nat → List MShape
  | 0 => [⟨32, 32, 32, 256⟩, ⟨32, 32, 64, 512⟩, ⟨16, 32, 32, 128⟩, ⟨32, 16, 32, 128⟩, ⟨16, 16, 32, 64⟩]
  | 1 => [⟨64, 64, 32, 256⟩, ⟨64, 64, 64, 512⟩, ⟨32, 64, 32, 128⟩, ⟨64, 32, 32, 128⟩, ⟨32, 32, 32, 64⟩, ⟨16, 64, 32, 64⟩]
  | 7 => []
  | ty =>
    let k := if ty = 2 ∨ ty = 3 then 64 else if ty = 6 then 256 else 128
    [⟨64, 64, k, 128⟩, ⟨64, 64, 2 * k, 256⟩, ⟨32, 64, k, 64⟩, ⟨64, 32, k, 64⟩, ⟨32, 32, k, 32⟩, ⟨16, 64, k, 32⟩,
      ⟨64, 64, 4 * k, 512⟩]

/-- R98. -/
def sparseShapes (ty : Nat) : List MShape :=
  if ty = 2 ∨ ty = 3 ∨ ty = 4 ∨ ty = 5 then
    let k := if ty = 2 ∨ ty = 3 then 128 else 256
    [⟨64, 64, k, 128⟩, ⟨64, 64, 2 * k, 256⟩, ⟨32, 64, k, 64⟩, ⟨64, 32, k, 64⟩, ⟨32, 32, k, 32⟩]
  else []

/-- R99. -/
def momentShape (ty shape : Nat) : Option MShape :=
  match ty, shape with
  | 1, 0 => some ⟨64, 64, 32, 512⟩
  | 1, 4 => some ⟨32, 32, 32, 128⟩
  | 2, 0 => some ⟨64, 64, 64, 256⟩
  | 2, 4 => some ⟨32, 32, 64, 64⟩
  | _, _ => none

/-- The shape an instruction (op7 − 0x58), a type and a shape5 name. -/
def matShape (op ty shape : Nat) : Option MShape :=
  if op = 4 then momentShape ty shape
  else if op = 2 then (sparseShapes ty)[shape]?
  else (denseShapes ty)[shape]?

/-! ## Descriptors (R337, R338, R341) -/

/-- A multiply descriptor: D0 to D5. -/
structure MDesc where
  op : Nat
  d : List Nat

def MDesc.word (x : MDesc) (i : Nat) : Nat := x.d.getD i 0
def MDesc.ty (x : MDesc) : Nat := bits (x.word 0) 0 3
def MDesc.ovw (x : MDesc) : Bool := (x.word 0).testBit 13
def MDesc.ck (x : MDesc) : Nat := bits (x.word 0) 14 2
def MDesc.tgt (x : MDesc) : Nat := bits (x.word 0) 16 8
def MDesc.greg (x : MDesc) : Nat := bits (x.word 0) 26 6
def MDesc.aStride (x : MDesc) : Nat := bits (x.word 3) 0 16
def MDesc.bStride (x : MDesc) : Nat := bits (x.word 3) 16 16
def MDesc.steps (x : MDesc) : Nat := if x.op = 1 then bits (x.word 4) 0 16 else 1
def MDesc.aInc (x : MDesc) : Int := if x.op = 1 then signedBits 16 (bits (x.word 5) 0 16) else 0
def MDesc.bInc (x : MDesc) : Int := if x.op = 1 then signedBits 16 (bits (x.word 5) 16 16) else 0
/-- Whether the command uses the pair T, T + 1 (R330). -/
def MDesc.pair (x : MDesc) : Bool := x.ty == 0 || x.op == 4

/-- Descriptor words of an instruction. -/
def descWords : Nat → Nat
  | 1 => 6 | 2 => 5 | 3 => 5 | _ => 4

/-- K-blocks of the whole command (R341). A command whose shape is illegal, or that has no step, counts as one of one block where step 4 of
R91 bound-checks its scale registers (R336; log entry 57). -/
def MDesc.blocks (x : MDesc) (sh : Option MShape) : Nat :=
  match sh with
  | some g => max 1 (x.steps * (g.k / 32))
  | none => 1

/-- Scale registers a command uses: a pair for every four scale bytes. -/
def scaleRegs (sel blocks : Nat) : Nat := 2 * ((sel + blocks - 1) / 4 + 1)

/-- The rules of R100, R332, R338, R342 and R355 for a multiply command. -/
def MDesc.malformed (x : MDesc) (sh : Option MShape) (tile acc sp width gather : Nat) : Bool :=
  let al : Nat := if x.ty = 0 then 8 else 4
  let alA : Nat := if x.op = 4 ∧ x.ty = 1 then 8 else al
  match sh with
  | none => true
  | some g =>
    (x.pair && tile % 2 == 1) || decide (acc ≤ tile + (if x.pair then 1 else 0))
      || bits (x.word 0) 24 2 != 0 || bits (x.word 0) 3 10 != 0 || (x.op != 3 && x.greg != 0)
      || badTarget x.ck x.tgt sp
      || (x.op == 1 && (x.steps == 0 || bits (x.word 4) 16 16 != 0)) || (x.op == 3 && x.word 4 != 0)
      || x.word 1 % alA != 0 || x.aStride % alA != 0 || x.aInc % (alA : Int) != 0
      || x.word 2 % al != 0 || x.bStride % al != 0 || x.bInc % (al : Int) != 0
      || (x.op == 2 && x.word 4 % al != 0) || (x.op == 3 && gather % al != 0)
      || (matScaled x.ty && (decide (width < g.m) || decide (width < g.n)))

/-! ## Commands at issue (R333 to R343) -/

/-- ACC and SP of the issuing workgroup (R242). -/
def State.pools (s : State) (f : Frame) : Nat × Nat := ((s.wg? f.pl.wg).map fun g => (g.acc, g.sp)).getD (0, 0)

/-- The five multiply commands: `op` is op7 − 0x58. LCC_FAULT of a descriptor word or of the gather base comes before the checks of R336's
step 5, which need those words (log entry 32). -/
def mulIssue (op : Nat) (h t : BitVec 5) (a b : BitVec 7) (f : Frame) (s0 : State) : State :=
  let n := descWords op
  let src := Opnd.v a.toNat n
  let words := (List.range n).map fun i => (lccCheck (f.b.vreg f.elected (f.b.wb + a.toNat + i))).data?
  let desc : MDesc := ⟨op, words.map fun w => (w.getD 0).toNat⟩
  let sh := matShape op desc.ty h.toNat
  let scaled := matScaled desc.ty
  let regs := if scaled then scaleRegs f.p.sel.toNat (desc.blocks sh) else 0
  let base := if op = 3 then [Opnd.s desc.greg] else []
  s0.guarded f (src :: base ++ (if scaled then [.v b.toNat regs] else [])) [] fun s =>
    let once := f.get f.elected (src :: base)
    let s := s.charge (.core f.pl.core) once.corr once.unc 0
    match once.vals with
    | .error w => s.allLanes f (.lcc 0 w)
    | .ok vs =>
      let (acc, sp) := s.pools f
      let fmt := s.fmtReg f.a f.p.fmt.toNat
      if !matScaled desc.ty && b != 0 then s.whole f (.plain causeIllegal) f.active
      else if !matScaled desc.ty && (f.p.fmt != 0 || f.p.sel != 0) then s.whole f (.plain causePrefix) f.active
      else if desc.malformed sh t.toNat acc sp f.b.width (val vs 1) then s.wholeActive f causeShape
      else if scaled && !(NfFmt.ofWord fmt).validFor (matBits desc.ty) then s.whole f (.at_ causeFormat f.p.fmt.toNat 0) f.active
      else
        let scales := (List.range regs).map fun i => (List.range f.b.count).map fun l => f.b.vreg l (f.b.wb + b.toNat + i)
        s0.submit s f false (.multiply op h.toNat t.toNat desc.d (val vs 1) scales f.p.sel.toNat fmt f.b.nvc) desc.ck desc.tgt

/-- R343, R344. -/
def execMm (m : Mods) (h t : BitVec 5) (a b : BitVec 7) (s : State) : Host.Outcome State Fault Refusal :=
  coded m false (mulIssue 0 h t a b) s

/-- R343, R346. -/
def execMmloop (m : Mods) (h t : BitVec 5) (a b : BitVec 7) (s : State) : Host.Outcome State Fault Refusal :=
  coded m false (mulIssue 1 h t a b) s

/-- R343, R347. -/
def execMmsp (m : Mods) (h t : BitVec 5) (a b : BitVec 7) (s : State) : Host.Outcome State Fault Refusal :=
  coded m false (mulIssue 2 h t a b) s

/-- R343, R349. -/
def execMmgat (m : Mods) (h t : BitVec 5) (a b : BitVec 7) (s : State) : Host.Outcome State Fault Refusal :=
  coded m false (mulIssue 3 h t a b) s

/-- R343, R350: illegal in a grid launched without the moment file (R110, R332). Its types are unscaled, so that a non-zero b is illegal too
(R113, R336). -/
def execMmaMom (m : Mods) (h t : BitVec 5) (ab : BitVec 7 × BitVec 7) (s : State) : Host.Outcome State Fault Refusal :=
  codedPath m false (fun f s =>
    if !s.hasMoment f.pl then s.whole f (.plain causeIllegal) f.i.lanes
    else if f.active = 0 then s.goOn f else mulIssue 4 h t ab.1 ab.2 f s) s

/-- R352: one granule. -/
def execAccz (m : Mods) (t : BitVec 5) (s : State) : Host.Outcome State Fault Refusal :=
  coded m false (fun f s => s.masked f fun s =>
    if (s.pools f).1 ≤ t.toNat then s.wholeActive f causeShape else s.submit s f false (.accz t.toNat) 0 0) s

/-- R353. -/
def transferIssue (store : Bool) (t : BitVec 5) (a b : BitVec 6) (f : Frame) (s0 : State) : State :=
  s0.onceRead f [.s a.toNat, .s b.toNat] [] fun s vs =>
    let c := val vs 1
    let mem := c.testBit 0
    let addr := if mem then val vs 0 else val vs 0 % 2 ^ 64
    let (acc, sp) := s.pools f
    if decide (acc ≤ t.toNat) || bits c 64 8 != 0 || bits c 1 21 != 0 || badTarget (bits c 22 2) (bits c 24 8) sp
        || addr % 4 != 0 || bits c 32 32 % 4 != 0 then s.wholeActive f causeShape
    else s0.submit s f false (.transfer store t.toNat addr (bits c 32 32) mem) (bits c 22 2) (bits c 24 8)

/-- R353. -/
def execAccld (m : Mods) (t : BitVec 5) (a b : BitVec 6) (s : State) : Host.Outcome State Fault Refusal :=
  coded m false (transferIssue false t a b) s

/-- R353. -/
def execAccst (m : Mods) (t : BitVec 5) (a b : BitVec 6) (s : State) : Host.Outcome State Fault Refusal :=
  coded m false (transferIssue true t a b) s

/-! ## Tiles (R330, R331, R245) -/

def tileKey (tile word : Nat) : Nat := tile * 4096 + word

def Wg.tileWord (g : Wg) (tile word : Nat) : CW := (smGet? g.tiles (tileKey tile word)).getD .zero

/-- Write a tile word; a zero word with code 0 is not listed. -/
def Wg.setTile (g : Wg) (tile word : Nat) (w : CW) : Wg :=
  { g with tiles := if w = .zero then smErase g.tiles (tileKey tile word) else smSet g.tiles (tileKey tile word) w }

def State.tileWord (s : State) (w tile word : Nat) : CW := ((s.wg? w).map fun g => g.tileWord tile word).getD .zero
def State.setTile (s : State) (w tile word : Nat) (c : CW) : State := s.modWg w fun g => g.setTile tile word c

/-! ## Tile accesses (R354) -/

/-- Whether an entry is the `accrd` of a path. -/
def EngEntry.readBy (e : EngEntry) (f : Frame) : Bool :=
  match e.op with
  | .read _ lanes => e.wg == f.pl.wg && e.beam == f.b.number && e.pc == f.i.pc && lanes == f.i.lanes
  | _ => false

/-- R354: the access enters its quarter's sub-queue, and its path waits at it until the arbiter has chosen the entry; then it takes effect
and the entry leaves. LCC_FAULT of a tile word is of kind L, so the path does not go on before (log entry 48). -/
def execAccrd (m : Mods) (t : BitVec 5) (a : BitVec 7) (s : State) : Host.Outcome State Fault Refusal :=
  coded m false (fun f s0 => s0.guarded f [.v a.toNat 1] [.v (a.toNat + 1) 1] fun s =>
    let q := f.b.quarter
    let es := s.subQueue false f.pl.core q
    let dst := Opnd.v (a.toNat + 1) 1
    if (s.pools f).1 ≤ t.toNat then s.wholeActive f causeShape
    else match es.find? fun e => e.readBy f with
      | none =>
        if subQueueSize ≤ es.length then s0
        else
          let e : EngEntry := ⟨f.pl.wg, f.b.number, f.elected, f.i.pc, .read t.toNat f.i.lanes, 0, 0, 0, s0.engSeq, 0, [], []⟩
          ({ s0 with engSeq := s0.engSeq + 1 } : State).setSubQueue false f.pl.core q (es ++ [e])
      | some e =>
        if e.step = 0 then s0
        else
          let r := f.eachState [.v a.toNat 1] (fun s l vs =>
            let w := s.tileWord f.pl.wg t.toNat (val vs 0 % 4096)
            let (c, u) := tally [w]
            let s := s.charge (.core f.pl.core) c u 0
            match (lccCheck w).data? with
            | some d => (.done (f.put l dst d.toNat), s)
            | none => (.fault (.lcc 0 w), s)) f.lanes ⟨s.setSubQueue false f.pl.core q (es.erase e), [], [], []⟩
          s.retire (r.s.results f true (r.writes ++ f.zeroes dst)) f ⟨r.faults, r.parks, none⟩) s

/-- R354: the lanes' words and data, read at issue, enter the quarter's sub-queue, in ascending lane order, so that the highest lane's value
stands. -/
def execAccwr (m : Mods) (t : BitVec 5) (a : BitVec 7) (s : State) : Host.Outcome State Fault Refusal :=
  coded m false (fun f s0 => s0.guarded f [.v a.toNat 2] [] fun s =>
    let q := f.b.quarter
    let es := s.subQueue false f.pl.core q
    let word := Opnd.v a.toNat 1
    let data := Opnd.v (a.toNat + 1) 1
    if (s.pools f).1 ≤ t.toNat then s.wholeActive f causeShape
    else if subQueueSize ≤ es.length then s0
    else
      let good := f.lanes.filterMap fun l => match f.value l word, f.value l data with
        | some n, some d => some (n % 4096, d)
        | _, _ => none
      let e : EngEntry := ⟨f.pl.wg, f.b.number, f.elected, f.i.pc, .write t.toNat good, 0, 0, 0, s.engSeq, 0, [], []⟩
      let s' := if good.isEmpty then s else ({ s with engSeq := s.engSeq + 1 } : State).setSubQueue false f.pl.core q (es ++ [e])
      let r := f.eachState [word, data] (fun s _ _ => (.done [], s)) f.lanes ⟨s', [], [], []⟩
      s.retire r.s f ⟨r.faults, r.parks, none⟩) s

/-- Whether the path of an `accrd` entry stands at it and may issue, so that it may take effect: not where the full save has stopped it
(R172). -/
def State.stillReads (s : State) (e : EngEntry) : Bool :=
  match e.op with
  | .read _ lanes => !((s.wg? e.wg).any (·.deadline)) && ((s.beam? (.beam e.wg e.beam)).map fun b =>
      b.frontier.any fun x => x.kind == .runnable && x.pc == e.pc && x.lanes == lanes).getD false
  | _ => true

/-- The entries of `accrd` whose paths have left them, for a handler or for good, leave their sub-queues: the accesses were not made. -/
def State.dropReads (s : State) (core : Nat) : State :=
  if (s.core core).matrixQ.any fun es => es.any fun e => !s.stillReads e then
    s.modCore core fun k => { k with matrixQ := k.matrixQ.map fun es => es.filter s.stillReads }
  else s

/-! ## Arithmetic of a step (R66 to R68, R344) -/

/-- Round to a format, RNE, as a value again. -/
def IFmt.rnd (f : IFmt) (v : FVal) : FVal := f.decode (f.encode .rne v)

/-- One level of the tree: adjacent pairs, each sum rounded. -/
def pairSums (f : IFmt) : List FVal → List FVal
  | a :: b :: r => f.rnd (.add .rne a b) :: pairSums f r
  | r => r

def treeSum (f : IFmt) : Nat → List FVal → List FVal
  | 0, ps => ps
  | n + 1, ps => treeSum f n (pairSums f ps)

/-- `block_sum` of 32 exact products (R66). -/
def blockSum (f : IFmt) (ps : List FVal) : FVal := (treeSum f 5 ps).headD (.zero false)

/-- Cut a list into blocks of 32. -/
def blocksOf {α : Type} : Nat → List α → List (List α)
  | 0, _ => []
  | n + 1, xs => xs.take 32 :: blocksOf n (xs.drop 32)

/-- The exact products of one block; a pruned position contributes +0. -/
def products (as : List (Option FVal)) (bs : List FVal) : List FVal :=
  List.zipWith (fun a b => match a with
    | some x => FVal.mul x b
    | none => .zero false) as bs

/-- The accumulator after all blocks, in ascending K. -/
def accumulate (f : IFmt) (acc : FVal) (as : List (List (Option FVal))) (bs : List (List FVal)) : FVal :=
  (List.zip as bs).foldl (fun acc (a, b) => f.rnd (.add .rne acc (blockSum f (products a b)))) acc

/-- Elements `w` bits wide of rows of words, in ascending order (R39). -/
def elemsOf (w : Nat) : List Word → List Nat
  | [] => []
  | [x] => if w = 64 then [] else (List.range (32 / w)).map fun i => elem w i x.toNat
  | x :: y :: r =>
    if w = 64 then (x.toNat + 2 ^ 32 * y.toNat) :: elemsOf w r
    else ((List.range (32 / w)).map fun i => elem w i x.toNat) ++ elemsOf w (y :: r)

/-- The value of an element of a matrix type; integers of s8 are values too. -/
def matValue (ty : Nat) (fmt : NfFmt) (e : Nat) : FVal :=
  match ty with
  | 0 => IFmt.fp64.decode e
  | 1 => IFmt.fp32.decode e
  | 2 => IFmt.bf16.decode e
  | 3 => IFmt.fp16.decode e
  | _ => fmt.decode e

/-! ## Sparse rows (R347, R348) -/

/-- The nibbles of a row's metadata words. -/
def nibbles (ws : List Word) : List Nat := ws.flatMap fun w => (List.range 8).map fun i => bits w.toNat (4 * i) 4

/-- The first illegal group of rows of nibbles: its row and its group. -/
def firstIllegal : Nat → List (List Nat) → Option (Nat × Nat)
  | _, [] => none
  | i, r :: rs => match r.findIdx? fun n => decide (n / 4 ≤ n % 4) with
    | some g => some (i, g)
    | none => firstIllegal (i + 1) rs

/-- The selector stage: stored elements of a row at their dense positions. -/
def selectRow {α : Type} : List Nat → List α → List (Option α)
  | n :: ns, x :: y :: es =>
    ((List.range 4).map fun p => if p = n % 4 then some x else if p = n / 4 then some y else none) ++ selectRow ns es
  | _, _ => []

/-! ## What a step reads -/

/-- A multiply step's operands: rows of A with their pruned positions, columns of B, and the even and odd sides' scales by row, column
and block. -/
structure MStep where
  x : MDesc
  g : MShape
  tile : Nat
  gather : Nat
  scales : List (List CW)
  sel : Nat
  fmt : NfFmt
  nvc : Bool
  /-- The step's number. -/
  no : Nat

/-- The step an entry runs next. -/
def EngEntry.mstep (e : EngEntry) : Option MStep :=
  match e.op with
  | .multiply op shape tile d gather scales sel fmt nvc =>
    (matShape op (MDesc.ty ⟨op, d⟩) shape).map fun g => ⟨⟨op, d⟩, g, tile, gather, scales, sel, .ofWord fmt, nvc, e.step⟩
  | _ => none

namespace MStep

def aBits (t : MStep) : Nat := if t.x.op = 4 then (if t.x.ty = 1 then 64 else 32) else matBits t.x.ty
/-- Words of a stored A row and of a B column. -/
def aWords (t : MStep) : Nat := (if t.x.op = 2 then t.g.k / 2 else t.g.k) * t.aBits / 32
def bWords (t : MStep) : Nat := t.g.k * matBits t.x.ty / 32
def aBase (t : MStep) : Int := t.x.word 1 + t.no * t.x.aInc
def bBase (t : MStep) : Int := t.x.word 2 + t.no * t.x.bInc

/-- Metadata, checked and decoded before anything else (R348). -/
def readMeta (t : MStep) (x : EngWork) (pl : Place) : Except EngStop (List (List Nat)) × EngWork :=
  if t.x.op = 2 then
    match x.rows pl false (t.g.k / 32) ((List.range t.g.m).map fun i => (t.x.word 4 + i * (t.g.k / 32) * 4 : Nat)) with
    | (.error e, x) => (.error e, x)
    | (.ok ws, x) =>
      let ns := ws.map nibbles
      match firstIllegal 0 ns with
      | some (row, grp) => (.error (.fault (.at_ causeMeta 0 (row * 2 ^ 16 + grp))), x)
      | none => (.ok ns, x)
  else (.ok [], x)

/-- Rows of A, from scratchpad, or gathered from memory by index (R339, R349). -/
def readA (t : MStep) (x : EngWork) (pl : Place) : Except EngStop (List (List Word)) × EngWork :=
  if t.x.op = 3 then
    match x.words pl false (t.x.word 1 : Nat) t.g.m with
    | (.error e, x) => (.error e, x)
    | (.ok ix, x) =>
      let x : EngWork := { x with operands := true }
      x.rows pl true t.aWords (ix.map fun i => ((t.gather + i.toNat * t.x.aStride : Nat) : Int))
  else
    let x : EngWork := { x with operands := true }
    x.rows pl false t.aWords ((List.range t.g.m).map fun i => t.aBase + (i * t.x.aStride : Nat))

def readB (t : MStep) (x : EngWork) (pl : Place) : Except EngStop (List (List Word)) × EngWork :=
  let x : EngWork := { x with operands := true }
  x.rows pl false t.bWords ((List.range t.g.n).map fun j => t.bBase + (j * t.x.bStride : Nat))

/-- K-block numbers of the step, counted over the command (R341). -/
def kbs (t : MStep) : List Nat := (List.range (t.g.k / 32)).map fun c => t.no * (t.g.k / 32) + c

/-- The scale word of a row or column; zero at and beyond the lanes of a regrouped beam that is not full (R341, R429; log entry 58). -/
def scaleWord (t : MStep) (side lane kb : Nat) : CW := ((t.scales.getD (2 * ((t.sel + kb) / 4) + side) []).getD lane .zero)

/-- The scale words that this step is the first to use (R342). -/
def newScales (t : MStep) : List ((Nat × Int) × CW) :=
  if matScaled t.x.ty then
    let first := (t.sel + t.no * (t.g.k / 32)) / 4
    let last := (t.sel + (t.no + 1) * (t.g.k / 32) - 1) / 4
    let start := if t.no ≠ 0 ∧ (t.sel + t.no * (t.g.k / 32) - 1) / 4 = first then first + 1 else first
    ((List.range (last + 1)).filter fun q => decide (start ≤ q)).flatMap fun q =>
      ((List.range t.g.m).map fun l => ((2, ((2 * q * 64 + l : Nat) : Int)), (t.scales.getD (2 * q) []).getD l .zero))
        ++ ((List.range t.g.n).map fun l => ((2, (((2 * q + 1) * 64 + l : Nat) : Int)), (t.scales.getD (2 * q + 1) []).getD l .zero))
  else []

/-- The scale of a row (side 0) or column (side 1) in a block; 1 for an unscaled type. -/
def scale (t : MStep) (side lane kb : Nat) : FVal :=
  if matScaled t.x.ty then
    match (lccCheck (t.scaleWord side lane kb)).data? with
    | some d => scaleValue (elem 8 ((t.sel + kb) % 4) d.toNat)
    | none => .nan
  else .fin false 1 1

/-- Whether the step starts its elements from +0. -/
def fresh (t : MStep) : Bool := t.no == 0 && t.x.ovw

/-- Words of the tile of one row of elements (R330). -/
def tilePitch (t : MStep) : Nat := if t.x.ty = 0 then 32 else 64

/-- The tile words of the elements the step reaches, in order; those of the odd granule follow (R330). -/
def tileWords (t : MStep) (s : State) (wg : Nat) : List ((Nat × Int) × CW) :=
  if t.fresh then []
  else (if t.x.pair then [t.tile, t.tile + 1] else [t.tile]).flatMap fun gr =>
    (List.range t.g.m).flatMap fun i => (List.range t.g.n).map fun j =>
      ((3, ((tileKey gr (t.tilePitch * i + j) : Nat) : Int)), s.tileWord wg gr (t.tilePitch * i + j))

end MStep

/-- Variances of an A row under R63: the values to use, and how many were clamped; nothing on a negative one with
`mctl.NVC` = 0 (R350). -/
def takeVars (nvc : Bool) : List Nat → Option (List Nat × Nat)
  | [] => some ([], 0)
  | v :: vs =>
    match takeVar nvc 0 v, takeVars nvc vs with
    | .ok (x, n), some (xs, k) => some (x :: xs, n + k)
    | _, _ => none

/-- Variances of all rows. -/
def takeAllVars (nvc : Bool) : List (List Nat) → Option (List (List Nat) × Nat)
  | [] => some ([], 0)
  | r :: rs =>
    match takeVars nvc r, takeAllVars nvc rs with
    | some (x, n), some (xs, k) => some (x :: xs, n + k)
    | _, _ => none

/-- Multiply every value of a row's blocks by the block's scale. -/
def scaleBlocks (sc : List FVal) (bs : List (List FVal)) : List (List FVal) :=
  List.zipWith (fun k b => b.map fun x => FVal.mul x k) sc bs

def scaleOptBlocks (sc : List FVal) (bs : List (List (Option FVal))) : List (List (Option FVal)) :=
  List.zipWith (fun k b => b.map fun x => x.map fun y => FVal.mul y k) sc bs

/-- Signed 8-bit elements of a dense or selected row; a pruned position is 0. -/
def intRow (r : List (Option Nat)) : List Int := r.map fun x => match x with
  | some e => signedBits 8 e
  | none => 0

/-- The sum of products of two integer rows (R67). -/
def intDot (a b : List Int) : Int := (List.zipWith (· * ·) a b).foldl (· + ·) 0

/-- One tree for a tile: for every element, its accumulator's encoding after the step. `acc` gives the encoding it starts from. -/
def treeTile (f : IFmt) (as : List (List (List (Option FVal)))) (bs : List (List (List FVal))) (acc : Nat → Nat → Nat) :
    List (Nat × Nat × Nat) :=
  as.zipIdx.flatMap fun (a, i) => bs.zipIdx.map fun (b, j) => (i, j, f.encode .rne (accumulate f (f.decode (acc i j)) a b))

/-- The values a multiply step leaves in its tiles: (granule, word, data), from checked operands and the corrected tile words. -/
def MStep.compute (t : MStep) (meta_ : List (List Nat)) (rows cols : List (List Word)) (vars : List (List Nat)) (old : Nat → Nat → Nat) :
    List (Nat × Nat × Nat) :=
  let nb := t.g.k / 32
  let at_ := fun (i j : Nat) => t.tilePitch * i + j
  let split := fun (f : IFmt) (l : List (Nat × Nat × Nat)) => if f.width = 64 then
      l.flatMap fun (i, j, v) => [(t.tile, at_ i j, v % 2 ^ 32), (t.tile + 1, at_ i j, v / 2 ^ 32)]
    else l.map fun (i, j, v) => (t.tile, at_ i j, v)
  let aE := rows.map (elemsOf t.aBits)
  let bE := cols.map (elemsOf (matBits t.x.ty))
  let dense := fun (r : List Nat) (i : Nat) => if t.x.op = 2 then selectRow (meta_.getD i []) r else r.map some
  if t.x.ty = 5 then
    let as := aE.zipIdx.map fun (r, i) => intRow (dense r i)
    let bs := bE.map fun c => intRow (c.map some)
    as.zipIdx.flatMap fun (a, i) => bs.zipIdx.map fun (b, j) =>
      (t.tile, at_ i j, wrap 32 (old t.tile (at_ i j) + intDot a b))
  else
    let f : IFmt := if t.x.ty = 0 then .fp64 else .fp32
    let bv := bE.map fun c => c.map (matValue t.x.ty t.fmt)
    let some_ := fun (r : List FVal) => blocksOf nb (r.map some)
    if t.x.op = 4 then
      let mean := fun (e : Nat) => if t.x.ty = 1 then IFmt.fp32.decode (e % 2 ^ 32) else IFmt.bf16.decode (e % 2 ^ 16)
      let mu := aE.map fun r => some_ (r.map mean)
      let va := vars.map fun r => some_ (r.map IFmt.fp32.decode)
      let b1 := bv.map (blocksOf nb)
      let b2 := bv.map fun c => blocksOf nb (c.map fun b => FVal.mul b b)
      ((treeTile f mu b1 fun i j => old t.tile (at_ i j)).map fun (i, j, v) => (t.tile, at_ i j, v))
        ++ ((treeTile f va b2 fun i j => old (t.tile + 1) (at_ i j)).map fun (i, j, v) => (t.tile + 1, at_ i j, v))
    else
      let as := aE.zipIdx.map fun (r, i) =>
        let bl := blocksOf nb ((dense r i).map fun x => x.map (matValue t.x.ty t.fmt))
        if matScaled t.x.ty then scaleOptBlocks (t.kbs.map (t.scale 0 i)) bl else bl
      let bs := bv.zipIdx.map fun (c, j) =>
        if matScaled t.x.ty then scaleBlocks (t.kbs.map (t.scale 1 j)) (blocksOf nb c) else blocksOf nb c
      split f (treeTile f as bs fun i j =>
        if t.x.ty = 0 then old t.tile (at_ i j) + 2 ^ 32 * old (t.tile + 1) (at_ i j) else old t.tile (at_ i j))

/-- The variances in an A row's elements, widened to FP32 (R58, R350). -/
def MStep.rowVars (t : MStep) (r : List Word) : List Nat :=
  (elemsOf t.aBits r).map fun e => if t.x.ty = 1 then e / 2 ^ 32 else (mb16Widen e).2

/-- An `mmloop`'s failing offset is reported modulo 2^32 (R346). -/
def MStep.report (t : MStep) (e : EngStop) : EngStop :=
  match e with
  | .fault c => if t.x.op = 1 ∧ c.code = causeAccess then .fault { c with addr := c.addr % 2 ^ 32 } else e
  | .suspend sps => .suspend sps
  | .wait => .wait

/-- What a multiply step reads, in the order metadata, A with the check of its variances, B, scales, tile (log entry 32); and the values it
writes, or why it stops (R340, R345, R350). -/
def MStep.run (t : MStep) (x : EngWork) (pl : Place) : Except EngStop (List (Nat × Nat × Nat)) × EngWork :=
  match t.readMeta x pl with
  | (.error e, x) => (.error e, x)
  | (.ok md, x) => match t.readA x pl with
    | (.error e, x) => (.error (t.report e), x)
    | (.ok rows, x) => match (if t.x.op = 4 then takeAllVars t.nvc (rows.map t.rowVars) else some ([], 0)) with
      | none => (.error (.fault (.plain causeVariance)), x)
      | some (vars, clamped) => match t.readB { x with nvc := clamped } pl with
        | (.error e, x) => (.error (t.report e), x)
        | (.ok cols, x) => match x.checks t.newScales with
          | (.error e, x) => (.error e, x)
          | (.ok _, x) =>
            let tiles := t.tileWords x.s pl.wg
            match x.checks tiles with
            | (.error e, x) => (.error e, x)
            | (.ok ds, x) =>
              let olds : SMap Nat := (tiles.zip ds).map fun ((k, _), d) => (k.2.toNat, d.toNat)
              (.ok (t.compute md rows cols vars fun gr w => (smGet? olds (tileKey gr w)).getD 0), x)

/-! ## The toggle estimate and the arbiter (R361, R362) -/

/-- Bits set in a word. -/
def popWord (n : Nat) : Nat := (List.range 32).countP fun i => n.testBit i

/-- The sum of H over adjacent words. -/
def toggles : List Nat → Nat
  | a :: b :: r => popWord (a ^^^ b) + toggles (b :: r)
  | _ => 0

/-- The word at a place an engine step would read, as stored, and zero where it can not be read (R361; log entry 59). -/
def State.sampleWord (s : State) (pl : Place) (mem : Bool) (addr : Int) : CW :=
  match (s.engRead false 0 pl mem addr).1 with
  | .ok w => w
  | .error _ => .zero

/-- `e` of an entry's next step: the bits of the words as they are stored are counted, without the correction of R71 (log entry 59). -/
def State.toggle (s : State) (e : EngEntry) : Nat :=
  match e.mstep with
  | none => 0
  | some t =>
    let pl := s.wgPlace e.wg
    let mem := t.x.op == 3
    let row0 := s.sampleWord pl false (t.x.word 1 : Nat)
    let index := (((lccCheck row0).data?).getD row0.data).toNat
    let base : Int := if mem then ((t.gather + index * t.x.aStride : Nat) : Int) else t.aBase
    min 15 (toggles ((List.range 16).map fun (k : Nat) => (s.sampleWord pl mem (base + 4 * k)).data.toNat) / 2 ^ 5)

/-- A head the arbiter may choose: its quarter, its `e`, its order of issue, how often it was passed over. -/
structure Head where
  q : Nat
  e : Nat
  seq : Nat
  passed : Nat
deriving DecidableEq, Repr

/-- Whether a head wins over another: one passed over eight times; the lower `e`; the earlier issue; the lower quarter. -/
def Head.beats (a b : Head) : Bool :=
  let sa := decide (8 ≤ a.passed)
  let sb := decide (8 ≤ b.passed)
  if sa != sb then sa
  else if !sa && a.e ≠ b.e then decide (a.e < b.e)
  else if a.seq ≠ b.seq then decide (a.seq < b.seq)
  else decide (a.q < b.q)

def pickHead : List Head → Option Head
  | [] => none
  | h :: hs => match pickHead hs with
    | none => some h
    | some x => if h.beats x then some h else some x

/-- Whether a head waits: suspended, or an `accrd` that has been chosen (R354, R359). -/
def EngEntry.waits (e : EngEntry) : Bool :=
  !e.wait.isEmpty || match e.op with
    | .read _ _ => e.step != 0
    | _ => false

/-! ## The wick budget (R361, R471) -/

/-- Whether an engine of a core has a head that a step may start for. -/
def State.wantsStep (s : State) (core : Nat) : Bool :=
  (s.core core).matrixQ.any fun es => (es.head?.map fun e => !e.waits).getD false

/-- Whether an engine of the core may start a step or entry: the level is not negative, no core of a higher number has been taken in the
same clock, and none of a lower number waits since the level was last negative (R471). -/
def State.mayStart (s : State) (core : Nat) : Bool :=
  match s.islands[islandOfCore core]? with
  | some i => i.unlimited || (decide (0 ≤ i.level) && !(decide (core < i.started.1) && i.started.2 == i.cycle)
      && !(i.waiting.any fun c => decide (c < core) && s.wantsStep c))
  | none => true

/-- The level of an island's budget changes; where it is no longer negative, the cores whose engines want a step there are taken in ascending
order (R471). -/
def State.setLevel (s : State) (n : Nat) (level : Island → Int) : State :=
  let cores := (List.range 288).filter fun c => islandOfCore c == n && s.wantsStep c
  s.modIsland n fun i =>
    { i with level := level i, waiting := if decide (i.level < 0) && decide (0 ≤ level i) then cores else i.waiting }

/-- Charge a step of toggle estimate `e` and this many engine clocks. -/
def State.wick (s : State) (core ctx e clocks : Nat) : State :=
  let units := (16 + e) * clocks
  let s := s.modIsland (islandOfCore core) fun i => if i.unlimited then i else
    { i with level := i.level - units, started := (core, i.cycle), waiting := i.waiting.filter (· != core) }
  (s.count core 0x10 ctx units).count core 0x13 ctx clocks

/-- The heads of a core's matrix sub-queues that the arbiter may choose. -/
def State.heads (s : State) (core : Nat) : List Head :=
  (List.range 4).filterMap fun q => match s.subQueue false core q with
    | e :: _ => if !e.waits then some ⟨q, s.toggle e, e.seq, e.passed⟩ else none
    | [] => none

/-- Count the heads that this choice passed over. -/
def State.notePassed (s : State) (core : Nat) (h : Head) : State :=
  (s.heads core).foldl (fun s x => s.modHead false core x.q fun e => { e with passed := if x.q = h.q then 0 else e.passed + 1 }) s

/-! ## Rows of `accld` and `accst` (R353) -/

/-- Translate every page a row touches, given by its first address there and the words from it on: what stops it, or nothing. -/
def State.rowPages (s : State) (q : Nat) (pl : Place) (store : Bool) (vas : List (Nat × Nat)) : Option EngStop × State :=
  let acc := if store then Access.engStore else Access.engLoad
  vas.foldl (fun (st, s) (va, n) =>
    match s.reach pl.core pl.ctx va acc with
    | (.page _, s) => (st, s)
    | (.deny bits, s) => ((match st with
        | some (.fault c) => some (.fault c)
        | _ => some (.fault (.at_ causeAccess bits va))), s)
    | (.silent loc bits, s) => match st with
      | some (.fault c) => (some (.fault c), s)
      | _ => let (x, s) := s.engSilent 2 q pl store va loc n bits; (some x, s)
    | (.fault reason level, s) =>
      let sp : Span := ⟨pl.ctx, spanBase level va, level⟩
      ((match st with
        | some (.fault c) => some (.fault c)
        | some .wait => some .wait
        | some (.suspend sps) => some (.suspend (if sps.any (·.1 == sp) then sps else sps ++ [(sp, reason, va, acc.bits)]))
        | none => some (.suspend [(sp, reason, va, acc.bits)])), s)) (none, s)

/-- The first address of each 64 KiB page that 256 bytes from `a` touch, with its words. -/
def rowStarts (a : Nat) : List (Nat × Nat) :=
  let a := a % 2 ^ 72
  let edge := (a / 65536 + 1) * 65536
  if edge < a + 256 then [(a, (edge - a) / 4), (edge % 2 ^ 72, (a + 256 - edge) / 4)] else [(a, 64)]

/-- Move the words of a row, in ascending address, until one stops. -/
def State.moveRow (s : State) (q : Nat) (pl : Place) (store mem : Bool) (tile row : Nat) (addr : Nat) : Nat → Option EngStop × State
  | 0 => (none, s)
  | n + 1 =>
    let i := 63 - n
    let a : Int := ((addr + 4 * i : Nat) : Int)
    if store then
      match s.engWrite false q pl mem a (s.tileWord pl.wg tile (64 * row + i)) with
      | (.ok _, s) => s.moveRow q pl store mem tile row addr n
      | (.error e, s) => (some e, s)
    else
      match s.engRead false q pl mem a with
      | (.ok w, s) => (s.setTile pl.wg tile (64 * row + i) w).moveRow q pl store mem tile row addr n
      | (.error e, s) => (some e, s)

/-! ## The step (R344, R352, R353, R357 to R359) -/

/-- A step of a head is done: it goes on with its next step, or leaves. -/
def State.stepped (s : State) (core q steps : Nat) : State :=
  match s.subQueue false core q with
  | [] => s
  | e :: _ =>
    if e.step + 1 < steps then s.modHead false core q fun e => { e with step := e.step + 1 } else s.leaveQueue false core q

/-- Write the values of a step into its tiles; those of an undefined product are free values (R32, R524, R535). -/
def State.putTiles (s : State) (w : Nat) (stale : Bool) (ws : List (Nat × Nat × Nat)) : State :=
  ws.foldl (fun s (gr, n, v) =>
    if stale then
      let (x, s) := s.freeWord
      s.setTile w gr n (CW.make (x.setWidth 32))
    else s.setTile w gr n (CW.make (.ofNat 32 v))) s

/-- Run the next step of the head of a sub-queue: charge it, then compute and write, or stop; a step that waits for another module has not
started (`s0` is the state before it, R485). How many clocks a tile access takes is not stated: a free value (log entry 20). -/
def State.runHead (s0 s : State) (core : Nat) (h : Head) : State :=
  match s.subQueue false core h.q with
  | [] => s
  | e :: _ =>
    let pl := s.wgPlace e.wg
    match e.op with
    | .multiply .. =>
      match e.mstep with
      | none => s.leaveQueue false core h.q
      | some t =>
        let s := s.wick core pl.ctx h.e t.g.clocks
        match t.run ⟨s, h.q, [], 0, false, false⟩ pl with
        | (.error .wait, x) => { s0 with mod := { s0.mod with waits := x.s.mod.waits } }
        | (.error stop, x) => (x.settle core).stopHead false core h.q stop
        | (.ok ws, x) => ((x.settle core).putTiles e.wg x.stale ws).stepped core h.q t.x.steps
    | .accz tile =>
      let s := s.wick core pl.ctx 0 16
      (s.modWg e.wg fun g => { g with tiles := g.tiles.filter fun (k, _) => k / 4096 != tile }).stepped core h.q 1
    | .write tile ws =>
      let (v, s) := s.freeWord
      let s := s.wick core pl.ctx 0 (v.toNat % 2 ^ 32)
      (ws.foldl (fun s (n, d) => s.setTile e.wg tile n (CW.make (.ofNat 32 d))) s).stepped core h.q 1
    | .read _ _ =>
      let (v, s) := s.freeWord
      (s.wick core pl.ctx 0 (v.toNat % 2 ^ 32)).modHead false core h.q fun e => { e with step := 1 }
    | .transfer store tile addr stride mem =>
      let s := s.wick core pl.ctx 0 1
      let a := addr + e.step * stride
      let (stop, s) := if mem then s.rowPages h.q pl store (rowStarts a) else (none, s)
      match stop with
      | some .wait => { s0 with mod := { s0.mod with waits := s.mod.waits } }
      | some x => s.stopHead false core h.q x
      | none => match s.moveRow h.q pl store mem tile e.step a 64 with
        | (some x, s) => s.stopHead false core h.q x
        | (none, s) => s.stepped core h.q 64
    | .copy .. => s.leaveQueue false core h.q

/-- R344, R361, R362: the arbiter starts the next step or entry of a head; where none may start, nothing changes. -/
def execMatrixStep (core : Nat) (s : State) : Host.Outcome State Fault Refusal :=
  .next (let s := s.dropReads core
    if isLantern core || !s.mayStart core then s
    else match pickHead (s.heads core) with
      | none => s
      | some h => s.runHead (s.notePassed core h) core h)

end Sys2Proof.Machine
end

