-- ==== Sys2Proof/Machine/Units.lean ====
section
/-!
DEFINITION. Sys2Proof/Machine/Units.lean: events of the module's own units: results that land (spec R80, R315, R316), writes that are
performed (R270 to R272), the scale-up fabric (R484, R485), windows and hints (R388, R390, R471), held fault records (R383), and a word with
no meaning (R101).
-/

namespace Sys2Proof.Machine

/-! ## Results -/

/-- R80: an outstanding result lands. -/
def execResultWriteback (a : Agent) (idx : Nat) (s : State) : Host.Outcome State Fault Refusal :=
  .next (s.modBeam a fun b => b.land idx)

/-- Read `n` words through a core's cache. -/
def State.readWords (s : State) (core ctx : Nat) (p : Page) (loc : Nat) : Nat → List CW × State
  | 0 => ([], s)
  | n + 1 =>
    let (w, s) := s.readWord core ctx p loc
    let (ws, s) := s.readWords core ctx p (loc + 4) n
    (w :: ws, s)

/-- Drop a lane from the far lanes of a parked record. -/
def Beam.landed (b : Beam) (i l : Nat) : Beam :=
  { b with parked := smModify b.parked i fun r => match r.cause with
      | .split far dst w => { r with cause := .split (far.filter (·.1 != l)) dst w }
      | _ => r }

/-- A far lane of a record leaves it, to stand at an address; `after`: the lane goes on after its `ldg.split`. -/
def State.leaveSplit (s : State) (a : Agent) (i l pc : Nat) (after : Bool) : State :=
  s.modFrontier a fun b => (b.landed i l).unpark i pc (laneBit l) after

/-- Data of a far lane lands: it is written and the lane goes on after the `ldg.split`; what the arriving word shows is counted (R267, R315,
R469). Where a narrow word does not check, the lane stands at the `ldg.split`, with the cause in which its replay for it alone, which reads the
word as `ld` does, ends (R316). An access that no longer reaches memory is made again. -/
def State.splitLane (s : State) (a : Agent) (i dst w pc : Nat) (prefixed : Bool) (l va : Nat) : Option Cause × State :=
  let pl := s.place a
  match s.reach pl.core pl.ctx va .load with
  | (.page p, s) =>
    let e := widthBytes w
    let (ws, s) := s.readWords pl.core pl.ctx p (wordLoc p.loc) (wordsIn e)
    let done := fun (s : State) (ws : List CW) =>
      let out := ws.mapIdx fun j x => RegWrite.v l (dst + j) x
      (s.modBeam a fun b => (b.writes out).unlatch out).leaveSplit a i l (pc + if prefixed then 8 else 4) true
    if e < 4 then
      let x := ws.headD .zero
      let (corr, unc) := tally [x]
      let s := s.charge (.core pl.core) corr unc 0
      match (lccCheck x).data? with
      | some d => (none, done s [CW.make (.ofNat 32 (narrowBits d va e))])
      | none => (some { Cause.lcc va x with lanes := laneBit l }, (s.charge (.core pl.core) corr unc 0).leaveSplit a i l pc false)
    else (none, done s ws)
  | (_, s) => (none, s.leaveSplit a i l pc false)

/-- Data lands for the far lanes of a record that share a lane's line: they go on together (R315). -/
def State.splitArrive (s : State) (a : Agent) (i l : Nat) : State :=
  match (s.beam? a).bind fun b => smGet? b.parked i with
  | some ⟨.split far dst w, pc, _, _, prefixed, _⟩ =>
    match far.find? (·.1 == l) with
    | none => s
    | some (_, va) =>
      let (causes, s) := (far.filter fun x => x.2 / 64 == va / 64).foldl (fun (cs, s) (m, u) =>
        let (c, s) := s.splitLane a i dst w pc prefixed m u
        (cs ++ c.toList, s)) (([] : List Cause), s)
      causes.foldl (fun s c => s.raiseFatal a c pc prefixed) s
  | _ => s

/-- Whether the agent's workgroup is resident, and no full save stops it. -/
def State.resident (s : State) (a : Agent) : Bool :=
  match a with
  | .beam _ _ => s.runs a
  | .lantern _ => false

/-- R315: the data of one far lane's line lands. -/
def execSplitGatherArrival (a : Agent) (entry lane : Nat) (s : State) : Host.Outcome State Fault Refusal :=
  .next (if s.resident a then s.splitArrive a entry lane else s)

/-! ## Writes that are performed (R270 to R272) -/

/-- Whether two writes are parts of one single-copy atomic access: they are performed together (R271). -/
def Flight.together (f g : Flight) : Bool :=
  f.wgs == g.wgs && f.thread == g.thread && f.path == g.path && f.size == g.size && f.loc / f.size == g.loc / f.size

/-- R270: a write that left a core is performed, unless an earlier one of the core to the same word is still under way. -/
def execWritePerformed (core which : Nat) (s : State) : Host.Outcome State Fault Refusal :=
  .next (
    let fs := (s.core core).flights
    match fs[which]? with
    | none => s
    | some f =>
      let back := ((fs.take which).reverse.takeWhile f.together).length
      let n := back + ((fs.drop which).takeWhile f.together).length
      let before := fs.take (which - back)
      let run := (fs.drop (which - back)).take n
      if run.any fun x => before.any fun y => x.loc / 4 == y.loc / 4 then s
      else (s.modCore core fun k => { k with flights := before ++ (fs.drop (which - back)).drop n }).performAll run)

/-! ## The fabric (R484, R485) -/

/-- R484: a switch slice reads or writes back words of this module's memory, as a carrier: codes travel unchecked. `reply` holds what it
reads, each word as its code × 2^32 + its data. -/
def execFabricMemoryRequest (r : FabricReq) (s : State) : Host.Outcome State Fault Refusal :=
  .next (if !s.operating || r.addr % 4 != 0 || decide (2 ^ 50 ≤ r.addr) then s
    else match r.write with
      | some ws =>
        let s := (List.range ws.length).foldl (fun s i => match physLoc (r.addr + 4 * i) with
          | some loc => s.noteOutside loc
          | none => s) s
        s.deviceWords r.addr ws
      | none => s.modMod fun m =>
          { m with reply := (s.physWords r.addr (r.bytes / 4)).map fun w => (w.code.toNat * 2 ^ 32 + w.data.toNat, false) })

/-- Accesses of a parked record that are reported: those of these lanes, where their module has not answered for the time of R485. -/
def Parked.reported (r : Parked) (silent : List Nat) (now lanes : Nat) : List (Nat × Nat × Nat) :=
  match r.cause with
  | .answer asks _ _ m since =>
    if silent.contains m && decide (since + answerLimit ≤ now) then asks.filter fun x => (r.lanes &&& lanes).testBit x.1 else []
  | _ => []

/-- The lanes of parked records that wait for a module that does not answer take ACCESS_VIOLATION at their instruction (R485). -/
def State.timeout (s : State) (a : Agent) (now lanes : Nat) : State :=
  ((s.beam? a).map (·.parked)).getD [] |>.foldl (fun s (i, r) => match r.cause, r.reported s.mod.silent now lanes with
    | .answer _ _ bits _ _, (_, addr, _) :: _ =>
      let mine := r.lanes &&& lanes
      (s.modFrontier a fun b => b.unpark i r.pc mine false).raiseFatal a { Cause.at_ causeAccess (bits + 8) addr with lanes := mine } r.pc
        r.prefixed
    | _, _ => s) s

/-- Writes that a parked record reports: location and words of each. -/
def Parked.doubted (r : Parked) (silent : List Nat) (now lanes : Nat) : List (Nat × Nat) :=
  match r.cause with
  | .answer _ size bits _ _ => if bits % 2 = 1 then (r.reported silent now lanes).map fun x => (x.2.2, wordsIn size) else []
  | _ => []

/-- Whether a message is a section request, or its retry, of one of these lanes to a module that has not answered for the time of R485. -/
def State.requestLate (s : State) (w n lanes : Nat) (m : Msg) : Bool :=
  match m.travels with
  | some (k, r) => decide (128 ≤ k) && s.mod.silent.contains (k - 128) && r.wg == w && decide (r.sent + answerLimit ≤ s.clockAt r.core)
      && ((s.wg? w).bind fun g => g.findThread r.thread).any fun (b, l) => b == n && lanes.testBit l
  | none => false

/-- STATUS of a section that another module did not answer: FAULTED with cause 0x0A (R485). -/
def statusNoAnswer : Nat := 0x4A

/-- R485. A write so reported may or may not have been performed (log entry 13). -/
def execSystemAccessTimeout (a : Agent) (lanes : Nat) (s : State) : Host.Outcome State Fault Refusal :=
  .next (match a with
    | .lantern _ => s
    | .beam w n =>
      if !s.resident a then s
      else
        let now := s.clockAt (s.place a).core
        let writes := ((s.beam? a).map fun b => b.parked.flatMap fun (_, r) => r.doubted s.mod.silent now lanes).getD []
        let s := s.timeout a now lanes
        let s := writes.foldl (fun s (loc, n) => s.doubt loc n) s
        let late := s.msgs.filter (s.requestLate w n lanes)
        late.foldl (fun s m => match m.travels with
          | some (_, r) => (({ s with msgs := s.msgs.erase m } : State).acceptedBy r).deliver r statusNoAnswer 0 [] RSet.empty
          | none => s) s)

/-! ## Windows and hints (R388, R390, R471) -/

/-- Clocks of a wick window (R471). -/
def wickWindow : Nat := 4096

/-- R471: a window of an island's clocks has ended; nothing before that. -/
def execWickRefillWindow (island : Nat) (s : State) : Host.Outcome State Fault Refusal :=
  .next (if (s.islands[island]?).all fun i => i.stopped || decide (i.cycle < (i.windows + 1) * wickWindow) then s
    else (s.modIsland island fun i => { i with windows := i.windows + 1 }).setLevel island fun i =>
      if i.unlimited then i.level else min (i.cap : Int) (i.level + i.refill))

/-- R388: the acceptance counts restart. -/
def execQosBudgetWindow (port : Nat) (s : State) : Host.Outcome State Fault Refusal :=
  .next { s with qos := s.qos.modify port fun q => { q with accepted := [0, 0, 0] } }

/-- Whether a unit has an input that may raise a stall hint: a slice, a lantern core or a fabric port (R390, R479, R496). -/
def hintUnit (u : Nat) : Bool :=
  (decide (0x4000 ≤ u) && decide (u < 0x4100)) || (decide (0x8000 ≤ u) && decide (u < 0x8080)) || (decide (0xA00 ≤ u) && decide (u < 0xA10))

/-- R390. -/
def execStallHintRaise (input : Nat) (s : State) : Host.Outcome State Fault Refusal :=
  .next (if s.ready && hintUnit input && !s.hints.contains input then { s with hints := s.hints ++ [input] } else s)

/-- R390. -/
def execStallHintClear (input : Nat) (s : State) : Host.Outcome State Fault Refusal :=
  .next { s with hints := s.hints.filter (· != input) }

/-! ## Held records (R383) -/

/-- R383: held records of a context are written while its ring has room, and agents that stalled post theirs. -/
def execFaultRecordFlush (ctx : Nat) (s : State) : Host.Outcome State Fault Refusal :=
  .next (
    let s := if (s.firstHeld ctx).isNone then s else (s.loadCtx ctx).flushHeld ctx ((s.dies.map fun d => d.holding.length).sum)
    (List.range 8).foldl State.retryStalled s)

/-! ## Words with no meaning (R91, R101) -/

/-- A cause of kind W taken by the whole path of the issue. -/
def State.refuseWord (s : State) (code : Nat) : Option State :=
  (s.frame? default).map fun f => s.whole f (.plain code) f.i.lanes

/-- R101: ILLEGAL_INSTRUCTION for every lane of the path. -/
def execIllegalInstruction (s : State) : Host.Outcome State Fault Refusal :=
  match s.refuseWord causeIllegal with
  | some s => .next s
  | none => .fault .noIssue

end Sys2Proof.Machine
end

