-- ==== Sys2Proof/Machine/Mailbox.lean ====
section
/-!
DEFINITION. Sys2Proof/Machine/Mailbox.lean: the mailbox controller and its commands (spec R260, R385, R386, R388, R436, R440, R442, R467, R470,
R471, R478 to R480, R483, R490 to R494).
-/

namespace Sys2Proof.Machine

/-! ## The controller (R386, R478) -/

/-- Commands placed and not completed. -/
def Mailbox.waiting (b : Mailbox) : Bool := b.head != b.tail

/-- The mailbox whose command is taken next: in turn where both have one; none while a command is under way (R436, R478) or while the
controller does not run. -/
def State.nextMailbox (s : State) : Option Bool :=
  if !(s.ready || s.mod.status == 2) || !s.mod.starHold.isEmpty then none
  else match s.mod.control.waiting, s.mod.service.waiting with
    | false, false => none
    | true, false => some false
    | false, true => some true
    | true, true => some s.mod.serveService

/-- STATUS codes (R478). -/
def stOk : Nat := 0
def stUnknown : Nat := 1
def stBadArgument : Nat := 2
def stRefusedState : Nat := 3
def stRefusedFunction : Nat := 4
def stBusy : Nat := 5

/-- The command at the head of a mailbox. -/
def State.command (s : State) (svc : Bool) : List Byte := let b := s.mod.mailbox svc; b.slot b.head

/-- A field of a command or of a table: `n` bytes from byte i. -/
def fieldAt (c : List Byte) (i n : Nat) : Nat := natOfBytes (bytesAt c i n)

/-- The response is written over the slot, MBHEAD advances, and with IEN a message is sent; the other mailbox is next (R478, R480). -/
def State.respond (s : State) (svc : Bool) (status : Nat) (result : List Byte) : State :=
  let c := s.command svc
  let r := bytesAt c 0 2 ++ bytesOfNat 2 status ++ bytesAt c 4 4 ++ bytesAt result 0 56
  let s := s.modMod fun m => { m.modMailbox svc (fun b =>
    { b with slots := smSet b.slots (b.head % mailboxSlots) r, head := (b.head + 1) % 2 ^ 32 }) with serveService := !svc }
  let b := s.mod.mailbox svc
  if b.ien then s.sendMsix svc b.vec else s

/-- What a command comes to: a STATUS other than OK, with no effect; OK with its results; or a command that is still under way. -/
inductive Reply where
  | fail (status : Nat)
  | done (result : List Byte) (s : State)
  | under (s : State)

/-- Whether the argument bytes outside these ranges (first, count) are zero. -/
def restZero (c : List Byte) (used : List (Nat × Nat)) : Bool :=
  (List.range 56).all fun i => c.getD (8 + i) 0 == 0 || used.any fun (a, n) => decide (a ≤ 8 + i) && decide (8 + i < a + n)

/-- Take a mailbox's next command, where it is this one: the checks of R478 in their order, then its effect. `f1`: function 1 accepts it;
`pl`: the pilot light does; `used` are its argument bytes. -/
def State.take (s : State) (svc : Bool) (code : Nat) (f1 pl : Bool) (used : List Byte → List (Nat × Nat)) (run : List Byte → State → Reply) :
    State :=
  let c := s.command svc
  if s.nextMailbox != some svc || fieldAt c 0 2 != code then s
  else if fieldAt c 2 2 ≠ 0 then s.respond svc stBadArgument []
  else if svc && !f1 then s.respond svc stRefusedFunction []
  else if s.mod.status = 2 ∧ !pl then s.respond svc stRefusedState []
  else if !restZero c (used c) then s.respond svc stBadArgument []
  else match run c s with
    | .fail st => s.respond svc st []
    | .done r s => s.respond svc stOk r
    | .under s => s

/-- Codes of the commands (R479). -/
def listedCommand (code : Nat) : Bool := (decide (1 ≤ code) && decide (code ≤ 4)) || (decide (0x10 ≤ code) && decide (code ≤ 0x1F))

/-- R478: an unlisted opcode is answered UNKNOWN. -/
def execMailboxUnknown (svc : Bool) (s : State) : Host.Outcome State Fault Refusal :=
  .next (if s.nextMailbox != some svc || listedCommand (fieldAt (s.command svc) 0 2) then s else s.respond svc stUnknown [])

/-! ## STATUS, ATTEST, FWLOAD, MEASEXT (R479, R490 to R492) -/

/-- R479. -/
def execStatus (svc : Bool) (s : State) : Host.Outcome State Fault Refusal :=
  .next (s.take svc 1 true true (fun _ => []) fun _ s => .done (bytesOfNat 4 s.mod.statusWord) s)

/-- The message of a quote (R492); which of the firmware images 0 to 3 counts as the one in use is not stated, and takes a free value (log
entry 26). -/
def Module.quoteBody (m : Module) (nonce : List Byte) (image : Nat) : List Byte :=
  bytesOfNat 4 1 ++ bytesOfNat 4 m.statusWord ++ bytesAt nonce 0 32 ++ bytesAt (m.meas.flatMap bytes32) 0 256
    ++ bytesAt (chartSummary m.chart) 0 160 ++ bytesOfNat 4 m.powercap ++ bytesOfNat 1 m.domain ++ bytesOfNat 1 (image % 4) ++ List.replicate 10 0

/-- The distinguishing identifier of a quote's signature: the ASCII characters of FH-AMZ8-768 (R492). -/
def signerId : List Byte := [0x46, 0x48, 0x2D, 0x41, 0x4D, 0x5A, 0x38, 0x2D, 0x37, 0x36, 0x38]

/-- A quote with its signature, which takes a random number (R492). -/
def Module.quote (m : Module) (nonce : List Byte) (image random : Nat) : List Byte :=
  let body := m.quoteBody nonce image
  body ++ bytesAt (Config.sign random signerId body) 0 64

/-- R492. -/
def execAttest (svc : Bool) (s : State) : Host.Outcome State Fault Refusal :=
  .next (s.take svc 2 true true (fun _ => [(8, 32)]) fun c s =>
    let (v, s) := s.freeWord
    .done (bytesOfNat 4 536)
      (s.modMod fun m => m.modMailbox svc fun b => { b with quote := m.quote (bytesAt c 8 32) v.toNat s.free }))

/-- The staged image. -/
def Module.image (m : Module) (n : Nat) : List Byte := (List.range n).map fun i => (smGet? m.staging i).getD 0

/-- R490. -/
def execFwload (svc : Bool) (s : State) : Host.Outcome State Fault Refusal :=
  .next (s.take svc 3 false true (fun _ => [(8, 5)]) fun c s =>
    let n := fieldAt c 8 4
    let slot := fieldAt c 12 1
    if 2 ^ 24 < n ∨ 3 < slot then .fail stBadArgument
    else
      let d := sm3 (s.mod.image n)
      if Config.signatureOk d then .done [] (s.modMod fun m => { m with flash := smSet m.flash slot (n, d.toNat) })
      else .fail stBadArgument)

/-- A 32-byte value, first byte first (R491). -/
def valueOf32 (bs : List Byte) : BitVec 256 := .ofNat 256 (natOfBytes bs.reverse)

/-- R491. -/
def execMeasext (svc : Bool) (s : State) : Host.Outcome State Fault Refusal :=
  .next (s.take svc 4 false false (fun _ => [(8, 1), (16, 32)]) fun c s =>
    let i := fieldAt c 8 1
    if i = 6 ∨ i = 7 then .done [] (s.modMod fun m => m.extend i (valueOf32 (bytesAt c 16 32))) else .fail stBadArgument)

/-! ## DOMAIN and the context table (R438 to R440, R483) -/

/-- R483. -/
def execDomain (svc : Bool) (s : State) : Host.Outcome State Fault Refusal :=
  .next (s.take svc 0x10 false false (fun _ => [(8, 2)]) fun c s =>
    let n := fieldAt c 8 1
    let d := fieldAt c 9 1
    if 127 < n ∨ d ≤ n ∨ 128 < d then .fail stBadArgument
    else .done [] (s.modMod fun m => { m with number := n, domain := d }))

/-- Drop the device's copies of context entries. -/
def State.uncache (s : State) (p : Nat → Bool) : State :=
  { s with ctxs := s.ctxs.map fun (c, x) => (c, if p c then { x with cached := none } else x) }

/-- R479. -/
def execCtxtable (svc : Bool) (s : State) : Host.Outcome State Fault Refusal :=
  .next (s.take svc 0x11 false false (fun _ => [(8, 10)]) fun c s =>
    let base := fieldAt c 8 8
    let n := fieldAt c 16 2
    if base % 128 ≠ 0 ∨ 2 ^ 58 ≤ base ∨ n = 0 ∨ 4096 < n then .fail stBadArgument
    else if s.lqs.any (·.en) then .fail stBusy
    else .done [] ((s.modMod fun m => { m with ctxBase := base, ctxCount := n }).uncache fun _ => true))

/-- Whether a context has a live launch or a workgroup (R440). -/
def State.ctxInUse (s : State) (c : Nat) : Bool := (s.launches.any fun (_, l) => l.record.ctx == c) || s.wgs.any fun (_, g) => g.ctx == c

/-- R440. -/
def execCtxreload (svc : Bool) (s : State) : Host.Outcome State Fault Refusal :=
  .next (s.take svc 0x12 false false (fun _ => [(8, 2)]) fun c s =>
    let x := fieldAt c 8 2
    if s.mod.ctxCount ≤ x then .fail stBadArgument
    else if s.ctxInUse x then .fail stBusy
    else .done [] (s.uncache (· == x)))

/-! ## Page services (R385) -/

/-- Serve an engine's sub-queue head: its step starts again when none of its spans waits, or a fatal fault abandons it (R358, R359). -/
def State.serveHead (s : State) (copy : Bool) (core q ctx va : Nat) (fatal : Bool) : State :=
  match s.subQueue copy core q with
  | [] => s
  | e :: _ =>
    match e.wait.find? fun (sp, _, _) => sp.holds ctx va with
    | none => s
    | some (_, addr, bits) =>
      if fatal then (s.raiseD e (.at_ causePage bits addr) (engineSource copy)).leaveQueue copy core q
      else s.modHead copy core q fun e => { e with wait := e.wait.filter fun (sp, _, _) => !sp.holds ctx va }

/-- Serve the engines of every core. -/
def State.serveEngines (s : State) (ctx va : Nat) (fatal : Bool) : State :=
  (List.range 288).foldl (fun s c => (List.range 4).foldl (fun s q =>
    (s.serveHead false c q ctx va fatal).serveHead true c q ctx va fatal) s) s

/-- Serve a suspended section, or one whose end is suspended: a completion of any span that it waits on replays the instruction, and a fatal
one ends the section with cause 0x0C, a `launch`'s queue slot among the rest (R401, R405; log entry 60). -/
def State.serveSection (s : State) (n ctx va : Nat) (fatal : Bool) : State :=
  match s.section? n with
  | none => s
  | some r =>
    if !r.wait.any fun sp => sp.holds ctx va then s
    else
      let s := s.modSection n fun r => { r with wait := [] }
      match r.ending, fatal with
      | some (st, count, res), false => s.closeSection n st count res
      | some (st, count, res), true =>
        if st = 0 then s.leaveSection n (0x40 + causePage) 0 [] else s.leaveSection n st count res
      | none, false => s
      | none, true => s.endSection n (0x40 + causePage) 0 []

/-- Serve the dispatcher's wait for a queue's slot or group table (R367, R369). -/
def State.serveQueue (s : State) (q ctx va : Nat) (fatal : Bool) : State :=
  let lq := s.lq q
  if !lq.wait.any fun sp => sp.holds ctx va then s
  else
    let s := s.modLq q fun x => { x with wait := none }
    if !fatal then s
    else if lq.inTable then s.modLq q fun x => { x with tableFatal := true }
    else s.stopQueue q

/-- Serve a completion word's wait (R371). -/
def State.serveLaunch (s : State) (k ctx va : Nat) (fatal : Bool) : State :=
  match s.launch? k with
  | none => s
  | some l =>
    if !l.waiting.any fun sp => sp.holds ctx va then s
    else
      let s := s.modLaunch k fun l => { l with waiting := none }
      if fatal then (s.launchRecord l.record.ctx l.queue l.record.lid l.slotAddr rejectCompl).dropLaunch k
      else s.finishLaunch k { l with waiting := none }

/-- Serve the appends of graph nodes: tried again, or given up (R416; log entry 18). -/
def State.serveNodes (s : State) (ctx va : Nat) (fatal : Bool) : State :=
  let waits := fun (x : Node) => x.wait.any fun sp => sp.holds ctx va
  if fatal then
    { s with cores := s.cores.map fun k =>
        { k with nodes := k.nodes.map fun (n, x) => (n, if waits x then { x with due := false, wait := none } else x) } }
  else s.retryNodes waits

/-- The launches of a context note the spans that a service has mapped (log entry 42). -/
def State.noteServed (s : State) (ctx va : Nat) : State :=
  let sps := (s.ctx ctx).spans.filter fun sp => sp.holds ctx va
  { s with launches := s.launches.map fun (k, l) =>
      (k, if l.record.ctx == ctx && l.eligible.isSome then { l with served := l.served ++ sps.filter (!l.served.contains ·) } else l) }

/-- One service completion: every agent of the context that waits on a span holding the address replays, or takes the fault as fatal. -/
def State.service (s : State) (ctx va : Nat) (fatal : Bool) : State :=
  let s := if fatal then s else s.noteServed ctx va
  let s := s.modCtx ctx fun x => { x with spans := x.spans.filter fun sp => !sp.holds ctx va }
  let s := s.wgs.foldl (fun s (w, _) => s.serveWg w ctx va fatal) s
  let s := s.serveEngines ctx va fatal
  let s := (List.range 128).foldl (fun s n => s.serveSection n ctx va fatal) s
  let s := (List.range 64).foldl (fun s q => s.serveQueue q ctx va fatal) s
  let s := s.launches.foldl (fun s (k, _) => s.serveLaunch k ctx va fatal) s
  s.serveNodes ctx va fatal

/-- Whether a command's VA, in the slot form of R312, is aligned to 64 KiB. -/
def vaAligned (va : Nat) : Bool := va % 65536 == 0

/-- R385. A context beyond the table is out of range (log entry 27). -/
def execSvcdone (svc : Bool) (s : State) : Host.Outcome State Fault Refusal :=
  .next (s.take svc 0x13 false false (fun _ => [(8, 2), (16, 9), (32, 1)]) fun c s =>
    let x := fieldAt c 8 2
    let va := fieldAt c 16 9
    let flag := fieldAt c 32 1
    if s.mod.ctxCount ≤ x ∨ !vaAligned va ∨ 1 < flag then .fail stBadArgument
    else .done [] (if (s.ctx x).spans.any fun sp => sp.holds x va then s.service x va (flag == 1) else s))

/-! ## TLBINV (R260) -/

/-- Whether a translation overlaps a range; a length of 0 takes the whole context. -/
def TlbEntry.meets (t : TlbEntry) (ctx va len : Nat) : Bool :=
  t.ctx == ctx && (len == 0 || (decide (t.base < va + len) && decide (va < t.base + 2 ^ spanBits t.level)))

/-- Far lanes of split gathers of a context read at once: their data was asked for under the old translation (R260, R315). -/
def State.landSplits (s : State) (ctx : Nat) : State :=
  (s.wgs.filter fun (_, g) => g.ctx == ctx && g.status == .resident).foldl (fun s (w, g) =>
    g.beams.foldl (fun s (n, b) => b.parked.foldl (fun s (i, r) => match r.cause with
      | .split far _ _ => far.foldl (fun s (l, _) => s.splitArrive (.beam w n) i l) s
      | _ => s) s) s) s

/-- Write every dirty line back, and perform every write under way (R260, R285). -/
def State.performEverything (s : State) : State :=
  (List.range 416).foldl (fun s c =>
    ((s.core c).lines.foldl (fun s (ln, _) => s.writeBack c ln) s).drain c fun _ => true) s

/-- Drop translations from every TLB. -/
def State.dropTranslations (s : State) (p : TlbEntry → Bool) : State :=
  { s with
    cores := s.cores.map fun k => { k with tlb := k.tlb.filter fun t => !p t }
    dies := s.dies.map fun d => { d with tlb := d.tlb.filter fun t => !p t } }

/-- R260: every access that used an old translation is performed, and every TLB has dropped the range. -/
def execTlbinv (svc : Bool) (s : State) : Host.Outcome State Fault Refusal :=
  .next (s.take svc 0x14 false false (fun _ => [(8, 2), (16, 9), (32, 8)]) fun c s =>
    let x := fieldAt c 8 2
    let va := fieldAt c 16 9
    let len := fieldAt c 32 8
    if s.mod.ctxCount ≤ x ∨ !vaAligned va ∨ len % 65536 ≠ 0 then .fail stBadArgument
    else .done [] (((s.landSplits x).performEverything).dropTranslations fun t => t.meets x va len))

/-! ## LODESTAR (R435, R436) -/

/-- A bucket's contents, by its number among all tables. -/
def Module.bucket (m : Module) (b : Nat) : Nat := if b < 4096 then m.star b else m.sub ((b - 4096) / 512) ((b - 4096) % 512)

/-- Contents of a bucket at reset. -/
def bucketReset (b : Nat) : Nat := if b < 4096 then b % 128 else (b - 4096) % 512 % 16

/-- Write a bucket; a table lists what differs from its reset contents. -/
def Module.setBucket (m : Module) (b v : Nat) : Module :=
  let put := fun (t : SMap Nat) (k : Nat) => if v = bucketReset b then smErase t k else smSet t k v
  if b < 4096 then { m with lodestar := put m.lodestar b } else { m with substar := put m.substar (b - 4096) }

/-- R436: new requests for the buckets that change are held; where none changes, the command is complete. The slot's bytes from 16 + COUNT on,
of which R479 says nothing, count as reserved: one that is not zero is BAD_ARGUMENT (log entry 27). -/
def execLodestar (svc : Bool) (s : State) : Host.Outcome State Fault Refusal :=
  .next (s.take svc 0x15 false false (fun c => [(8, 1), (10, 3), (16, fieldAt c 12 1)]) fun c s =>
    let t := fieldAt c 8 1
    let first := fieldAt c 10 2
    let n := fieldAt c 12 1
    let size := if t = 0 then 4096 else 512
    let limit := if t = 0 then 128 else 16
    let vs := (bytesAt c 16 n).map BitVec.toNat
    if 8 < t ∨ n = 0 ∨ 32 < n ∨ size < first + n ∨ vs.any fun v => decide (limit ≤ v) then .fail stBadArgument
    else
      let base := if t = 0 then first else 4096 + 512 * (t - 1) + first
      let hold := (vs.mapIdx fun i v => (base + i, v)).filter fun (b, v) => s.mod.bucket b != v
      if hold.isEmpty then .done [] s else .under (s.modMod fun m => { m with starHold := hold }))

/-- Whether a request for a held bucket is on its way, is NACKed, or is accepted and has not run to its end. -/
def State.bucketBusy (s : State) : Bool :=
  let held := fun (r : Request) => r.bucket.any fun b => s.mod.starHold.any (·.1 == b)
  (s.msgs.any fun m => match m with
    | .request _ r => held r
    | .retry _ _ _ r => held r
    | .nack _ _ _ r => held r
    | .backoff _ _ _ r => held r
    | _ => false)
  || s.lanterns.any fun l => l.queue.any held || l.running.any fun x => held x.req

/-- R436: the buckets are written, the command completes, and the requests that were held go to their new home. -/
def execLodestarUpdate (s : State) : Host.Outcome State Fault Refusal :=
  .next (if s.mod.starHold.isEmpty || s.bucketBusy then s
    else
      let s := s.modMod fun m => { (m.starHold.foldl (fun m (b, v) => m.setBucket b v) m) with starHold := [] }
      let s := s.respond false stOk []
      (s.wgs.filter fun (_, g) => g.status == .resident).foldl (fun s (w, _) => s.resend w) s)

/-! ## Counters (R467, R469, R470) -/

/-- The index in `State.cores` of a core or lantern core's unit number. -/
def coreOfUnit (u : Nat) : Option Nat := if u < 288 then some u else if 0x8000 ≤ u ∧ u < 0x8080 then some (lanternIx (u - 0x8000)) else none

/-- Bits of PMCSEL that hold a value (R467). -/
def selMask (v : Nat) : Nat := bits v 30 2 * 2 ^ 30 + bits v 0 24

/-- R467: a selector is written and its counter cleared. -/
def execPmcsel (svc : Bool) (s : State) : Host.Outcome State Fault Refusal :=
  .next (s.take svc 0x16 false false (fun _ => [(8, 3), (12, 4)]) fun c s =>
    let i := fieldAt c 10 1
    match coreOfUnit (fieldAt c 8 2), decide (i < 16) with
    | some k, true => .done [] (s.modCore k fun x =>
        { x with pmcsel := x.pmcsel.set i (selMask (fieldAt c 12 4)), pmc := x.pmc.set i 0 })
    | _, _ => .fail stBadArgument)

/-- The unit that counts errors under a number (R479). -/
def payerOfUnit (u : Nat) : Option Payer :=
  match coreOfUnit u with
  | some k => some (.core k)
  | none =>
    if 0x4000 ≤ u ∧ u < 0x4100 then some (.slice (u - 0x4000))
    else if 0x2000 ≤ u ∧ u < 0x2400 then some (.channel (u - 0x2000))
    else if u = 0x1000 then some .bridge
    else none

/-- R470. -/
def execErrreport (svc : Bool) (s : State) : Host.Outcome State Fault Refusal :=
  .next (s.take svc 0x17 false false (fun _ => [(8, 2)]) fun c s =>
    match payerOfUnit (fieldAt c 8 2) with
    | some p => let e := s.errs p; .done (bytesOfNat 4 e.corr ++ bytesOfNat 4 e.uncorr ++ bytesOfNat 4 e.nvc) s
    | none => .fail stBadArgument)

/-- Clear the error counters of every unit. -/
def State.clearErrors (s : State) : State :=
  { s with
    cores := s.cores.map fun k => { k with errs := .zero }
    slices := s.slices.map fun _ => .zero
    channels := []
    bridge := .zero }

/-- R470. -/
def execErrclear (svc : Bool) (s : State) : Host.Outcome State Fault Refusal :=
  .next (s.take svc 0x18 false false (fun _ => [(8, 2)]) fun c s =>
    let u := fieldAt c 8 2
    if u = 0xFFFF then .done [] s.clearErrors
    else match payerOfUnit u with
      | some p => .done [] (s.setErrs p .zero)
      | none => .fail stBadArgument)

/-- Every unit that counts errors. -/
def allPayers : List Payer :=
  (List.range 416).map Payer.core ++ (List.range 256).map Payer.slice ++ (List.range 1024).map Payer.channel ++ [.bridge]

/-- Units whose counters stand above a class's threshold become candidates (R470, R493). -/
def State.flagAbove (s : State) (cls th : Nat) : State :=
  allPayers.foldl (fun s p =>
    if p.cls != cls then s
    else
      let e := s.errs p
      if th < e.corr ∨ th < e.uncorr ∨ th < e.nvc then s.flag p.unit 2 else s) s

/-- R470: a threshold lowered beneath a counter is crossed at once (R479). -/
def execErrthresh (svc : Bool) (s : State) : Host.Outcome State Fault Refusal :=
  .next (s.take svc 0x19 false false (fun _ => [(8, 1), (12, 4)]) fun c s =>
    let k := fieldAt c 8 1
    let th := fieldAt c 12 4
    if 4 < k then .fail stBadArgument
    else .done [] ((s.modMod fun m => { m with thresholds := m.thresholds.set k th }).flagAbove k th))

/-! ## Limits and budgets (R388, R471, R472, R495, R498) -/

/-- R471: CAP is out of range at 0, unless UNL = 1 makes it unused (log entry 27). -/
def execWick (svc : Bool) (s : State) : Host.Outcome State Fault Refusal :=
  .next (s.take svc 0x1A false false (fun _ => [(8, 1), (16, 8)]) fun c s =>
    let i := fieldAt c 8 1
    let v := fieldAt c 16 8
    let cap := bits v 32 24
    if 39 < i ∨ (cap = 0 ∧ !v.testBit 63) then .fail stBadArgument
    else .done [] ((s.modIsland i fun x => { x with unlimited := v.testBit 63, cap := cap, refill := bits v 0 24 }).setLevel i fun _ => cap))

/-- R472. -/
def execWatchdog (svc : Bool) (s : State) : Host.Outcome State Fault Refusal :=
  .next (s.take svc 0x1B false false (fun _ => [(8, 2)]) fun c s =>
    let b := fieldAt c 8 1
    let p := fieldAt c 9 1
    if b < 16 ∨ 32 < b ∨ p < 16 ∨ 32 < p then .fail stBadArgument
    else .done [] (s.modMod fun m => { m with bsl := b, pll := p }))

/-- Set a class of a QoS setting. -/
def Qos.put (q : Qos) (cls budget : Nat) (borrow : Bool) : Qos :=
  { q with budgets := q.budgets.set (cls - 1) budget, borrow := q.borrow.set (cls - 1) borrow }

/-- R388. -/
def execQos (svc : Bool) (s : State) : Host.Outcome State Fault Refusal :=
  .next (s.take svc 0x1C false false (fun _ => [(8, 3), (12, 3)]) fun c s =>
    let dies := fieldAt c 8 1
    let cls := fieldAt c 9 1
    let borrow := fieldAt c 10 1
    let budget := fieldAt c 12 2
    let target := fieldAt c 14 1
    if cls = 0 ∨ 3 < cls ∨ 1 < borrow ∨ 1024 < budget ∨ 2 < target then .fail stBadArgument
    else
      let put := fun (i : Nat) (q : Qos) =>
        if dies.testBit (i % 8) && (target == 2 || i / 8 == target) then q.put cls budget (borrow == 1) else q
      .done [] { s with qos := s.qos.mapIdx put })

/-- R498. -/
def execPowercap (svc : Bool) (s : State) : Host.Outcome State Fault Refusal :=
  .next (s.take svc 0x1E false false (fun _ => [(8, 4)]) fun c s =>
    let w := fieldAt c 8 4
    if w < 1200 ∨ 3200 < w then .fail stBadArgument else .done [] (s.modMod fun m => { m with powercap := w }))

/-- R495. -/
def execPatrol (svc : Bool) (s : State) : Host.Outcome State Fault Refusal :=
  .next (s.take svc 0x1F false false (fun _ => [(8, 1)]) fun c s =>
    let v := fieldAt c 8 1
    if 1 < v then .fail stBadArgument else .done [] (s.modMod fun m => { m with patrol := v == 1 }))

/-! ## QUIESCE (R442, R494) -/

/-- Whether a quiesce point may be reached (R494). -/
def State.quiet (s : State) : Bool :=
  s.launches.isEmpty && (s.wgs.all fun (_, g) => g.status != .preempted) && (s.lanterns.all fun l => l.queue.isEmpty && l.running.isNone)
    && s.cores.all fun k => k.matrixQ.all (·.isEmpty) && k.copyQ.all (·.isEmpty)

/-- A replaced core keeps nothing of its caches: lines are written back and its TLB is emptied (R268, R442). -/
def State.vacate (s : State) (core : Nat) : State :=
  let s := s.drain core fun _ => true
  let s := (s.core core).lines.foldl (fun s (ln, _) => s.dropLine core ln) s
  s.modCore core fun k => { k with tlb := [] }

/-- A replaced slice keeps no line: what is dirty goes to the stacks first (R251, R442). -/
def State.vacateSlice (s : State) (slice : Nat) : State :=
  ((s.l2.map (·.1)).filter fun ln => sliceOf (ln * 64) == slice).foldl State.sliceEvict s

/-- A replaced unit holds nothing that has not been written back (R442). -/
def State.vacateUnit (s : State) (p : Nat) : State :=
  match coreOfUnit p with
  | some c => s.vacate c
  | none => if 0x4000 ≤ p ∧ p < 0x4100 then s.vacateSlice (p - 0x4000) else s

/-- The idle self-test reads every channel, which counts what its words show: how many it reads is not stated, and the counts rise by free
values (R469, R494; log entry 20). -/
def State.testChannels (s : State) : State :=
  (List.range 1024).foldl (fun s ch =>
    let (v, s) := s.freeWord
    s.charge (.channel ch) (bits v.toNat 0 16) (bits v.toNat 16 16) 0) s

/-- R494: the quiesce point begins; STATE is QUIESCING until it ends. `failed` is what the self-test will find. -/
def execQuiesce (svc : Bool) (failed : List Nat) (s : State) : Host.Outcome State Fault Refusal :=
  .next (s.take svc 0x1D false false (fun _ => [(8, 1)]) fun c s =>
    let v := fieldAt c 8 1
    if 3 < v then .fail stBadArgument
    else if !s.quiet then .fail stBusy
    else .under (s.modMod fun m => { m with status := 3, task := some (.quiesce svc v failed) }))

/-- The quiesce point ends (R494): with bit 1 set, the idle units that have failed their self-test are candidates; with bit 0 set, candidates
are replaced. The module is READY again, and the command is answered with how many were replaced and how many could not be. -/
def State.endQuiesce (s : State) (svc : Bool) (v : Nat) (failed : List Nat) : State :=
  let s := s.modMod fun m => { m with status := 1, task := none }
  let s := if v.testBit 1 then failed.foldl (fun s p => if (partPlace p).isSome then s.flag p 4 else s) s.testChannels else s
  if !v.testBit 0 then s.respond svc stOk (bytesOfNat 4 0)
  else
    let old := s.mod.candidates
    let (made, left, m) := s.mod.replace old
    let m := if made = 0 then m else m.extend 5 (sm3 (chartSummary m.chart))
    let s := s.modMod fun _ => m.degrade
    ((old.filter fun p => !m.candidates.contains p).foldl State.vacateUnit s).respond svc stOk (bytesOfNat 2 made ++ bytesOfNat 2 left)

/-- The Binnacle ends what it has begun: the reset sequence or the quiesce point. -/
def State.finishTask (s : State) : State :=
  match s.mod.task with
  | none => s
  | some (.reset f) => s.endReset f
  | some (.quiesce svc v failed) => s.endQuiesce svc v failed

end Sys2Proof.Machine
end

