-- ==== Sys2Proof/Machine/Dispatch.lean ====
section
/-!
DEFINITION. Sys2Proof/Machine/Dispatch.lean: one arm per instruction, each a call of its meaning.
-/

namespace Sys2Proof.Machine

/-- The meaning of an instruction in a state. -/
def exec (i : Instr) (s : State) : Host.Outcome State Fault Refusal :=
  match i with
  | .powerOn f => Sys2Proof.Machine.execPowerOn f s
  | .pcieHotReset f => Sys2Proof.Machine.execPcieHotReset f s
  | .linkDown f => Sys2Proof.Machine.execLinkDown f s
  | .functionLevelReset f => Sys2Proof.Machine.execFunctionLevelReset f s
  | .serviceFunctionLevelReset => Sys2Proof.Machine.execServiceFunctionLevelReset s
  | .resetctlRst f => Sys2Proof.Machine.execResetctlRst f s
  | .registerWrite svc off size val => Sys2Proof.Machine.execRegisterWrite svc off size val s
  | .lqcfgWrite q val => Sys2Proof.Machine.execLqcfgWrite q val s
  | .lqbaseWrite q high val => Sys2Proof.Machine.execLqbaseWrite q high val s
  | .lqtailWrite q val => Sys2Proof.Machine.execLqtailWrite q val s
  | .mbtailWrite svc val => Sys2Proof.Machine.execMbtailWrite svc val s
  | .mbcfgWrite svc val => Sys2Proof.Machine.execMbcfgWrite svc val s
  | .msixUnmask svc vec => Sys2Proof.Machine.execMsixUnmask svc vec s
  | .hostBar2Write off size val => Sys2Proof.Machine.execHostBar2Write off size val s
  | .hostBar2Read off size => Sys2Proof.Machine.execHostBar2Read off size s
  | .status svc => Sys2Proof.Machine.execStatus svc s
  | .attest svc => Sys2Proof.Machine.execAttest svc s
  | .fwload svc => Sys2Proof.Machine.execFwload svc s
  | .measext svc => Sys2Proof.Machine.execMeasext svc s
  | .domain svc => Sys2Proof.Machine.execDomain svc s
  | .ctxtable svc => Sys2Proof.Machine.execCtxtable svc s
  | .ctxreload svc => Sys2Proof.Machine.execCtxreload svc s
  | .svcdone svc => Sys2Proof.Machine.execSvcdone svc s
  | .tlbinv svc => Sys2Proof.Machine.execTlbinv svc s
  | .lodestar svc => Sys2Proof.Machine.execLodestar svc s
  | .lodestarUpdate => Sys2Proof.Machine.execLodestarUpdate s
  | .pmcsel svc => Sys2Proof.Machine.execPmcsel svc s
  | .errreport svc => Sys2Proof.Machine.execErrreport svc s
  | .errclear svc => Sys2Proof.Machine.execErrclear svc s
  | .errthresh svc => Sys2Proof.Machine.execErrthresh svc s
  | .wick svc => Sys2Proof.Machine.execWick svc s
  | .watchdog svc => Sys2Proof.Machine.execWatchdog svc s
  | .qos svc => Sys2Proof.Machine.execQos svc s
  | .quiesce svc failed => Sys2Proof.Machine.execQuiesce svc failed s
  | .powercap svc => Sys2Proof.Machine.execPowercap svc s
  | .patrol svc => Sys2Proof.Machine.execPatrol svc s
  | .patrolRead cell => Sys2Proof.Machine.execPatrolRead cell s
  | .thermalStop island => Sys2Proof.Machine.execThermalStop island s
  | .operatingPointChange island point => Sys2Proof.Machine.execOperatingPointChange island point s
  | .ageingMonitorReport unit => Sys2Proof.Machine.execAgeingMonitorReport unit s
  | .systemAccessTimeout a lanes => Sys2Proof.Machine.execSystemAccessTimeout a lanes s
  | .launchRecordTake => Sys2Proof.Machine.execLaunchRecordTake s
  | .workgroupDispatch => Sys2Proof.Machine.execWorkgroupDispatch s
  | .workgroupStart wg => Sys2Proof.Machine.execWorkgroupStart wg s
  | .preemptionDeadline wg => Sys2Proof.Machine.execPreemptionDeadline wg s
  | .saveRecordWrite wg => Sys2Proof.Machine.execSaveRecordWrite wg s
  | .launchComplete uid => Sys2Proof.Machine.execLaunchComplete uid s
  | .resultWriteback a idx => Sys2Proof.Machine.execResultWriteback a idx s
  | .splitGatherArrival a entry lane => Sys2Proof.Machine.execSplitGatherArrival a entry lane s
  | .sectionRequestArrival msg => Sys2Proof.Machine.execSectionRequestArrival msg s
  | .sectionRetryArrival msg => Sys2Proof.Machine.execSectionRetryArrival msg s
  | .cancelArrival msg => Sys2Proof.Machine.execCancelArrival msg s
  | .sectionStart lantern => Sys2Proof.Machine.execSectionStart lantern s
  | .sectionStepLimit lantern => Sys2Proof.Machine.execSectionStepLimit lantern s
  | .sectionResultArrival msg => Sys2Proof.Machine.execSectionResultArrival msg s
  | .nackArrival msg => Sys2Proof.Machine.execNackArrival msg s
  | .nackRetryTimer msg => Sys2Proof.Machine.execNackRetryTimer msg s
  | .wakeArrival msg => Sys2Proof.Machine.execWakeArrival msg s
  | .matrixStep core => Sys2Proof.Machine.execMatrixStep core s
  | .copyCommandRun core quarter words => Sys2Proof.Machine.execCopyCommandRun core quarter words s
  | .engineFaultDelivery a => Sys2Proof.Machine.execEngineFaultDelivery a s
  | .wickRefillWindow island => Sys2Proof.Machine.execWickRefillWindow island s
  | .qosBudgetWindow port => Sys2Proof.Machine.execQosBudgetWindow port s
  | .stallHintRaise input => Sys2Proof.Machine.execStallHintRaise input s
  | .stallHintClear input => Sys2Proof.Machine.execStallHintClear input s
  | .pauseExpiry a => Sys2Proof.Machine.execPauseExpiry a s
  | .regWaitExpiry a => Sys2Proof.Machine.execRegWaitExpiry a s
  | .barrierStallExpiry a entry => Sys2Proof.Machine.execBarrierStallExpiry a entry s
  | .pauseLoopExpiry a => Sys2Proof.Machine.execPauseLoopExpiry a s
  | .faultRecordFlush ctx => Sys2Proof.Machine.execFaultRecordFlush ctx s
  | .illegalInstruction => Sys2Proof.Machine.execIllegalInstruction s
  | .add32 m d a b => Sys2Proof.Machine.execAdd32 m d a b s
  | .sub32 m d a b => Sys2Proof.Machine.execSub32 m d a b s
  | .mul32 m d a b => Sys2Proof.Machine.execMul32 m d a b s
  | .mad32 m d a b => Sys2Proof.Machine.execMad32 m d a b s
  | .mulhiS32 m d a b => Sys2Proof.Machine.execMulhiS32 m d a b s
  | .mulhiZ32 m d a b => Sys2Proof.Machine.execMulhiZ32 m d a b s
  | .abs32 m d a => Sys2Proof.Machine.execAbs32 m d a s
  | .neg32 m d a => Sys2Proof.Machine.execNeg32 m d a s
  | .add64 m d a b => Sys2Proof.Machine.execAdd64 m d a b s
  | .sub64 m d a b => Sys2Proof.Machine.execSub64 m d a b s
  | .mul64 m d a b => Sys2Proof.Machine.execMul64 m d a b s
  | .mad64 m d a b => Sys2Proof.Machine.execMad64 m d a b s
  | .mulhiS64 m d a b => Sys2Proof.Machine.execMulhiS64 m d a b s
  | .mulhiZ64 m d a b => Sys2Proof.Machine.execMulhiZ64 m d a b s
  | .abs64 m d a => Sys2Proof.Machine.execAbs64 m d a s
  | .neg64 m d a => Sys2Proof.Machine.execNeg64 m d a s
  | .addSc m d a b => Sys2Proof.Machine.execAddSc m d a b s
  | .subSc m d a b => Sys2Proof.Machine.execSubSc m d a b s
  | .mulSc m d a b => Sys2Proof.Machine.execMulSc m d a b s
  | .madSc m d a b => Sys2Proof.Machine.execMadSc m d a b s
  | .mulhiSSc m d a b => Sys2Proof.Machine.execMulhiSSc m d a b s
  | .mulhiZSc m d a b => Sys2Proof.Machine.execMulhiZSc m d a b s
  | .absSc m d a => Sys2Proof.Machine.execAbsSc m d a s
  | .negSc m d a => Sys2Proof.Machine.execNegSc m d a s
  | .minS32 m d a b => Sys2Proof.Machine.execMinS32 m d a b s
  | .minZ32 m d a b => Sys2Proof.Machine.execMinZ32 m d a b s
  | .maxS32 m d a b => Sys2Proof.Machine.execMaxS32 m d a b s
  | .maxZ32 m d a b => Sys2Proof.Machine.execMaxZ32 m d a b s
  | .divS32 m d a b => Sys2Proof.Machine.execDivS32 m d a b s
  | .divZ32 m d a b => Sys2Proof.Machine.execDivZ32 m d a b s
  | .remS32 m d a b => Sys2Proof.Machine.execRemS32 m d a b s
  | .remZ32 m d a b => Sys2Proof.Machine.execRemZ32 m d a b s
  | .minS64 m d a b => Sys2Proof.Machine.execMinS64 m d a b s
  | .minZ64 m d a b => Sys2Proof.Machine.execMinZ64 m d a b s
  | .maxS64 m d a b => Sys2Proof.Machine.execMaxS64 m d a b s
  | .maxZ64 m d a b => Sys2Proof.Machine.execMaxZ64 m d a b s
  | .divS64 m d a b => Sys2Proof.Machine.execDivS64 m d a b s
  | .divZ64 m d a b => Sys2Proof.Machine.execDivZ64 m d a b s
  | .remS64 m d a b => Sys2Proof.Machine.execRemS64 m d a b s
  | .remZ64 m d a b => Sys2Proof.Machine.execRemZ64 m d a b s
  | .minSSc m d a b => Sys2Proof.Machine.execMinSSc m d a b s
  | .minZSc m d a b => Sys2Proof.Machine.execMinZSc m d a b s
  | .maxSSc m d a b => Sys2Proof.Machine.execMaxSSc m d a b s
  | .maxZSc m d a b => Sys2Proof.Machine.execMaxZSc m d a b s
  | .divSSc m d a b => Sys2Proof.Machine.execDivSSc m d a b s
  | .divZSc m d a b => Sys2Proof.Machine.execDivZSc m d a b s
  | .remSSc m d a b => Sys2Proof.Machine.execRemSSc m d a b s
  | .remZSc m d a b => Sys2Proof.Machine.execRemZSc m d a b s
  | .and32 m d a b => Sys2Proof.Machine.execAnd32 m d a b s
  | .or32 m d a b => Sys2Proof.Machine.execOr32 m d a b s
  | .xor32 m d a b => Sys2Proof.Machine.execXor32 m d a b s
  | .not32 m d a => Sys2Proof.Machine.execNot32 m d a s
  | .popc32 m d a => Sys2Proof.Machine.execPopc32 m d a s
  | .clz32 m d a => Sys2Proof.Machine.execClz32 m d a s
  | .ctz32 m d a => Sys2Proof.Machine.execCtz32 m d a s
  | .brev32 m d a => Sys2Proof.Machine.execBrev32 m d a s
  | .and64 m d a b => Sys2Proof.Machine.execAnd64 m d a b s
  | .or64 m d a b => Sys2Proof.Machine.execOr64 m d a b s
  | .xor64 m d a b => Sys2Proof.Machine.execXor64 m d a b s
  | .not64 m d a => Sys2Proof.Machine.execNot64 m d a s
  | .popc64 m d a => Sys2Proof.Machine.execPopc64 m d a s
  | .clz64 m d a => Sys2Proof.Machine.execClz64 m d a s
  | .ctz64 m d a => Sys2Proof.Machine.execCtz64 m d a s
  | .brev64 m d a => Sys2Proof.Machine.execBrev64 m d a s
  | .andSc m d a b => Sys2Proof.Machine.execAndSc m d a b s
  | .orSc m d a b => Sys2Proof.Machine.execOrSc m d a b s
  | .xorSc m d a b => Sys2Proof.Machine.execXorSc m d a b s
  | .notSc m d a => Sys2Proof.Machine.execNotSc m d a s
  | .popcSc m d a => Sys2Proof.Machine.execPopcSc m d a s
  | .clzSc m d a => Sys2Proof.Machine.execClzSc m d a s
  | .ctzSc m d a => Sys2Proof.Machine.execCtzSc m d a s
  | .brevSc m d a => Sys2Proof.Machine.execBrevSc m d a s
  | .shl32 m d a b => Sys2Proof.Machine.execShl32 m d a b s
  | .shr32 m d a b => Sys2Proof.Machine.execShr32 m d a b s
  | .sar32 m d a b => Sys2Proof.Machine.execSar32 m d a b s
  | .rotl32 m d a b => Sys2Proof.Machine.execRotl32 m d a b s
  | .bfxS32 m d a b => Sys2Proof.Machine.execBfxS32 m d a b s
  | .bfxZ32 m d a b => Sys2Proof.Machine.execBfxZ32 m d a b s
  | .bfi32 m d a b => Sys2Proof.Machine.execBfi32 m d a b s
  | .shl64 m d a b => Sys2Proof.Machine.execShl64 m d a b s
  | .shr64 m d a b => Sys2Proof.Machine.execShr64 m d a b s
  | .sar64 m d a b => Sys2Proof.Machine.execSar64 m d a b s
  | .rotl64 m d a b => Sys2Proof.Machine.execRotl64 m d a b s
  | .bfxS64 m d a b => Sys2Proof.Machine.execBfxS64 m d a b s
  | .bfxZ64 m d a b => Sys2Proof.Machine.execBfxZ64 m d a b s
  | .bfi64 m d a b => Sys2Proof.Machine.execBfi64 m d a b s
  | .shlSc m d a b => Sys2Proof.Machine.execShlSc m d a b s
  | .shrSc m d a b => Sys2Proof.Machine.execShrSc m d a b s
  | .sarSc m d a b => Sys2Proof.Machine.execSarSc m d a b s
  | .rotlSc m d a b => Sys2Proof.Machine.execRotlSc m d a b s
  | .bfxSSc m d a b => Sys2Proof.Machine.execBfxSSc m d a b s
  | .bfxZSc m d a b => Sys2Proof.Machine.execBfxZSc m d a b s
  | .bfiSc m d a b => Sys2Proof.Machine.execBfiSc m d a b s
  | .cmpEq32 m d a b => Sys2Proof.Machine.execCmpEq32 m d a b s
  | .cmpNe32 m d a b => Sys2Proof.Machine.execCmpNe32 m d a b s
  | .cmpLtS32 m d a b => Sys2Proof.Machine.execCmpLtS32 m d a b s
  | .cmpGeS32 m d a b => Sys2Proof.Machine.execCmpGeS32 m d a b s
  | .cmpLtZ32 m d a b => Sys2Proof.Machine.execCmpLtZ32 m d a b s
  | .cmpGeZ32 m d a b => Sys2Proof.Machine.execCmpGeZ32 m d a b s
  | .cmpTst32 m d a b => Sys2Proof.Machine.execCmpTst32 m d a b s
  | .cmpEq64 m d a b => Sys2Proof.Machine.execCmpEq64 m d a b s
  | .cmpNe64 m d a b => Sys2Proof.Machine.execCmpNe64 m d a b s
  | .cmpLtS64 m d a b => Sys2Proof.Machine.execCmpLtS64 m d a b s
  | .cmpGeS64 m d a b => Sys2Proof.Machine.execCmpGeS64 m d a b s
  | .cmpLtZ64 m d a b => Sys2Proof.Machine.execCmpLtZ64 m d a b s
  | .cmpGeZ64 m d a b => Sys2Proof.Machine.execCmpGeZ64 m d a b s
  | .cmpTst64 m d a b => Sys2Proof.Machine.execCmpTst64 m d a b s
  | .cmpEqSc m d a b => Sys2Proof.Machine.execCmpEqSc m d a b s
  | .cmpNeSc m d a b => Sys2Proof.Machine.execCmpNeSc m d a b s
  | .cmpLtSSc m d a b => Sys2Proof.Machine.execCmpLtSSc m d a b s
  | .cmpGeSSc m d a b => Sys2Proof.Machine.execCmpGeSSc m d a b s
  | .cmpLtZSc m d a b => Sys2Proof.Machine.execCmpLtZSc m d a b s
  | .cmpGeZSc m d a b => Sys2Proof.Machine.execCmpGeZSc m d a b s
  | .cmpTstSc m d a b => Sys2Proof.Machine.execCmpTstSc m d a b s
  | .movVv m d a => Sys2Proof.Machine.execMovVv m d a s
  | .movVs m d a => Sys2Proof.Machine.execMovVs m d a s
  | .movSv m d a => Sys2Proof.Machine.execMovSv m d a s
  | .movSs m d a => Sys2Proof.Machine.execMovSs m d a s
  | .aadd m d a b => Sys2Proof.Machine.execAadd m d a b s
  | .slid m d a b => Sys2Proof.Machine.execSlid m d a b s
  | .sel m d a b => Sys2Proof.Machine.execSel m d a b s
  | .vshfl m d a b => Sys2Proof.Machine.execVshfl m d a b s
  | .vbcast m d a b => Sys2Proof.Machine.execVbcast m d a b s
  | .vrot m d a b => Sys2Proof.Machine.execVrot m d a b s
  | .vconf m d a => Sys2Proof.Machine.execVconf m d a s
  | .vmatch m d a => Sys2Proof.Machine.execVmatch m d a s
  | .vcompact m d a => Sys2Proof.Machine.execVcompact m d a s
  | .vballot m d a => Sys2Proof.Machine.execVballot m d a s
  | .vscan m f d a b => Sys2Proof.Machine.execVscan m f d a b s
  | .vred m f d a => Sys2Proof.Machine.execVred m f d a s
  | .vcomb m f d a b => Sys2Proof.Machine.execVcomb m f d a b s
  | .moviV m d imm => Sys2Proof.Machine.execMoviV m d imm s
  | .moviS m d imm => Sys2Proof.Machine.execMoviS m d imm s
  | .moviHi m d imm => Sys2Proof.Machine.execMoviHi m d imm s
  | .cvt m d a t u => Sys2Proof.Machine.execCvt m d a t u s
  | .lea m d a imm => Sys2Proof.Machine.execLea m d a imm s
  | .rgetX m d a imm => Sys2Proof.Machine.execRgetX m d a imm s
  | .rputX m d a imm => Sys2Proof.Machine.execRputX m d a imm s
  | .xadd m d a imm => Sys2Proof.Machine.execXadd m d a imm s
  | .xset m d imm => Sys2Proof.Machine.execXset m d imm s
  | .rdid m d n => Sys2Proof.Machine.execRdid m d n s
  | .wbase m a => Sys2Proof.Machine.execWbase m a s
  | .extAcq m n => Sys2Proof.Machine.execExtAcq m n s
  | .extRel m => Sys2Proof.Machine.execExtRel m s
  | .faddF64 m d a b => Sys2Proof.Machine.execFaddF64 m d a b s
  | .fsubF64 m d a b => Sys2Proof.Machine.execFsubF64 m d a b s
  | .fmulF64 m d a b => Sys2Proof.Machine.execFmulF64 m d a b s
  | .fmaF64 m d a b => Sys2Proof.Machine.execFmaF64 m d a b s
  | .fminF64 m d a b => Sys2Proof.Machine.execFminF64 m d a b s
  | .fmaxF64 m d a b => Sys2Proof.Machine.execFmaxF64 m d a b s
  | .fnegF64 m d a => Sys2Proof.Machine.execFnegF64 m d a s
  | .fabsF64 m d a => Sys2Proof.Machine.execFabsF64 m d a s
  | .faddF32 m d a b => Sys2Proof.Machine.execFaddF32 m d a b s
  | .fsubF32 m d a b => Sys2Proof.Machine.execFsubF32 m d a b s
  | .fmulF32 m d a b => Sys2Proof.Machine.execFmulF32 m d a b s
  | .fmaF32 m d a b => Sys2Proof.Machine.execFmaF32 m d a b s
  | .fminF32 m d a b => Sys2Proof.Machine.execFminF32 m d a b s
  | .fmaxF32 m d a b => Sys2Proof.Machine.execFmaxF32 m d a b s
  | .fnegF32 m d a => Sys2Proof.Machine.execFnegF32 m d a s
  | .fabsF32 m d a => Sys2Proof.Machine.execFabsF32 m d a s
  | .faddBf16 m d a b => Sys2Proof.Machine.execFaddBf16 m d a b s
  | .fsubBf16 m d a b => Sys2Proof.Machine.execFsubBf16 m d a b s
  | .fmulBf16 m d a b => Sys2Proof.Machine.execFmulBf16 m d a b s
  | .fmaBf16 m d a b => Sys2Proof.Machine.execFmaBf16 m d a b s
  | .fminBf16 m d a b => Sys2Proof.Machine.execFminBf16 m d a b s
  | .fmaxBf16 m d a b => Sys2Proof.Machine.execFmaxBf16 m d a b s
  | .fnegBf16 m d a => Sys2Proof.Machine.execFnegBf16 m d a s
  | .fabsBf16 m d a => Sys2Proof.Machine.execFabsBf16 m d a s
  | .faddF16 m d a b => Sys2Proof.Machine.execFaddF16 m d a b s
  | .fsubF16 m d a b => Sys2Proof.Machine.execFsubF16 m d a b s
  | .fmulF16 m d a b => Sys2Proof.Machine.execFmulF16 m d a b s
  | .fmaF16 m d a b => Sys2Proof.Machine.execFmaF16 m d a b s
  | .fminF16 m d a b => Sys2Proof.Machine.execFminF16 m d a b s
  | .fmaxF16 m d a b => Sys2Proof.Machine.execFmaxF16 m d a b s
  | .fnegF16 m d a => Sys2Proof.Machine.execFnegF16 m d a s
  | .fabsF16 m d a => Sys2Proof.Machine.execFabsF16 m d a s
  | .fcmpF64 m f d a b => Sys2Proof.Machine.execFcmpF64 m f d a b s
  | .fcmpF32 m f d a b => Sys2Proof.Machine.execFcmpF32 m f d a b s
  | .fcmpBf16 m f d a b => Sys2Proof.Machine.execFcmpBf16 m f d a b s
  | .fcmpF16 m f d a b => Sys2Proof.Machine.execFcmpF16 m f d a b s
  | .fclass m f d a => Sys2Proof.Machine.execFclass m f d a s
  | .vnzmask m f d a => Sys2Proof.Machine.execVnzmask m f d a s
  | .fdivF32 m d a b => Sys2Proof.Machine.execFdivF32 m d a b s
  | .fsqrtF32 m d a => Sys2Proof.Machine.execFsqrtF32 m d a s
  | .frcpF32 m d a => Sys2Proof.Machine.execFrcpF32 m d a s
  | .frsqF32 m d a => Sys2Proof.Machine.execFrsqF32 m d a s
  | .fex2F32 m d a => Sys2Proof.Machine.execFex2F32 m d a s
  | .flg2F32 m d a => Sys2Proof.Machine.execFlg2F32 m d a s
  | .fsinF32 m d a => Sys2Proof.Machine.execFsinF32 m d a s
  | .fcosF32 m d a => Sys2Proof.Machine.execFcosF32 m d a s
  | .fdivF64 m d a b => Sys2Proof.Machine.execFdivF64 m d a b s
  | .fsqrtF64 m d a => Sys2Proof.Machine.execFsqrtF64 m d a s
  | .frcpF64 m d a => Sys2Proof.Machine.execFrcpF64 m d a s
  | .frsqF64 m d a => Sys2Proof.Machine.execFrsqF64 m d a s
  | .ferfF32 m d a => Sys2Proof.Machine.execFerfF32 m d a s
  | .fcvt m d a t u => Sys2Proof.Machine.execFcvt m d a t u s
  | .fpack m f d a b => Sys2Proof.Machine.execFpack m f d a b s
  | .funpk m f d a b => Sys2Proof.Machine.execFunpk m f d a b s
  | .fscale m f d a b => Sys2Proof.Machine.execFscale m f d a b s
  | .madd m d a b => Sys2Proof.Machine.execMadd m d a b s
  | .msub m d a b => Sys2Proof.Machine.execMsub m d a b s
  | .mmul m d a b => Sys2Proof.Machine.execMmul m d a b s
  | .mscale m d a b => Sys2Proof.Machine.execMscale m d a b s
  | .mrelu m d a => Sys2Proof.Machine.execMrelu m d a s
  | .mexp m d a => Sys2Proof.Machine.execMexp m d a s
  | .msigm m d a => Sys2Proof.Machine.execMsigm m d a s
  | .mrcp m d a => Sys2Proof.Machine.execMrcp m d a s
  | .mld m d a f p => Sys2Proof.Machine.execMld m d a f p s
  | .mst m d a f p => Sys2Proof.Machine.execMst m d a f p s
  | .mset m d a b => Sys2Proof.Machine.execMset m d a b s
  | .mmov m d a => Sys2Proof.Machine.execMmov m d a s
  | .mcvtMomMb16 m d a => Sys2Proof.Machine.execMcvtMomMb16 m d a s
  | .mcvtMb16Mom m d a => Sys2Proof.Machine.execMcvtMb16Mom m d a s
  | .mcolMean m d a => Sys2Proof.Machine.execMcolMean m d a s
  | .mcolVar m d a => Sys2Proof.Machine.execMcolVar m d a s
  | .mcolSd m d a => Sys2Proof.Machine.execMcolSd m d a s
  | .mcolSmp m d a b => Sys2Proof.Machine.execMcolSmp m d a b s
  | .ld m d a r w p => Sys2Proof.Machine.execLd m d a r w p s
  | .st m d a r w p => Sys2Proof.Machine.execSt m d a r w p s
  | .ldIndexed m w d a b => Sys2Proof.Machine.execLdIndexed m w d a b s
  | .stIndexed m w d a b => Sys2Proof.Machine.execStIndexed m w d a b s
  | .lds m d a w p => Sys2Proof.Machine.execLds m d a w p s
  | .sts m d a w p => Sys2Proof.Machine.execSts m d a w p s
  | .ldp m d a w p => Sys2Proof.Machine.execLdp m d a w p s
  | .stp m d a w p => Sys2Proof.Machine.execStp m d a w p s
  | .ldA72 m d a p => Sys2Proof.Machine.execLdA72 m d a p s
  | .stA72 m d a p => Sys2Proof.Machine.execStA72 m d a p s
  | .ldAcq m d a c w p => Sys2Proof.Machine.execLdAcq m d a c w p s
  | .stRel m d a c w p => Sys2Proof.Machine.execStRel m d a c w p s
  | .stf m f d a b => Sys2Proof.Machine.execStf m f d a b s
  | .fence m b => Sys2Proof.Machine.execFence m b s
  | .xfence m p q => Sys2Proof.Machine.execXfence m p q s
  | .cinv m a m2 => Sys2Proof.Machine.execCinv m a m2 s
  | .cflush m a m2 => Sys2Proof.Machine.execCflush m a m2 s
  | .pref m l a b => Sys2Proof.Machine.execPref m l a b s
  | .cchk m d a b => Sys2Proof.Machine.execCchk m d a b s
  | .cinj m a b => Sys2Proof.Machine.execCinj m a b s
  | .nzcnt m f d a b => Sys2Proof.Machine.execNzcnt m f d a b s
  | .ldgSplit m w d a b => Sys2Proof.Machine.execLdgSplit m w d a b s
  | .atombAdd m f d a o b => Sys2Proof.Machine.execAtombAdd m f d a o b s
  | .atomAdd m t d a o b => Sys2Proof.Machine.execAtomAdd m t d a o b s
  | .atomMin m t d a o b => Sys2Proof.Machine.execAtomMin m t d a o b s
  | .atomMax m t d a o b => Sys2Proof.Machine.execAtomMax m t d a o b s
  | .atomAnd m t d a o b => Sys2Proof.Machine.execAtomAnd m t d a o b s
  | .atomOr m t d a o b => Sys2Proof.Machine.execAtomOr m t d a o b s
  | .atomXor m t d a o b => Sys2Proof.Machine.execAtomXor m t d a o b s
  | .atomExch m t d a o b => Sys2Proof.Machine.execAtomExch m t d a o b s
  | .atomCas m t d a o b => Sys2Proof.Machine.execAtomCas m t d a o b s
  | .mm m h t a b => Sys2Proof.Machine.execMm m h t a b s
  | .mmloop m h t a b => Sys2Proof.Machine.execMmloop m h t a b s
  | .mmsp m h t a b => Sys2Proof.Machine.execMmsp m h t a b s
  | .mmgat m h t a b => Sys2Proof.Machine.execMmgat m h t a b s
  | .mmaMom m h t ab => Sys2Proof.Machine.execMmaMom m h t ab s
  | .accz m t => Sys2Proof.Machine.execAccz m t s
  | .accld m t a b => Sys2Proof.Machine.execAccld m t a b s
  | .accst m t a b => Sys2Proof.Machine.execAccst m t a b s
  | .accrd m t a => Sys2Proof.Machine.execAccrd m t a s
  | .accwr m t a => Sys2Proof.Machine.execAccwr m t a s
  | .shipW m d a e n => Sys2Proof.Machine.execShipW m d a e n s
  | .shipT m d a e n k => Sys2Proof.Machine.execShipT m d a e n k s
  | .sret m d n => Sys2Proof.Machine.execSret m d n s
  | .tkwait m d t => Sys2Proof.Machine.execTkwait m d t s
  | .tktest m d t => Sys2Proof.Machine.execTktest m d t s
  | .launch m a q => Sys2Proof.Machine.execLaunch m a q s
  | .trig m => Sys2Proof.Machine.execTrig m s
  | .cpy m d a b => Sys2Proof.Machine.execCpy m d a b s
  | .cpy2d m d a b => Sys2Proof.Machine.execCpy2d m d a b s
  | .gnode m d a => Sys2Proof.Machine.execGnode m d a s
  | .gdep m a b => Sys2Proof.Machine.execGdep m a b s
  | .gsig m a => Sys2Proof.Machine.execGsig m a s
  | .pfarrive m a => Sys2Proof.Machine.execPfarrive m a s
  | .pfwait m a => Sys2Proof.Machine.execPfwait m a s
  | .pftest m d a => Sys2Proof.Machine.execPftest m d a s
  | .pause m imm => Sys2Proof.Machine.execPause m imm s
  | .yieldSave m => Sys2Proof.Machine.execYieldSave m s
  | .bra m c o => Sys2Proof.Machine.execBra m c o s
  | .call m c o => Sys2Proof.Machine.execCall m c o s
  | .brx m a b => Sys2Proof.Machine.execBrx m a b s
  | .ret m => Sys2Proof.Machine.execRet m s
  | .exit m => Sys2Proof.Machine.execExit m s
  | .join m => Sys2Proof.Machine.execJoin m s
  | .pri m p => Sys2Proof.Machine.execPri m p s
  | .barWg m => Sys2Proof.Machine.execBarWg m s
  | .barCon m a => Sys2Proof.Machine.execBarCon m a s
  | .regroup m a => Sys2Proof.Machine.execRegroup m a s
  | .regroupFlush m => Sys2Proof.Machine.execRegroupFlush m s
  | .tktTake m n => Sys2Proof.Machine.execTktTake m n s
  | .tktWait m n => Sys2Proof.Machine.execTktWait m n s
  | .trap m n => Sys2Proof.Machine.execTrap m n s
  | .tretRetry m => Sys2Proof.Machine.execTretRetry m s
  | .tretSkip m => Sys2Proof.Machine.execTretSkip m s
  | .brk m => Sys2Proof.Machine.execBrk m s
  | .nop m => Sys2Proof.Machine.execNop m s
  | .exitFault m => Sys2Proof.Machine.execExitFault m s
  | .rdctl m d imm => Sys2Proof.Machine.execRdctl m d imm s
  | .wrctl m a imm => Sys2Proof.Machine.execWrctl m a imm s
  | .rdcnt m d imm => Sys2Proof.Machine.execRdcnt m d imm s
  | .powerRemoved => Sys2Proof.Machine.execPowerRemoved s
  | .writePerformed core which => Sys2Proof.Machine.execWritePerformed core which s
  | .fabricMemoryRequest r => Sys2Proof.Machine.execFabricMemoryRequest r s
  | .mailboxUnknown svc => Sys2Proof.Machine.execMailboxUnknown svc s

end Sys2Proof.Machine
end

