-- ==== Sys2Proof/Machine/Fetch.lean ====
section
/-!
DEFINITION. Sys2Proof/Machine/Fetch.lean: when an agent may issue (spec R158 to R165, R377, R404, R424), fetching an instruction's words
(R74, R75, R86, R537), and what passes without an instruction: clocks, lines and translations that leave, routes to other modules (R251,
R260, R466, R485).
-/

namespace Sys2Proof.Machine

/-! ## Who may issue -/

/-- Whether an agent issues: a beam of a resident workgroup that has neither yielded nor been stopped, and that does not wait for an
extended block (R130, R171, R172, R201); a section that is neither suspended nor ending (R405). -/
def State.mayIssue (s : State) (a : Agent) : Bool :=
  s.ready && match a with
    | .beam w _ => match s.wg? w, s.beam? a with
      | some g, some b =>
        g.status == .resident && !g.deadline && !b.yielded && !b.frontier.any fun e => e.kind == .extAcq
      | _, _ => false
    | .lantern n => match s.section? n with
      | some r => r.wait.isEmpty && r.ending.isNone
      | none => false

/-- What is delivered to a beam in place of its next primary issue: a fatal fault that has waited for a handler to return, a pending kind D
cause, PREEMPT (R160, R163, R165). -/
def State.boundary (s : State) (a : Agent) : Option State :=
  match s.beam? a, s.nextFatal a with
  | none, _ => none
  | some _, some t => some t
  | some b, none =>
    if !b.inh && !b.pendD.isEmpty then some (s.deliverD a)
    else if b.pendPreempt && !b.inh && maskSub b.live (parkedLanes b.frontier) != 0 then some (s.deliverPreempt a) else none

/-- The entries that a beam's two ports issue (R377, R424): the second port issues neither from a handler nor with `beamctl.ORD` = 1, and a
section's beam of width one has one path. -/
def Beam.ports (b : Beam) : Option Entry × Option Entry :=
  (b.entry? false, if b.inh || b.ord then none else b.entry? true)

/-! ## Which beam a quarter chooses (R377, R378) -/

/-- The level of a beam: 0 elevated, 1 normal, 2 lowered (R377, R378). -/
def Beam.level (b : Beam) : Nat := if b.inh then 0 else if b.paused.isNone then 1 else 2

/-- Whether a beam has something for its primary port: an entry to issue, or a PREEMPT that waited for a lane to leave parking (R164, R377). -/
def Beam.offers (b : Beam) : Bool :=
  (b.entry? false).isSome || (b.pendPreempt && !b.inh && maskSub b.live (parkedLanes b.frontier) != 0)

/-- A ready beam: its agent, its level, the number of turns in which it was passed over at that level, and the turn of its latest issue. -/
structure Candidate where
  wg : Nat
  number : Nat
  level : Nat
  passed : Nat
  last : Nat
deriving DecidableEq, Repr

def Beam.candidate (b : Beam) (w : Nat) : Candidate :=
  ⟨w, b.number, b.level, if b.passedLevel = b.level then b.passed else 0, b.lastTurn⟩

/-! ### The gang throttle (R379; log entry 20) -/

/-- The clock of an island of cores at its operating point, in units of 0.25 GHz (R498). -/
def Island.quarterGHz (i : Island) : Nat := 9 - i.point

/-- Issues that each beam of a workgroup may make in 16 turns: 16 where no constellation throttles it. -/
def State.gangCap (s : State) (g : Wg) : Nat :=
  match s.launch? g.launch with
  | none => 16
  | some l => (l.groups.filter fun c => c.gang && c.holds g.id).foldl (fun cap c =>
      let members := s.wgs.filter fun (_, x) => x.launch == g.launch && x.status == .resident && c.holds x.id
      let f := members.foldl (fun f (_, x) => min f (s.islands.getD (islandOfCore x.core) default).quarterGHz) 9
      if f < 9 then min cap (max 1 (16 * f / 9)) else cap) 16

/-- Whether a beam has used its issues in the group of 16 turns that a turn falls into; an elevated one is exempt. -/
def Beam.throttled (b : Beam) (turn cap : Nat) : Bool := b.level != 0 && b.gang.1 == turn / 16 && decide (cap ≤ b.gang.2)

/-- Lower beam number first, and between workgroups the one launched first (log entry 1). -/
def Candidate.lower (a b : Candidate) : Bool := decide (a.number < b.number) || (a.number == b.number && decide (a.wg < b.wg))

/-- The beams of a quarter that have something to issue. -/
def State.offering (s : State) (core q : Nat) : List (Nat × Wg × Beam) :=
  s.wgs.flatMap fun (w, g) =>
    if g.core = core then
      (g.beams.filter fun (n, b) => b.quarter == q && b.offers && s.mayIssue (.beam w n)).map fun (_, b) => (w, g, b)
    else []

/-- The beams of a quarter that are ready in a turn; `busy` names those that timing keeps from issuing in this clock. -/
def State.readyBeams (s : State) (core q turn : Nat) (busy : List (Nat × Nat)) : List Candidate :=
  ((s.offering core q).filter fun (w, g, b) => !busy.contains (w, b.number) && !b.throttled turn (s.gangCap g)).map fun (w, _, b) => b.candidate w

/-- The word that stands at an address after its prefix, where it has one. -/
def State.baseWord (s : State) (a : Agent) (pc : Nat) : Option Nat :=
  let pl := s.place a
  ((s.peek pl pc).bind fun w => if isPrefix w.toNat then s.peek pl (pc + 4) else some w).map BitVec.toNat

/-- Opcode of the instruction at an address. -/
def State.opcodeAt (s : State) (a : Agent) (pc : Nat) : Option Nat := (s.baseWord a pc).map fun w => bits w 24 7

/-- Whether an instruction of this opcode sends requests to peers of a unit's kind: memory accesses to slices and fabric ports, shipped
sections to lantern cores and fabric ports (R390, R479). -/
def hintedBy (op u : Nat) : Bool :=
  let ship := op == 0x60
  let access := op == 0x39 || op == 0x3A || (decide (0x40 ≤ op) && decide (op ≤ 0x57) && op != 0x44 && op != 0x45)
  if u < 0x1000 then ship || access else if u < 0x8000 then access else ship

/-- Whether a stall hint may be what holds a beam in a clock: its next instruction sends to a peer of such a kind, it has been held for fewer
than 64 clocks, and another beam of its level is ready (R390). -/
def State.hintHolds (s : State) (w : Nat) (b : Beam) (ready : List Candidate) : Bool :=
  decide (b.hinted < 64) && (ready.any fun c => c.level == b.level) && match (b.entry? false).bind fun e => s.opcodeAt (.beam w b.number) e.pc with
    | some op => s.hints.any (hintedBy op)
    | none => false

/-- Whether some selector of a core counts an event. -/
def Core.counts (k : Core) (evt : Nat) : Bool := k.pmcsel.any fun sel => sel.testBit 31 && bits sel 0 8 == evt

/-- Count for a quarter's turn the beams that the gang throttle refuses (event 0x0F), and those that a stall hint holds (event 0x11): of the
beams that timing keeps from issuing and a hint may hold, which ones it does hold is a free value (R379, R390, R468; log entry 20). -/
def State.heldCounts (s : State) (core q turn : Nat) (busy : List (Nat × Nat)) (ready : List Candidate) : State :=
  let s := if !(s.core core).counts 0x0F then s
    else (s.offering core q).foldl (fun s (_, g, b) => if b.throttled turn (s.gangCap g) then s.count core 0x0F g.ctx 1 else s) s
  if s.hints.isEmpty then s
  else (s.offering core q).foldl (fun s (w, g, b) =>
    if busy.contains (w, b.number) && s.hintHolds w b ready then
      let (v, s) := s.freeWord
      if v.getLsbD 0 then (s.count core 0x11 g.ctx 1).modBeam (.beam w b.number) fun b => { b with hinted := b.hinted + 1 } else s
    else s) s

/-- Turns in which a ready beam may be passed over (R377). -/
def passLimit : Nat := 16

/-- The beam that rules 1 to 3 choose among those of one level, and whether rule 1 did (R377). -/
def chooseBeam (robin : Option Nat) (cs : List Candidate) : Option (Candidate × Bool) :=
  let due := cs.filter fun c => decide (passLimit ≤ c.passed)
  let after := due.filter fun c => match robin with
    | some n => decide (n < c.number)
    | none => true
  match leastBy Candidate.lower (if after.isEmpty then due else after) with
  | some c => some (c, true)
  | none =>
    (leastBy (fun a b => decide (a.last < b.last) || (a.last == b.last && a.lower b)) cs).map fun c => (c, false)

/-- The choice of a quarter: the first level that has a ready beam (R377). -/
def chooseLevel (robin : Option Nat) (cs : List Candidate) : Option (Candidate × Bool) :=
  match chooseBeam robin (cs.filter (·.level == 0)), chooseBeam robin (cs.filter (·.level == 1)) with
  | some x, _ => some x
  | none, some x => some x
  | none, none => chooseBeam robin cs

/-- A beam after a turn of its quarter: chosen, ready and passed over, or not ready (R377). -/
def Beam.afterTurn (b : Beam) (turn : Nat) (chosen ready : Bool) : Beam :=
  if chosen then
    { b with lastTurn := turn, passed := 0, passedLevel := b.level, hinted := 0,
             gang := (turn / 16, if b.gang.1 = turn / 16 then b.gang.2 + 1 else 1) }
  else if ready then { b with passed := (if b.passedLevel = b.level then b.passed else 0) + 1, passedLevel := b.level }
  else { b with passed := 0 }

/-- A quarter's turn: what it chooses, and the state that records it (R377). -/
def State.chosen (s : State) (core q : Nat) (busy : List (Nat × Nat)) : Option Agent × State :=
  let k := s.core core
  let turn := k.turns.getD q 0 + 1
  let cs := s.readyBeams core q turn busy
  let pick := chooseLevel (k.robin.getD q none) cs
  let is := fun (w n : Nat) => match pick with
    | some (c, _) => c.wg == w && c.number == n
    | none => false
  let s := (s.heldCounts core q turn busy cs).modCore core fun k =>
    { k with
      turns := k.turns.set q turn
      robin := match pick with
        | some (c, true) => k.robin.set q (some c.number)
        | _ => k.robin }
  let s := { s with wgs := s.wgs.map fun (w, g) =>
      (w, if g.core = core then
          { g with beams := g.beams.map fun (n, b) =>
              (n, if b.quarter = q then b.afterTurn turn (is w n) (cs.any fun c => c.wg == w && c.number == n) else b) }
        else g) }
  (pick.map fun (c, _) => .beam c.wg c.number, s)

/-- Whether a section has executed as many instructions as it may (R404). -/
def State.spent (s : State) (a : Agent) : Bool :=
  match a with
  | .beam _ _ => false
  | .lantern n => match s.section? n with
    | some r => decide (s.stepLimit r.req.ctx ≤ r.steps)
    | none => false

/-! ## Fetching (R74, R75, R86, R259, R537) -/

/-- What a fetch comes to: the instruction's words, or why it has none; `prefixed` says that a prefix was read before the word that
failed. -/
inductive Fetch where
  | words (ws : List Nat)
  | page (sp : Span) (reason va : Nat) (prefixed : Bool)
  | deny (bits va : Nat) (prefixed : Bool)
  | silent (loc bits va : Nat) (prefixed : Bool)
  | bad (w : CW) (va : Nat) (prefixed : Bool)
deriving DecidableEq, Repr

/-- Fetch one word: checked, corrected and counted for the fetching core (R537). -/
def State.fetchWord (s : State) (pl : Place) (va : Nat) (old prefixed : Bool) : Fetch × State :=
  let va := va % 2 ^ 72
  match s.reach pl.core pl.ctx va .fetching with
  | (.fault reason level, s) => (.page ⟨pl.ctx, spanBase level va, level⟩ reason va prefixed, s)
  | (.deny bits, s) => (.deny bits va prefixed, s)
  | (.silent loc bits, s) => (.silent loc bits va prefixed, s)
  | (.page p, s) =>
    let w := s.codeWord pl va p.loc old
    let (c, u) := tally [w]
    let s := s.charge (.core pl.core) c u 0
    match (lccCheck w).data? with
    | some d => (.words [d.toNat], s)
    | none => (.bad w va prefixed, s)

/-- Fetch the instruction at an address: a prefix with the word after it, or one word (R86). Of words that the grid has overwritten, bit 0
of `old` picks the first word's old contents, and bit 1 those of the word after a prefix (R75). -/
def State.fetch (s : State) (a : Agent) (pc : Nat) (old : Nat) : Fetch × State :=
  let pl := s.place a
  match s.fetchWord pl pc (old.testBit 0) false with
  | (.words [w], s) =>
    if isPrefix w then
      match s.fetchWord pl (pc + 4) (old.testBit 1) true with
      | (.words ws, s) => (.words (w :: ws), s)
      | r => r
    else (.words [w], s)
  | r => r

/-- The issue of an entry's path, as its meaning sees it; `view` is the beam as the clock began, where its other port has issued in it. -/
def State.begin_ (s : State) (a : Agent) (e : Entry) (n : Nat) (ws : List Nat) (view : Option Beam) : State :=
  { s with cur := some ⟨a, e.pc, e.pc + 4 * n, e.pri, e.lanes, n == 2, ws, none, view⟩ }

/-- Which of its V sources an instruction's HOLD names, in the order a, b, c (R85). -/
def heldAt (i : Instr) : Option Nat :=
  let u := i.prefixUse
  match ((i.mods.bind (·.pfx)).map (·.hold.toNat)).getD 0 with
  | 1 => some 0
  | 2 => some (if u.holdA then 1 else 0)
  | 3 => some ((if u.holdA then 1 else 0) + if u.holdB then 1 else 0)
  | _ => none

/-- The issue with the source that its HOLD names. -/
def State.holding (s : State) (i : Instr) : State := { s with cur := s.cur.map fun x => { x with held := heldAt i } }

/-- A fetch that found no words: a page fault parks the path, or suspends the section (R160, R405); a page that may not be executed, and
a word that does not check, trap for the whole path (R156, R537). -/
def State.fetchStop (s : State) (a : Agent) (e : Entry) (x : Fetch) (view : Option Beam) : State :=
  let go := fun (prefixed : Bool) (k : Frame → State → State) =>
    let s := s.begin_ a e (if prefixed then 2 else 1) [] view
    match s.frame? default with
    | some f => k f s
    | none => s
  let lanes := fun (f : Frame) => lanesOf f.i.lanes f.b.count
  match x with
  | .words _ => s
  | .page sp reason va p => go p fun f s => s.retire s f ⟨[], (lanes f).map fun l => (l, .page [(sp, reason)] va Access.fetching.bits), none⟩
  | .deny bits va p => go p fun f s => s.whole f (.at_ causeAccess bits va) f.i.lanes
  | .silent loc bits va p => go p fun f s =>
    if f.lantern then match s.waited (.lantern (f.pl.core - 288)) f.pl.core loc with
      | (true, s) => s.whole f (.at_ causeAccess (bits + 8) va) f.i.lanes
      | (false, s) => s
    else s.retire s f ⟨[], (lanes f).map fun l => (l, .other (.answer [(l, va, loc)] 4 bits (moduleOf loc) (s.clockAt f.pl.core))), none⟩
  | .bad w va p => go p fun f s => s.whole f (.lcc va w) f.i.lanes

/-! ## After an issue (R404, R468) -/

/-- Whether an instruction may leave its path where it stands although it has issued: a branch, or a ticket whose turn has not come (R460). -/
def branches : Instr → Bool
  | .bra _ _ _ => true
  | .call _ _ _ => true
  | .brx _ _ _ => true
  | .ret _ => true
  | .tktTake _ _ => true
  | .tktWait _ _ => true
  | _ => false

/-! ### Operand banks (R149, R150) -/

/-- The fields of an instruction that name V sources read from banks: a and b where HOLD may name them, the fourth operand, what the indexed
stores store, and the operand d of the atomics (R320, R321). A relative access has no other V source. -/
def bankFields (i : Instr) : List Nat :=
  let w := (encode i).getLastD 0
  let u := i.prefixUse
  let fourth := match u.c with
    | some .v => true
    | some .pair => true
    | _ => false
  let d := [bits w 14 7]
  let stored := match i with
    | .stIndexed _ _ _ _ _ => d
    | .atombAdd _ _ _ _ _ _ => d
    | .atomAdd _ _ _ _ _ _ => d
    | .atomMin _ _ _ _ _ _ => d
    | .atomMax _ _ _ _ _ _ => d
    | .atomAnd _ _ _ _ _ _ => d
    | .atomOr _ _ _ _ _ _ => d
    | .atomXor _ _ _ _ _ _ => d
    | .atomExch _ _ _ _ _ _ => d
    | .atomCas _ _ _ _ _ _ => d
    | _ => []
  (if u.holdA then [bits w 7 7] else []) ++ (if u.holdB then [bits w 0 7] else [])
    ++ (if fourth then [match i.mods.bind (·.pfx) with
        | some p => p.c.toNat
        | none => bits w 14 7] else []) ++ stored

/-- Extra clocks of sources that stand in these banks: one for each further source of a bank that has served one. -/
def bankClocks (banks : List Nat) : Nat := ((List.range 4).map fun k => banks.count k - 1).sum

/-- Event 0x12 for an instruction: its V sources that the operand latch does not serve, each in its bank. -/
def Beam.extraClocks (b : Beam) (i : Instr) (path : Nat) : Nat :=
  bankClocks ((((bankFields i).map (b.wb + ·)).filter fun n => !b.latch.any fun (x, _, m) => x == n && m &&& path != 0).map (· % 4))

/-- Lanes an issue is active on (R88). -/
def State.activeCount (s : State) (i : Instr) : Nat :=
  match (i.mods).bind s.frame? with
  | some f => f.lanes.length
  | none => 0

/-- What is counted for an instruction that has issued: events 0x02 to 0x04 and 0x12, and a section's steps. `s0` is the state it issued in. An
instruction that waits where it is, for room in a queue, has not issued. -/
def State.issued (s0 s : State) (a : Agent) (i : Instr) (second : Bool) : State :=
  let pl := s0.place a
  if !branches i && (s.beam? a).map (·.frontier) == (s0.beam? a).map (·.frontier) then s
  else
    let s := ((s.count pl.core 0x02 pl.ctx 1).count pl.core 0x03 pl.ctx (s0.activeCount i)).count pl.core 0x04 pl.ctx (if second then 1 else 0)
    match a with
    | .beam _ _ =>
      if (s0.core pl.core).counts 0x12 then
        match s0.beam? a, s0.cur with
        | some b, some x => s.count pl.core 0x12 pl.ctx (b.extraClocks i x.lanes)
        | _, _ => s
      else s
    | .lantern n => s.modSection n fun r => if r.wait.isEmpty then { r with steps := r.steps + 1 } else r

/-! ## What passes without an instruction -/

/-- A line leaves a cache: the victim of the set that the line falls into, of a core, or of its home slice where `core` is 416; a slice that
holds none of the set keeps no tags of the line either. Where `core` is 417, the switch slices drop the line, and where it is 418, they take it
(R249, R251, R295). -/
def State.evictLine (s : State) (core line : Nat) : State :=
  if core < 416 then match victimOf (s.lineSet core line) with
    | some v => s.dropLine core v
    | none => s
  else if core = 416 then match victimOf (s.sliceSet line) with
    | some v => s.sliceEvict v
    | none => { s with tags := s.tags.filter fun (l, _) => l / 64 != line }
  else if core = 417 then s.switchEvict line
  else if core = 418 then s.switchFetch line
  else s

/-- Requests of a core that may hold outstanding-miss slots: results to land, writes under way, far lanes, lines that a prefetch fetches
(R391). -/
def State.misses (s : State) (core : Nat) : Nat :=
  let k := s.core core
  let beams := (s.wgs.filter fun (_, g) => g.core == core && g.status == .resident).flatMap fun (_, g) => g.beams.map (·.2)
  let far := fun (b : Beam) => (b.parked.map fun (_, r) => match r.cause with
    | .split far _ _ => far.length
    | _ => 0).sum
  k.flights.length + (beams.map fun b => b.outstanding.length + far b).sum + k.lines.countP fun (_, l) => match l.origin with
    | .prefetch _ => true
    | _ => false

/-- Whether a core whose 256 outstanding-miss slots may be full has a miss stalled in a clock, and which workgroup's, are free values (event
0x0B; R391, R468; log entry 20). -/
def State.stallCount (s : State) (core : Nat) : State :=
  if (s.core core).counts 0x0B && decide (256 < s.misses core) then
    let here := (s.wgs.map (·.2)).filter fun g => g.core == core && g.status == .resident
    let (v, s) := s.freeWord
    match here[bits v.toNat 1 8 % here.length]? with
    | some g => s.count core 0x0B g.ctx (if v.getLsbD 0 then 1 else 0)
    | none => s
  else s

/-- One clock of a beam: its pause shrinks, and its watchdogs count the waits of its current frontier (R378, R472, R473; log entry 39). -/
def Beam.clock (b : Beam) : Beam :=
  { b with
    paused := b.paused.map (· - 1)
    regWait := if b.frontier.any fun e => e.kind == .extAcq then b.regWait + 1 else b.regWait
    barStall := if (oldestBarrier b.frontier).isSome then b.barStall + 1 else b.barStall }

/-- One clock of a core: event 0x01, and on a lantern core event 0x15 while its section waits for a page (R468). -/
def State.coreClock (s : State) (core : Nat) : State :=
  let s := (s.count core 0x01 noContext 1).stallCount core
  if isLantern core then
    match s.section? (core - 288) with
    | some r => if r.wait.isEmpty then s else s.count core 0x15 r.req.ctx 1
    | none => s
  else s

/-- Cores and lantern cores of an island (R498). -/
def coresOfIsland (i : Nat) : List Nat := (List.range 416).filter fun c => islandOfCore c == i

/-- Appends of graph nodes that wait for a module that does not answer look again (R485). -/
def State.lookAgain (s : State) : State :=
  s.mod.waits.foldl (fun s w => match w.who with
    | .node c n => (s.nodeAppend c n).dropOrphans c
    | _ => s) s

/-- What a beam's clocks have brought to its end: its pause, its wait for an extended block, its oldest barrier's wait (R378, R472). -/
def Beam.dues (b : Beam) (a : Agent) (bsl : Nat) : List Move :=
  (if b.paused = some 0 then [.event (.pauseExpiry a)] else [])
    ++ (if regWaitLimit ≤ b.regWait then [.event (.regWaitExpiry a)] else [])
    ++ (if 2 ^ bsl ≤ b.barStall then
        (b.frontier.findIdx? fun e => some e.kind == oldestBarrier b.frontier).toList.map fun e => .event (.barrierStallExpiry a e)
      else [])

/-- What an island's clocks have brought to its end, which follows at once: backoffs of its cores' requests, the pauses and watchdogs of beams
that run there, and on the service island the deadlines of pre-emptions (R378, R381, R472). -/
def State.dues (s : State) (island : Nat) : List Move :=
  ((s.msgs.mapIdx fun i m => match m with
      | .backoff _ _ _ r => if r.module.isNone && islandOfCore r.core == island && s.backoffOver m then [Move.event (.nackRetryTimer i)] else []
      | _ => []).flatten).reverse
    ++ s.wgs.flatMap fun (w, g) =>
      (if islandOfCore g.core = island ∧ g.status = .resident ∧ !g.deadline then g.beams.flatMap fun (n, b) => b.dues (.beam w n) s.mod.bsl else [])
        ++ if island = 40 ∧ s.deadlineOver g then [.event (.preemptionDeadline w)] else []

/-- One clock of an island (R466, R468, R472); the end of a window of its wick, and whatever else its clocks have brought to its end, are the
next moves (R378, R381, R471). -/
def State.tick (s : State) (island : Nat) : State :=
  match s.islands[island]? with
  | none => s
  | some x =>
    if x.stopped then s
    else
      let s := s.modIsland island fun i => { i with cycle := i.cycle + 1 }
      let s := ((coresOfIsland island).foldl State.coreClock s).lookAgain
      let s : State := { s with wgs := s.wgs.map fun (k, g) =>
          (k, if g.status = .resident ∧ islandOfCore g.core = island then { g with beams := g.beams.map fun (n, b) => (n, b.clock) } else g) }
      { s with agenda := (if (x.cycle + 1) % wickWindow = 0 then [.event (.wickRefillWindow island)] else []) ++ s.dues island ++ s.agenda }

/-- A module of the domain stops answering, or answers again; accesses that wait for it then go on (R485). -/
def State.route (s : State) (module : Nat) (up : Bool) : State :=
  if up then
    let s := s.modMod fun m =>
      { m with silent := m.silent.filter (· != module), waits := m.waits.filter fun w => moduleOf w.loc != module }
    (s.wgs.filter fun (_, g) => g.status == .resident).foldl (fun s (w, _) => s.modBeams w fun b => b.answered s.mod.silent) s
      |>.retryNodes fun x => x.wait.isNone
  else s.modMod fun m => if m.silent.contains module then m else { m with silent := m.silent ++ [module] }

/-- What may follow any move: waits at phase flags that are over end, NACKed lanes park, buckets that can form a beam do, a kind D cause of a
beam where nothing can run any more is delivered, and a workgroup that has ended leaves once its record has room (R163, R381, R383, R419,
R430). -/
def State.settle (s : State) : State :=
  let s := s.settleFlags.settleShips
  let s := s.wgs.foldl (fun s (w, g) =>
    if g.status = .resident ∧ !(g.buckets.isEmpty && g.due.isEmpty) then s.formBeams w else s) s
  let s := s.wgs.foldl (fun s (w, g) => if g.status = .ended then s.reap w else s) s
  s.wgs.foldl (fun s (w, g) => if g.status = .resident ∧ !g.deadline then g.beams.foldl (fun s (n, b) =>
    if b.pendD.isEmpty || b.inh || b.yielded || b.canRun then s else s.deliverD (.beam w n)) s else s) s

/-- Events that arise by themselves: every row without an encoding but ILLEGAL_INSTRUCTION, which an issue raises. -/
def arises : Instr → Bool
  | .powerOn _ => true | .pcieHotReset _ => true | .linkDown _ => true | .functionLevelReset _ => true
  | .serviceFunctionLevelReset => true | .resetctlRst _ => true | .registerWrite _ _ _ _ => true | .lqcfgWrite _ _ => true
  | .lqbaseWrite _ _ _ => true | .lqtailWrite _ _ => true | .mbtailWrite _ _ => true | .mbcfgWrite _ _ => true
  | .msixUnmask _ _ => true | .hostBar2Write _ _ _ => true | .hostBar2Read _ _ => true | .status _ => true | .attest _ => true
  | .fwload _ => true | .measext _ => true | .domain _ => true | .ctxtable _ => true | .ctxreload _ => true | .svcdone _ => true
  | .tlbinv _ => true | .lodestar _ => true | .lodestarUpdate => true | .pmcsel _ => true | .errreport _ => true
  | .errclear _ => true | .errthresh _ => true | .wick _ => true | .watchdog _ => true | .qos _ => true | .quiesce _ _ => true
  | .powercap _ => true | .patrol _ => true | .patrolRead _ => true | .thermalStop _ => true | .operatingPointChange _ _ => true
  | .ageingMonitorReport _ => true | .systemAccessTimeout _ _ => true | .launchRecordTake => true | .workgroupDispatch => true
  | .workgroupStart _ => true | .preemptionDeadline _ => true | .saveRecordWrite _ => true | .launchComplete _ => true
  | .resultWriteback _ _ => true | .splitGatherArrival _ _ _ => true | .sectionRequestArrival _ => true
  | .sectionRetryArrival _ => true | .cancelArrival _ => true | .sectionStart _ => true | .sectionStepLimit _ => true
  | .sectionResultArrival _ => true | .nackArrival _ => true | .nackRetryTimer _ => true | .wakeArrival _ => true
  | .matrixStep _ => true | .copyCommandRun _ _ _ => true | .engineFaultDelivery _ => true | .wickRefillWindow _ => true
  | .qosBudgetWindow _ => true | .stallHintRaise _ => true | .stallHintClear _ => true | .pauseExpiry _ => true
  | .regWaitExpiry _ => true | .barrierStallExpiry _ _ => true | .pauseLoopExpiry _ => true | .faultRecordFlush _ => true
  | .powerRemoved => true | .writePerformed _ _ => true | .fabricMemoryRequest _ => true | .mailboxUnknown _ => true
  | _ => false

/-! ## Two ports in one clock (R159, R306, R377) -/

/-- Whether the instruction at an address is one that accesses memory (opcodes 0x39, 0x3A, which are `mld` and `mst`, and 0x40 to 0x57): of
two such accesses of one clock the move decides which comes first (log entry 1). -/
def State.memoryAt (s : State) (a : Agent) (pc : Nat) : Bool :=
  match s.opcodeAt a pc with
  | some op => op == 0x39 || op == 0x3A || (decide (0x40 ≤ op) && decide (op ≤ 0x57))
  | none => false

/-- Whether the primary port's instruction is `ext.acq` and the second's is `ext.rel`, whose effect then comes first (R203). -/
def State.releasesFirst (s : State) (a : Agent) (pc pc' : Nat) : Bool :=
  let is := fun (pc sub : Nat) => (s.baseWord a pc).any fun w => bits w 24 7 == 31 && bits w 21 3 == sub
  is pc 1 && is pc' 2

/-- Whether an issue of a beam has ended in its handler, or has ended its workgroup (R159, R161). -/
def State.stoppedFrom (s0 s : State) (a : Agent) : Bool :=
  match s0.beam? a, s.beam? a with
  | some b0, some b => b.inh && !b0.inh
  | some _, none => true
  | none, _ => false

/-- Whether an issue has ended its workgroup although a handler would have taken a cause: it was `exit.fault` (R161, R169). -/
def State.leftFrom (s0 s : State) (a : Agent) : Bool :=
  (s0.beam? a).isSome && (s.beam? a).isNone && match a with
    | .beam w _ => ((s0.wg? w).map fun g => g.trapvec != 0).getD false
    | .lantern _ => false

/-! ## Placing an instruction where the next fetch reads it -/

/-- The launch record of a placed instruction: one workgroup of one beam of width 8 (log entry 28). -/
def placedRecord : LaunchRec where
  ctx := 0
  prio := 0
  moment := true
  strict := false
  dies := 1
  width := 8
  rf := 4
  sp := 1
  acc := 1
  roles := false
  copies := 0
  epilogues := 0
  regs := [(64, 64), (0, 0), (0, 0)]
  threads := 8
  gx := 1
  gy := 1
  gz := 1
  lid := 1
  entry := 0x10000
  trapvec := 0x20000
  args := 0
  compl := 0

/-- A translation of the first GiB of a context's addresses to the first GiB of view I, readable, writable and executable. -/
def placedPage : TlbEntry := ⟨0, 0, 3, 0x1F⟩

/-- The instruction's two words stand at a fresh launch's entry, its workgroup is resident on core 0, and the next move is its issue
(log entry 28). -/
def State.placeWords (s : State) (w0 w1 : Nat) : State :=
  let k := s.nextLaunch
  let w := wgKey k 0
  let l := { newLaunch placedRecord 0 0 [] [] none RSet.empty false with eligible := some s.eligibleCount, nextWg := 1 }
  let g := { placedRecord.wg k 0 0 s.dispatchCount RSet.empty (fun _ => 0) with status := .resident }
  let code := (cellLoc placedRecord.entry).getD 0
  let put := fun (s : State) (loc w : Nat) => s.setCell loc (CW.make (.ofNat 32 w)) none
  let s := put (put s code w0) (code + 4) w1
  { (s.modCore 0 fun c => { c with tlb := placedPage :: c.tlb }) with
    launches := smSet s.launches k l
    nextLaunch := k + 1
    eligibleCount := s.eligibleCount + 1
    wgs := smSet s.wgs w g
    dispatchCount := s.dispatchCount + 1
    agenda := [.issue 0 0 (s.wgs.flatMap fun (k, g) => g.beams.map fun (n, _) => (k, n)) 0 false]
    cur := none
    mod := { s.mod with status := 1 } }

end Sys2Proof.Machine
end

