-- ==== Sys2Proof/Machine/Turn.lean ====
section
/-!
DEFINITION. Sys2Proof/Machine/Turn.lean: what a step of the machine may be: a port issues an entry, both ports of a beam issue in one clock
(spec R159, R377), a section issues, or another move is made; and which move comes next (R35; log entry 1).
-/

namespace Sys2Proof.Machine

noncomputable section

/-! ## An issue -/

/-- Instructions that order a later read of their thread after something before it: acquires, fences, barriers and waits (R278). A thread's
reads that took effect ahead of its turn do not outlive them. -/
def synchronises : Instr → Bool
  | .ldAcq _ _ _ _ _ _ => true
  | .fence _ _ => true
  | .xfence _ _ _ => true
  | .atombAdd _ _ _ _ o _ => o != 0
  | .atomAdd _ _ _ _ o _ => o != 0
  | .atomMin _ _ _ _ o _ => o != 0
  | .atomMax _ _ _ _ o _ => o != 0
  | .atomAnd _ _ _ _ o _ => o != 0
  | .atomOr _ _ _ _ o _ => o != 0
  | .atomXor _ _ _ _ o _ => o != 0
  | .atomExch _ _ _ _ o _ => o != 0
  | .atomCas _ _ _ _ o _ => o != 0
  | .shipW _ _ _ _ _ => true
  | .tkwait _ _ _ => true
  | .pfwait _ _ => true
  | .pftest _ _ _ => true
  | .barWg _ => true
  | .barCon _ _ => true
  | .tktWait _ _ => true
  | _ => false

/-- Run a decoded instruction for its issue. -/
def State.runInstr (s : State) (a : Agent) (i : Instr) (second : Bool) : Host.Outcome State Fault Refusal :=
  let s := s.holding i
  match exec i s with
  | .next t =>
    let t := s.issued t a i second
    .next (if synchronises i then t.forgetEarly a ((s.cur.map (·.lanes)).getD 0) else t)
  | .fault r => .fault r
  | .refused r => .refused r

/-- The words that were fetched are decoded and run; words that are no instruction raise their cause (R91, R101). -/
def State.runWords (s : State) (a : Agent) (ws : List Nat) (second : Bool) : Host.Outcome State Fault Refusal :=
  match decodeWords ws with
  | .ok (i, _) => s.runInstr a i second
  | .error .illegalPrefix => match s.refuseWord causePrefix with
    | some t => .next t
    | none => .fault .noIssue
  | .error _ => execIllegalInstruction s

/-- A port issues an entry: its instruction is fetched, decoded and run. -/
def State.issueEntry (s : State) (a : Agent) (e : Entry) (second : Bool) (old : Nat) (view : Option Beam) :
    Host.Outcome State Fault Refusal :=
  match s.fetch a e.pc old with
  | (.words ws, s) => (s.begin_ a e ws.length ws view).runWords a ws second
  | (x, s) => .next (s.fetchStop a e x view)

/-- Both ports of a beam issue in one clock (R24, R147, R159, R179, R203, R306, R425; log entry 1). Each sees the registers as the clock
began. Where both meet a cause that a handler takes, the primary port's is taken, and where only one does, the other port's instruction
completes and the trap follows it; otherwise the primary port's effects come first, and the second port's stand where both write one
register. An `ext.rel` comes before the other port's `ext.acq`, and of two memory accesses either may come first. -/
def State.coIssue (s : State) (a : Agent) (b : Beam) (e e' : Entry) (old : Nat) (swap : Bool) : Host.Outcome State Fault Refusal :=
  let second := fun (t : State) (v : Option Beam) => t.issueEntry a e' true (old / 4) v
  let first := fun (t : State) (v : Option Beam) => t.issueEntry a e false old v
  match first s none, second s none with
  | .next t1, .next t2 =>
    if s.stoppedFrom t1 a then
      if s.stoppedFrom t2 a then .next (if s.leftFrom t2 a then t2 else t1) else first t2 (some b)
    else if ((swap && s.memoryAt a e.pc && s.memoryAt a e'.pc) || s.releasesFirst a e.pc e'.pc) && !s.stoppedFrom t2 a then
      first t2 (some b)
    else second t1 (some b)
  | .next _, x => x
  | x, _ => x

/-- A beam's turn: what is delivered in place of the primary port's issue, or the issues of its ports (R163, R377). -/
def State.ports (s : State) (a : Agent) (old : Nat) (swap : Bool) : Host.Outcome State Fault Refusal :=
  match s.boundary a, s.beam? a with
  | some t, _ => .next t
  | none, none => .next s
  | none, some b => match b.ports with
    | (none, _) => .next s
    | (some e, none) => s.issueEntry a e false old none
    | (some e, some e') => s.coIssue a b e e' old swap

/-- A clock of a quarter: the beam it chooses has its turn (R377). -/
def State.quarterTurn (s : State) (core q : Nat) (busy : List (Nat × Nat)) (old : Nat) (swap : Bool) : Host.Outcome State Fault Refusal :=
  match s.chosen core q busy with
  | (some a, s) => s.ports a old swap
  | (none, s) => .next s

/-- A clock of a lantern core: its section's step limit, or the issue of its next instruction; a section whose end waits for its count word
alone tries that again (R401, R404, R405). -/
def State.sectionTurn (s : State) (n old : Nat) : Host.Outcome State Fault Refusal :=
  let a := Agent.lantern n
  match s.section? n with
  | none => .next s
  | some r => match r.ending with
    | some (status, count, res) => .next (if s.ready && r.wait.isEmpty then s.closeSection n status count res else s)
    | none =>
      if !s.mayIssue a then .next s
      else if s.spent a then execSectionStepLimit n s
      else match r.beam.entry? false with
        | none => .next s
        | some e => s.issueEntry a e false old none

/-! ## Moves -/

/-- Make one move. -/
def State.move (s : State) : Move → Host.Outcome State Fault Refusal
  | .issue core q busy old swap => s.quarterTurn core q busy old swap
  | .lantern n old => s.sectionTurn n old
  | .event i => if arises i then exec i s else .next s
  | .evict core line => .next (s.evictLine core line)
  | .glance a l loc wide => .next (s.glance a l loc wide)
  | .take a va => .next (s.takeEarly a va)
  | .pool w i => .next (s.poolPerform w i)
  | .foreign r => .next (s.foreign r)
  | .abroad i c => .next (s.abroad i c)
  | .finish => .next s.finishTask
  | .tick island => .next (s.tick island)
  | .route module up => .next (s.route module up)

/-! ## What is pending (R35; log entry 1) -/

/-- The event that carries a message on; a request held for redispatch waits for that. -/
def Msg.next (i : Nat) : Msg → List Instr
  | .request n _ => [if n < 128 then .sectionRequestArrival i else .sectionResultArrival i]
  | .retry n _ _ _ => [if n < 128 then .sectionRetryArrival i else .sectionResultArrival i]
  | .nack _ _ _ _ => [.nackArrival i]
  | .backoff _ _ _ _ => [.nackRetryTimer i]
  | .wake _ _ => [.wakeArrival i]
  | .cancel _ _ => [.cancelArrival i]
  | .held _ _ => []
  | .result _ _ _ _ _ => [.sectionResultArrival i]

/-- What is pending of a beam: results, far words of parked gathers, watchdogs, accesses that no module answers. -/
def Beam.pending (b : Beam) (a : Agent) : List Instr :=
  (b.outstanding.map fun _ => .resultWriteback a 0)
    ++ (b.parked.flatMap fun (i, r) => match r.cause with
        | .split far _ _ => far.map fun x => .splitGatherArrival a i x.1
        | _ => [])
    ++ [.systemAccessTimeout a (2 ^ b.width - 1), .regWaitExpiry a, .pauseLoopExpiry a]
    ++ (List.range b.frontier.length).map fun e => .barrierStallExpiry a e

/-- What is pending of a workgroup. -/
def Wg.pending (g : Wg) (w : Nat) : List Move :=
  match g.status with
  | .queued => [.event (.workgroupStart w)]
  | .resident =>
    (g.pool.map fun _ => .pool w 0) ++ (g.beams.flatMap fun (n, b) => b.pending (.beam w n)).map .event
      ++ (if g.preempting then [.event (.preemptionDeadline w)] else [])
      ++ (if g.deadline || g.yieldedAll then [.event (.saveRecordWrite w)] else [])
  | _ => []

/-- What is pending of a core: writes under way, steps of its engines, turns of its quarters. -/
def Core.pending (k : Core) (c : Nat) (turns : Bool) : List Move :=
  (k.flights.map fun _ => .event (.writePerformed c 0))
    ++ (if k.matrixQ.any fun q => !q.isEmpty then [.event (.matrixStep c)] else [])
    ++ ((List.range 4).filter fun q => !(k.copyQ.getD q []).isEmpty).map (fun q => .event (.copyCommandRun c q 1))
    ++ (if turns then (List.range 4).map fun q => .issue c q [] 0 false else [])

/-- What is pending of a lantern core. -/
def Lantern.pending (l : Lantern) (n : Nat) : List Move :=
  match l.running, l.queue with
  | some r, _ => .lantern n 0 :: r.beam.outstanding.map fun _ => .event (.resultWriteback (.lantern n) 0)
  | none, _ :: _ => [.event (.sectionStart n)]
  | none, [] => []

/-- Every move that something in the machine waits for. -/
def State.pending (s : State) : List Move :=
  (s.cores.mapIdx fun c k => k.pending c (s.wgs.any fun (_, g) => g.core == c && g.status == .resident)).flatten
    ++ (s.wgs.flatMap fun (w, g) => g.pending w)
    ++ ((s.msgs.mapIdx fun i m => m.next i).flatten.reverse.map .event)
    ++ (s.lanterns.mapIdx fun n l => l.pending n).flatten
    ++ (s.launches.map fun (k, _) => .event (.launchComplete k))
    ++ [.event .launchRecordTake, .event .workgroupDispatch]
    ++ ((s.dies.flatMap fun d => d.holding ++ d.stalled).map fun (c, _) => .event (.faultRecordFlush c))
    ++ (match s.mod.task with
      | some _ => [.finish]
      | none => [])
    ++ (List.range s.islands.length).map .tick

/-- The next move and the state that has taken it: the agenda's first; where the agenda is empty, the one that the order of simultaneous
events gives; and after `Config.patience` of those, everything that is pending has its turn (R35; log entry 1). -/
def State.nextMove (s : State) : Move × State :=
  let took := { s with moves := s.moves + 1, cur := none }
  match s.agenda with
  | m :: rest => (m, { took with agenda := rest })
  | [] => match s.sweep with
    | n + 1 => (Config.schedule s.moves, { took with sweep := n })
    | 0 => match s.pending with
      | m :: rest => (m, { took with agenda := rest, sweep := Config.patience s.moves + 1 })
      | [] => (Config.schedule s.moves, took)

end

end Sys2Proof.Machine
end

