-- ==== Sys2Proof/Machine/Step.lean ====
section
/-!
DEFINITION. Sys2Proof/Machine/Step.lean: one step of the machine (log entry 1).
-/

namespace Sys2Proof.Machine

noncomputable section

/-- One step. -/
def step (s : State) : Host.Outcome State Fault Refusal :=
  match s.nextMove with
  | (m, s) => match s.move m with
    | .next t => .next { t.settle with cur := none }
    | .fault r => .fault r
    | .refused r => .refused r

/-- The state in which the next step runs the instruction whose bits are `w` (log entry 28). -/
def State.withFetchWord (s : State) (nbits w : Nat) : State :=
  let b := w % 2 ^ nbits
  s.placeWords (b % 2 ^ 32) (b / 2 ^ 32 % 2 ^ 32)

end

end Sys2Proof.Machine
end

