-- ==== Sys2Proof/Safety.lean ====
section
/-!
DEFINITION. Sys2Proof/Safety.lean: the words that statements about this machine are made of: what it means for an instruction to run,
to go on, to change nothing else.
-/

namespace Sys2Proof.Machine

/-! ## Memory -/

/-- The latest write of core `c`'s threads in flight to the word at `x`, or else the word at home (R270, R272). -/
def State.sentWord (s : State) (c x : Nat) : CW :=
  match ((s.core c).flights.filter fun f => f.loc == x && f.path == 0).getLast? with
  | some f => f.word
  | none => s.homeWord x

/-- What a plain load of the word at `x` would give core `c`: its cached line's word, else its threads' latest write in flight, else the word
at home (R249, R270, R272). -/
def State.coreWord (s : State) (c x : Nat) : CW :=
  match smGet? (s.core c).lines (x / 64) with
  | some l => l.words.getD (x % 64 / 4) .zero
  | none => s.sentWord c x

/-- What an access of core `c` that goes past its cache finds at the word: its dirty word, which goes home first, else what its threads have
sent (R272). -/
def State.pastCache (s : State) (c x : Nat) : CW :=
  if ((smGet? (s.core c).lines (x / 64)).bind fun l => smGet? l.dirty (x % 64 / 4)).isSome then s.coreWord c x else s.sentWord c x

/-- Every word, its four bytes and its check code, reads in `t` as it reads in `s`: at its home point (its slice, its stack, or a switch
slice) and for each core. -/
def State.SameMemory (s t : State) : Prop :=
  ∀ x, x % 4 = 0 → t.homeWord x = s.homeWord x ∧ ∀ c, t.coreWord c x = s.coreWord c x

/-- A core's lines are listed in rising order, and so are the dirty words of each, by their numbers below 16. -/
def Core.LinesWf (k : Core) : Prop :=
  smSorted k.lines = true ∧ ∀ e ∈ k.lines, smSorted e.2.dirty = true ∧ ∀ d ∈ e.2.dirty, d.1 < 16

/-- The workgroups that wrote the word at `y`, or another with which it goes home (R271), where a core's cache holds it dirty (R252,
R286). -/
def State.dirtyBy (s : State) (c y : Nat) : Option (List Nat) :=
  (smGet? (s.core c).lines (y / 64)).bind fun l => (smGet? l.dirty (y % 64 / 4)).map fun d => l.makers (y % 64 / 4) d.1

/-- From `s` to `t` the words that core `c` held dirty have gone home, where `which` takes them by their locations and writers; at every
other word the home point is as it was (R285). -/
def State.Homes (s t : State) (c : Nat) (which : Nat → List Nat → Bool) : Prop :=
  ∀ y, y % 4 = 0 → s.resolve y = y →
    t.homeWord y = if ((s.dirtyBy c y).map (which y)).getD false then s.coreWord c y else s.homeWord y

/-- Memory stands in its canonical form (`Mem.wf`): the stacks' words, and those of the lines that slices hold dirty. -/
def State.MemWf (s : State) : Prop := s.mem.wf = true ∧ s.l2mem.wf = true

/-! ## Where lanes stand -/

/-- Lane `l` stands at address `pc` in an entry of this kind (R422). -/
def Stands (fr : List Entry) (l pc : Nat) (k : EntryKind) : Prop :=
  ∃ e ∈ fr, e.lanes.testBit l = true ∧ e.pc = pc ∧ e.kind = k

/-- The lanes of a mask now stand at `pc`, runnable, and every other lane stands where it stood. -/
def Advanced (fr fr' : List Entry) (lanes pc : Nat) : Prop :=
  ∀ l p k, Stands fr' l p k ↔
    (lanes.testBit l = true ∧ p = pc % 2 ^ 72 ∧ k = .runnable) ∨ (lanes.testBit l = false ∧ Stands fr l p k)

/-- Every lane stands where it stood. -/
def SameStands (fr fr' : List Entry) : Prop := ∀ l p k, Stands fr' l p k ↔ Stands fr l p k

/-! ## Running an instruction -/

/-- The state is `s` but for corrected words, and clamped variances, counted at a core (R71, R469). -/
inductive State.Counted (core : Nat) (s : State) : State → Prop where
  | same : State.Counted core s s
  | more {u : State} (n k : Nat) : State.Counted core s u → State.Counted core s (u.charge (.core core) n 0 k)

/-- An instruction is being issued with these modifiers: the issue is `f`, its beam stands as it stood when the clock began (R147), some lane
of its path is active, and no result is outstanding that R82 would report (a section has none, R404). -/
structure Frame.Ready (f : Frame) (s : State) (m : Mods) : Prop where
  frame : s.frame? m = some f
  here : s.beam? f.a = some f.b
  active : f.active ≠ 0
  calm : f.lantern = true ∨ f.b.hck = false ∨ f.b.outstanding = []

/-- The instruction completes on its whole path: `t` is `s` but for counted corrections and the beam that issues, which has become `b`
but for where its lanes stand and its latch; the path's lanes stand after the instruction, and memory is as it was. -/
def Frame.GoesOn (f : Frame) (s t : State) (b : Beam) : Prop :=
  ∃ u fr kept latch, State.Counted f.pl.core s u ∧
    t = u.setBeam f.a { b with frontier := fr, kept := kept, latch := latch } ∧
    Advanced b.frontier fr f.i.lanes f.i.next ∧
    kept.isSome = b.kept.isSome ∧ SameStands (b.kept.getD []) (kept.getD []) ∧
    s.SameMemory t

/-- The beam after an instruction's register writes: at once, or, where it is of variable latency and a workgroup issues it, as
outstanding results for the lanes of their writes (R79, R84). -/
def Frame.wrote (f : Frame) (late : Bool) (ws : List RegWrite) : Beam :=
  if late && !f.lantern then
    { f.b with outstanding := f.b.outstanding ++ ws.map fun w => ⟨w, w.lanes f.i.lanes⟩ }
  else f.b.writes ws

/-- `i` answers a next state in which it has written exactly these registers and gone on. -/
def Frame.Completes (f : Frame) (s : State) (i : Instr) (late : Bool) (ws : List RegWrite) : Prop :=
  ∃ t, exec i s = .next t ∧ f.GoesOn s t (f.wrote late ws)

/-- The V registers of operands lie in the allocation (R92). -/
def Frame.Fits (f : Frame) (os : List Opnd) : Prop := ∀ o ∈ os, f.inBounds o = true

/-- Every active lane reads these operands as these numbers, in their order, their words checked (R132, R267). -/
def Frame.Reads (f : Frame) (os : List Opnd) (x : Nat → List Nat) : Prop :=
  ∀ l ∈ f.lanes, os.map (f.value l) = (x l).map some

/-- `i` answers a next state in which it has had its effect `g` on the state, counted corrections aside, the beam that issues has become
`b` but for its latch, and each of the path's lanes stands where `dest` says, every other lane where it stood. -/
def Frame.DoesTo (f : Frame) (s : State) (i : Instr) (g : State → State) (b : Beam) (dest : Nat → Nat × EntryKind) : Prop :=
  ∃ u v fr kept latch, State.Counted f.pl.core s u ∧ State.Counted f.pl.core (g u) v ∧
    exec i s = .next (v.setBeam f.a { b with frontier := fr, kept := kept, latch := latch }) ∧
    (∀ l p k, Stands fr l p k ↔ if f.i.lanes.testBit l then (p, k) = dest l else Stands b.frontier l p k) ∧
    kept.isSome = b.kept.isSome ∧ SameStands (b.kept.getD []) (kept.getD [])

/-- `i` has its effect and the path goes on to the next instruction. -/
def Frame.Does (f : Frame) (s : State) (i : Instr) (g : State → State) (b : Beam) : Prop :=
  f.DoesTo s i g b fun _ => (f.i.next % 2 ^ 72, .runnable)

/-- `i` has its effect and the path's lanes wait at the instruction. -/
def Frame.Waits (f : Frame) (s : State) (i : Instr) (g : State → State) (b : Beam) (k : EntryKind) : Prop :=
  f.DoesTo s i g b fun _ => (f.i.pc, k)

/-! ## The shapes of instructions that only write registers -/

/-- `i` reads `src` in each active lane and writes `val` of what that lane reads to its `dst`; Z zeroes the path's other lanes (R88,
R91). -/
def LaneForm (i : Instr) (m : Mods) (src : Frame → List Opnd) (dst : Opnd) (late : Bool)
    (val : State → Frame → Nat → List Nat → Nat) : Prop :=
  ∀ (s : State) (f : Frame) (x : Nat → List Nat), f.Ready s m → f.Fits (src f ++ [dst]) → f.Reads (src f) x →
    f.Completes s i late ((f.lanes.flatMap fun l => f.put l dst (val s f l (x l))) ++ f.zeroes dst)

/-- `i` has an S-class destination: x0 to x3 take each active lane's result, any other name the elected lane's (R94, R178). -/
def ScalarForm (i : Instr) (m : Mods) (src : Frame → List Opnd) (d : Nat) (late : Bool) (val : List Nat → Nat) : Prop :=
  ∀ (s : State) (f : Frame) (x : Nat → List Nat), f.Ready s m → f.Fits (src f) → f.Reads (src f) x →
    f.Completes s i late
      (if isX d then (f.lanes.flatMap fun l => f.put l (.s d) (val (x l))) ++ f.zeroes (.s d)
       else f.put f.elected (.s d) (val (x f.elected)))

/-- `i` sets the bit of each active lane in k`d` to the truth of a test of what the lane reads; the other bits stay, those at or
above the width are 0, and k0 takes nothing (R93, R183). -/
def MaskForm (i : Instr) (m : Mods) (src : Frame → List Opnd) (d : Nat) (test : Frame → List Nat → Bool) : Prop :=
  ∀ (s : State) (f : Frame) (x : Nat → List Nat), f.Ready s m → f.Fits (src f) → f.Reads (src f) x →
    f.Completes s i false
      (if d = 0 then [] else
        [.k d (mkK f.b.width (maskSub (f.b.kreg d).v.toNat (maskOf f.lanes) |||
          (maskOf (f.lanes.filter fun l => test f (x l)) &&& maskOf f.lanes)))])

/-! Values of one and of two and of three operands of `w` bits. -/

def int1 (w : Nat) (g : BitVec w → BitVec w) (_ : State) (_ : Frame) (_ : Nat) (v : List Nat) : Nat :=
  (g (.ofNat w (v.getD 0 0))).toNat
def int2 (w : Nat) (g : BitVec w → BitVec w → BitVec w) (_ : State) (_ : Frame) (_ : Nat) (v : List Nat) : Nat :=
  (g (.ofNat w (v.getD 0 0)) (.ofNat w (v.getD 1 0))).toNat
def int3 (w : Nat) (g : BitVec w → BitVec w → BitVec w → BitVec w) (_ : State) (_ : Frame) (_ : Nat) (v : List Nat) : Nat :=
  (g (.ofNat w (v.getD 0 0)) (.ofNat w (v.getD 1 0)) (.ofNat w (v.getD 2 0))).toNat

/-- a / b rounded toward zero; all ones for b = 0 (R181). -/
def divSigned {w : Nat} (a b : BitVec w) : BitVec w := if b = 0 then .allOnes w else .ofInt w (a.toInt.tdiv b.toInt)

/-- Integer instructions on lanes of `w` bits with two sources, with one, and with the fourth operand as third source (R89). -/
def IntLane2 (w : Nat) (late : Bool) (mk : Mods → BitVec 7 → BitVec 7 → BitVec 7 → Instr) (g : BitVec w → BitVec w → BitVec w) :
    Prop :=
  ∀ m d a b, LaneForm (mk m d a b) m (fun _ => [.v a.toNat (w / 32), .v b.toNat (w / 32)]) (.v d.toNat (w / 32)) late (int2 w g)
def IntLane1 (w : Nat) (mk : Mods → BitVec 7 → BitVec 7 → Instr) (g : BitVec w → BitVec w) : Prop :=
  ∀ m d a, LaneForm (mk m d a) m (fun _ => [.v a.toNat (w / 32)]) (.v d.toNat (w / 32)) false (int1 w g)
def IntLane3 (w : Nat) (mk : Mods → BitVec 7 → BitVec 7 → BitVec 7 → Instr) (g : BitVec w → BitVec w → BitVec w → BitVec w) :
    Prop :=
  ∀ m d a b, LaneForm (mk m d a b) m (fun f => [.v a.toNat (w / 32), .v b.toNat (w / 32), .v (f.c d.toNat) (w / 32)])
    (.v d.toNat (w / 32)) false (int3 w g)

/-- The scalar forms: bits [63:0] of S-class sources, the result sign-extended into [71:64] (R93, R178). -/
def IntScalar2 (late : Bool) (mk : Mods → BitVec 7 → BitVec 7 → BitVec 7 → Instr)
    (g : BitVec 64 → BitVec 64 → BitVec 64) : Prop :=
  ∀ m d a b, ScalarForm (mk m d a b) m (fun _ => [.s a.toNat, .s b.toNat]) d.toNat late fun v =>
    ((g (.ofNat 64 (v.getD 0 0)) (.ofNat 64 (v.getD 1 0))).signExtend 72).toNat
def IntScalar1 (mk : Mods → BitVec 7 → BitVec 7 → Instr) (g : BitVec 64 → BitVec 64) : Prop :=
  ∀ m d a, ScalarForm (mk m d a) m (fun _ => [.s a.toNat]) d.toNat false fun v =>
    ((g (.ofNat 64 (v.getD 0 0))).signExtend 72).toNat
def IntScalar3 (mk : Mods → BitVec 7 → BitVec 7 → BitVec 7 → Instr) (g : BitVec 64 → BitVec 64 → BitVec 64 → BitVec 64) : Prop :=
  ∀ m d a b, ScalarForm (mk m d a b) m (fun f => [.s a.toNat, .s b.toNat, .s (f.c d.toNat)]) d.toNat false fun v =>
    ((g (.ofNat 64 (v.getD 0 0)) (.ofNat 64 (v.getD 1 0)) (.ofNat 64 (v.getD 2 0))).signExtend 72).toNat

/-- Compares of two V operands of `w` bits, and of two S-class operands. -/
def IntCmp (w : Nat) (mk : Mods → BitVec 3 → BitVec 7 → BitVec 7 → Instr) (t : BitVec w → BitVec w → Bool) : Prop :=
  ∀ m d a b, MaskForm (mk m d a b) m (fun _ => [.v a.toNat (w / 32), .v b.toNat (w / 32)]) d.toNat fun _ v =>
    t (.ofNat w (v.getD 0 0)) (.ofNat w (v.getD 1 0))
def ScalarCmp (mk : Mods → BitVec 3 → BitVec 7 → BitVec 7 → Instr) (t : BitVec 64 → BitVec 64 → Bool) : Prop :=
  ∀ m d a b, MaskForm (mk m d a b) m (fun _ => [.s a.toNat, .s b.toNat]) d.toNat fun _ v =>
    t (.ofNat 64 (v.getD 0 0)) (.ofNat 64 (v.getD 1 0))

/-- `i` combines the words of registers `regs` over the participants, the active lanes in rising order: each receives `val` of the
participants and their words (R193). -/
def CrossForm (i : Instr) (m : Mods) (regs : List Nat) (d : Nat) (val : CrossIn → Nat → Nat) : Prop :=
  ∀ (s : State) (f : Frame) (x : Nat → List Nat), f.Ready s m → f.Fits ((regs ++ [d]).map (Opnd.v · 1)) →
    f.Reads (regs.map (Opnd.v · 1)) x →
    f.Completes s i false
      ((f.lanes.flatMap fun l => f.put l (.v d 1) (val ⟨f.lanes, fun j l => (x l).getD j 0, [], 0, 0⟩ l)) ++
        f.zeroes (.v d 1))

/-- Floating-point instructions on lanes: each element of an operand of type `t`, under the issue's mode and FTZ (R44, R205). -/
def FloatLane2 (t : FTy) (late : Bool) (mk : Mods → BitVec 7 → BitVec 7 → BitVec 7 → Instr) (g : FEnv → Nat → Nat → Nat) : Prop :=
  ∀ m d a b, LaneForm (mk m d a b) m (fun _ => [.v a.toNat t.regs, .v b.toNat t.regs]) (.v d.toNat t.regs) late fun _ f _ v =>
    t.each (fun e => g f.fenv (e.getD 0 0) (e.getD 1 0)) v
def FloatLane1 (t : FTy) (late : Bool) (mk : Mods → BitVec 7 → BitVec 7 → Instr) (g : FEnv → Nat → Nat) : Prop :=
  ∀ m d a, LaneForm (mk m d a) m (fun _ => [.v a.toNat t.regs]) (.v d.toNat t.regs) late fun _ f _ v =>
    t.each (fun e => g f.fenv (e.getD 0 0)) v
def FloatLane3 (t : FTy) (mk : Mods → BitVec 7 → BitVec 7 → BitVec 7 → Instr) (g : FEnv → Nat → Nat → Nat → Nat) : Prop :=
  ∀ m d a b, LaneForm (mk m d a b) m (fun f => [.v a.toNat t.regs, .v b.toNat t.regs, .v (f.c d.toNat) t.regs]) (.v d.toNat t.regs)
    false fun _ f _ v => t.each (fun e => g f.fenv (e.getD 0 0) (e.getD 1 0) (e.getD 2 0)) v

/-! ## Exact values and their rounding (R40 to R44) -/

/-- The magnitude that an encoding without its sign stands for, infinity's counted as the next power of two after the largest finite one
(R40). -/
def IFmt.mag (f : IFmt) (b : Nat) : ℚ :=
  ((b % 2 ^ f.mbits + if b / 2 ^ f.mbits = 0 then 0 else 2 ^ f.mbits : ℕ) : ℚ) *
    (2 : ℚ) ^ (f.qmin + (max (b / 2 ^ f.mbits) 1 : ℕ) - 1 : ℤ)

/-- The number that an exact value is, 0 for a special one. -/
def FVal.rat : FVal → ℚ
  | .fin neg n d => (if neg then -1 else 1) * ((n : ℚ) / d)
  | _ => 0

/-- A zero, or a finite number with a positive magnitude. -/
def FVal.Proper : FVal → Prop
  | .fin _ n d => 0 < n ∧ 0 < d
  | .zero _ => True
  | _ => False

/-- `b` is the encoding, without a sign, that a positive number of this sign rounds to in a mode (R44): `le c` says that it is at least the
magnitude of c, `lt c` that it is more, and `near b c` that it is no nearer to c's than to b's. -/
def IFmt.Rounds (f : IFmt) (m : RMode) (neg : Bool) (b : Nat) (le lt : Nat → Prop) (near tie : Nat → Prop) : Prop :=
  b ≤ f.infBits ∧
  match m with
  | .rtz => b < f.infBits ∧ le b ∧ ∀ c < f.infBits, le c → c ≤ b
  | .rup => if neg then b < f.infBits ∧ le b ∧ ∀ c < f.infBits, le c → c ≤ b
      else (b < f.infBits → ¬ lt b) ∧ ∀ c < b, lt c
  | .rdn => if neg then (b < f.infBits → ¬ lt b) ∧ ∀ c < b, lt c
      else b < f.infBits ∧ le b ∧ ∀ c < f.infBits, le c → c ≤ b
  | .rne => ∀ c ≤ f.infBits, near c ∧ (tie c → c = b ∨ b % 2 = 0)
  | .rna => ∀ c ≤ f.infBits, near c ∧ (tie c → c = b ∨ c < b)

/-! ## Memory as a core sees it -/

/-- `n` words at home from `loc`. -/
def State.homeRange (s : State) (loc n : Nat) : List CW := (List.range n).map fun i => s.homeWord (loc + 4 * i)

/-- An access of this kind to `va` reaches page `p`: a TLB that serves the core holds a leaf for it that allows it (R259, R260). -/
def State.Maps (s : State) (core ctx : Nat) (acc : Access) (va : Nat) (p : Page) : Prop :=
  ∃ t, (if isLantern core then (s.die (dieOfCore core)).tlb else (s.core core).tlb).find? (·.covers ctx (va % 2 ^ 72)) = some t ∧
    t.allows acc = true ∧ p = t.page (va % 2 ^ 72) ∧
    (isSystem p.loc = true → moduleOf p.loc < s.mod.domain ∧ s.mod.silent.contains (moduleOf p.loc) = false)

/-- The issuing core's cache holds no line, none of its writes is in flight, no read of the beam has taken effect ahead of its turn (R278),
and memory stands in its canonical form. -/
structure Frame.Quiet (f : Frame) (s : State) : Prop where
  lines : (s.core f.pl.core).lines = []
  flights : (s.core f.pl.core).flights = []
  early : ∀ x ∈ f.b.lanes, x.early = []
  wf : s.MemWf

/-- An access passes steps 2 to 4 of R302: aligned, translated, on a page that is not checked for races; and its location is not one that
this module's own cells have a second name for (R247). -/
def Frame.ReachesOne (f : Frame) (s : State) (acc : Access) (e va : Nat) (p : Page) : Prop :=
  va % e = 0 ∧ s.Maps f.pl.core f.pl.ctx acc va p ∧ p.rd = false ∧ s.resolve p.loc = p.loc

/-- Every active lane's access does. -/
def Frame.Reaches (f : Frame) (s : State) (acc : Access) (e : Nat) (va : Nat → Nat) (p : Nat → Page) : Prop :=
  ∀ l ∈ f.lanes, f.ReachesOne s acc e (va l) (p l)

/-- In `t` the beam that issues has become `b` but for where lanes stand, its latch and what race detection remembers of each lane
(R297); the path's lanes stand after the instruction; and every other beam is as it was. -/
structure Frame.Moves (f : Frame) (s t : State) (b : Beam) : Prop where
  beam : ∃ fr kept latch, ∃ (rd : Nat → List (Nat × List Stamp)) (fe : Nat → List Stamp),
    t.beam? f.a = some { b with
      frontier := fr, kept := kept, latch := latch
      lanes := b.lanes.mapIdx fun l x => { x with reads := rd l, fences := fe l } } ∧
    Advanced b.frontier fr f.i.lanes f.i.next ∧ kept.isSome = b.kept.isSome ∧ SameStands (b.kept.getD []) (kept.getD [])
  others : ∀ a, a ≠ f.a → t.beam? a = s.beam? a

/-- A load: each active lane's writes are `out` of the words at its location, all lanes' taken from memory as it stood, which the
load leaves as it was. -/
def LoadForm (i : Instr) (m : Mods) (src : List Opnd) (dst : Opnd) (e : Nat) (addr : Nat → List Nat → Nat)
    (near : Frame → Page → Prop) (out : State → Frame → Nat → Nat → List CW → Option (List RegWrite)) : Prop :=
  ∀ (s : State) (f : Frame) (x : Nat → List Nat) (p : Nat → Page) (ws : Nat → List RegWrite),
    f.Ready s m → f.Fits (src ++ [dst]) → f.Reads src x → f.Quiet s →
    f.Reaches s .load e (fun l => addr l (x l)) p → (∀ l ∈ f.lanes, near f (p l)) →
    (∀ l ∈ f.lanes, out s f l (addr l (x l)) (s.homeRange (wordLoc (p l).loc) (wordsIn e)) = some (ws l)) →
    ∃ t, exec i s = .next t ∧ f.Moves s t (f.wrote true (f.lanes.flatMap ws ++ f.zeroes dst)) ∧ s.SameMemory t

/-- Words put at a location of a view of memory. -/
def putView (v : Nat → CW) (loc : Nat) (ws : List CW) (y : Nat) : CW :=
  if loc ≤ y ∧ y < loc + 4 * ws.length then ws.getD ((y - loc) / 4) .zero else v y

/-- Lanes store one after another, in the order of the list: each puts `new` of the words it finds at its location. -/
def storeSeq (e : Nat) (loc : Nat → Nat) (new : Nat → List CW → Option (List CW)) : List Nat → (Nat → CW) → Option (Nat → CW)
  | [], v => some v
  | l :: ls, v =>
    match new l ((List.range (wordsIn e)).map fun i => v (loc l + 4 * i)) with
    | none => none
    | some ws => storeSeq e loc new ls (putView v (loc l) ws)

/-- A store: in ascending order the active lanes store to the locations their addresses reach (R301, R306). `new` gives the words a
lane leaves there, from its registers and, for a narrow store, the word it found. Every word that no lane stores to reads as before. -/
def StoreForm (i : Instr) (m : Mods) (src data : List Opnd) (e : Nat) (addr : Nat → List Nat → Nat)
    (new : State → Frame → Nat → Nat → List CW → Option (List CW)) : Prop :=
  ∀ (s : State) (f : Frame) (x : Nat → List Nat) (p : Nat → Page) (v : Nat → CW),
    f.Ready s m → f.Fits (src ++ data) → f.Reads src x → f.Quiet s →
    f.Reaches s .store e (fun l => addr l (x l)) p →
    storeSeq e (fun l => wordLoc (p l).loc) (fun l => new s f l (addr l (x l))) f.lanes (s.coreWord f.pl.core) = some v →
    ∃ t, exec i s = .next t ∧ f.Moves s t f.b.endPause ∧
      ∀ y, y % 4 = 0 → s.resolve y = y → t.coreWord f.pl.core y = v y

/-- Lanes read and write one after another: each answers its register writes and, where it writes, the words it leaves. -/
def rmwSeq (n : Nat) (loc : Nat → Nat) (step : Nat → List CW → Option (List RegWrite × Option (List CW))) :
    List Nat → (Nat → CW) → Option (List RegWrite × (Nat → CW))
  | [], v => some ([], v)
  | l :: ls, v =>
    match step l ((List.range n).map fun i => v (loc l + 4 * i)) with
    | none => none
    | some (rs, ws) =>
      (rmwSeq n loc step ls (match ws with
        | some ws => putView v (loc l) ws
        | none => v)).map fun (r, v) => (rs ++ r, v)

/-- An atomic: separate read-modify-writes in ascending lane order (R306, R320). Every word that no lane writes reads as before. -/
def AtomForm (i : Instr) (m : Mods) (src : List Opnd) (data : Frame → List Opnd) (dst : Opnd) (n : Nat)
    (addr : Nat → List Nat → Nat) (bound : List Nat → Prop)
    (step : Frame → Nat → List CW → Option (List RegWrite × Option (List CW))) : Prop :=
  ∀ (s : State) (f : Frame) (x : Nat → List Nat) (p : Nat → Page) (ws : List RegWrite) (v : Nat → CW),
    f.Ready s m → f.Fits (src ++ data f ++ [dst]) → f.Reads src x → f.Quiet s → (∀ l ∈ f.lanes, bound (x l)) →
    f.Reaches s .atomic (4 * n) (fun l => addr l (x l)) p →
    rmwSeq n (fun l => wordLoc (p l).loc) (step f) f.lanes (s.coreWord f.pl.core) = some (ws, v) →
    ∃ t, exec i s = .next t ∧ f.Moves s t (f.wrote true (ws ++ f.zeroes dst)).endPause ∧
      ∀ y, y % 4 = 0 → s.resolve y = y → t.homeWord y = v y ∧ t.coreWord f.pl.core y = v y

/-- A load of `e` bytes into V registers from `d`: whole words with their codes; a narrower value zero-extended under a fresh code,
where its word is readable (R304, R308). -/
def loadOut (d e : Nat) (_ : State) (f : Frame) (l va : Nat) (ws : List CW) : Option (List RegWrite) :=
  if e < 4 then ((lccCheck (ws.headD .zero)).data?).map fun w => f.put l (.v d 1) (w.toNat / 2 ^ (8 * (va % 4)) % 2 ^ (8 * e))
  else some (ws.mapIdx fun i w => .v l (f.b.wb + d + i) w)

/-- A store of `e` bytes of V registers from `d`: whole words with their codes; a narrower value merged into the readable word found
(R264, R304, R308). -/
def storeNew (d e : Nat) (_ : State) (f : Frame) (l va : Nat) (old : List CW) : Option (List CW) :=
  if e < 4 then
    match f.value l (.v d 1), (lccCheck (old.headD .zero)).data? with
    | some v, some w => some [CW.make (mergeWord w va e v)]
    | _, _ => none
  else some ((List.range (wordsIn e)).map fun i => f.b.vreg l (f.b.wb + d + i))

/-- Strided and indexed addresses (R301), from the base and, for the latter, the lane's offset. -/
def strided (e : Nat) (disp : Int) (l : Nat) (v : List Nat) : Nat := wrap 72 ((v.getD 0 0 : Int) + e * (disp + l))
def indexed (_ : Nat) (v : List Nat) : Nat := wrap 72 ((v.getD 0 0 : Int) + (BitVec.ofNat 32 (v.getD 1 0)).toInt)

/-- An instruction with one access for the issue that loads s`d` from the address `addr` of s`a`: it writes `out` of the words there. -/
def OnceLoad (i : Instr) (m : Mods) (d a : Nat) (e n : Nat) (addr : Nat → Nat) (out : Nat → List CW → Option SReg) : Prop :=
  ∀ (s : State) (f : Frame) (x : Nat) (p : Page) (r : SReg),
    f.Ready s m → f.value f.elected (.s a) = some x → f.Quiet s → f.ReachesOne s .load e (addr x) p →
    out (addr x) (s.homeRange (wordLoc p.loc) n) = some r →
    ∃ t, exec i s = .next t ∧ f.Moves s t (f.wrote true [.s d r]) ∧ s.SameMemory t

/-- An instruction with one access for the issue that stores `new` at the address `addr` of s`a`, from its registers and, for a narrow
store, the word it found. Every other word reads as before. -/
def OnceStore (i : Instr) (m : Mods) (a : Nat) (e n : Nat) (addr : Nat → Nat) (new : Frame → Nat → List CW → Option (List CW)) : Prop :=
  ∀ (s : State) (f : Frame) (x : Nat) (p : Page) (ws : List CW),
    f.Ready s m → f.value f.elected (.s a) = some x → f.Quiet s → f.ReachesOne s .store e (addr x) p →
    new f (addr x) (s.homeRange (wordLoc p.loc) n) = some ws →
    ∃ t, exec i s = .next t ∧ f.Moves s t f.b.endPause ∧
      ∀ y, y % 4 = 0 → s.resolve y = y → t.coreWord f.pl.core y = putView (s.coreWord f.pl.core) (wordLoc p.loc) ws y

/-- The address of a scalar access: the base and a displacement in units of the access (R301). -/
def unitAddr (e : Nat) (disp : Int) (x : Nat) : Nat := wrap 72 ((x : Int) + e * disp)

/-- A load of `e` bytes into a scalar register: a narrow value zero-extended, a wider one with its words' codes, sign-extended into [71:64]
(R311). -/
def loadScalar (e va : Nat) (ws : List CW) : Option SReg :=
  let lo := ws.headD .zero
  let hi := ws.getD 1 .zero
  if e < 4 then ((lccCheck lo).data?).map fun x => mkS (x.toNat / 2 ^ (8 * (va % 4)) % 2 ^ (8 * e))
  else
    let v := (hi.data ++ lo.data).signExtend 72
    some ⟨v, lo.code, hi.code, lccMake ((v.extractLsb' 64 8).setWidth 32)⟩

/-- A store of the low `e` bytes of s`d`: words with their codes, or a narrower value merged (R311). -/
def storeScalar (d e : Nat) (f : Frame) (va : Nat) (old : List CW) : Option (List CW) :=
  if e < 4 then
    match (lccCheck ((f.b.sreg d).words.headD .zero)).data?, (lccCheck (old.headD .zero)).data? with
    | some v, some w => some [CW.make (mergeWord w va e v.toNat)]
    | _, _ => none
  else some ((f.b.sreg d).words.take (wordsIn e))

/-! ### A core that holds lines and has writes under way (R249, R250, R272) -/

/-- As `Frame.Quiet`, but the core may hold lines and have writes in flight: its lines stand in order, of 16 words each, and its writes are of
whole words. Its accesses do not take effect at once (`beamctl.ORD` = 0). -/
structure Frame.Steady (f : Frame) (s : State) : Prop where
  early : ∀ x ∈ f.b.lanes, x.early = []
  wf : s.MemWf
  lines : (s.core f.pl.core).LinesWf
  words : ∀ e ∈ (s.core f.pl.core).lines, e.2.words.length = 16
  flights : ∀ x ∈ (s.core f.pl.core).flights, x.loc % 4 = 0
  now : f.ordered = false
  some : f.pl.core < s.cores.length

/-- Whether the core holds the line of a location. -/
def State.Holds (s : State) (core loc : Nat) : Bool := (smGet? (s.core core).lines (loc / 64)).isSome

/-- An access to `va` needs no line that the core does not hold: its page is cached, and the line is there, or its page is not, and the line is
not; and it stands in its line as in its page. -/
def Frame.NeedsNoLine (f : Frame) (s : State) (va : Nat) (p : Page) : Prop :=
  p.cached = s.Holds f.pl.core p.loc ∧ p.loc % 64 = va % 64

/-- The `n` words that a core's plain loads would give from `loc`. -/
def State.coreRange (s : State) (core loc n : Nat) : List CW := (List.range n).map fun i => s.coreWord core (loc + 4 * i)

/-- What a core's plain loads give is the same in both states; and with no write in flight, so is what stands at home. -/
def Frame.SeesSame (f : Frame) (s t : State) : Prop :=
  (∀ y, y % 4 = 0 → s.resolve y = y → t.coreWord f.pl.core y = s.coreWord f.pl.core y) ∧
  ((s.core f.pl.core).flights = [] → s.SameMemory t)

/-- A load of a core with lines and writes under way: as `LoadForm`, each lane's writes are `out` of the words that the core sees. -/
def WarmLoadForm (i : Instr) (m : Mods) (src : List Opnd) (dst : Opnd) (e : Nat) (addr : Nat → List Nat → Nat)
    (out : State → Frame → Nat → Nat → List CW → Option (List RegWrite)) : Prop :=
  ∀ (s : State) (f : Frame) (x : Nat → List Nat) (p : Nat → Page) (ws : Nat → List RegWrite),
    f.Ready s m → f.Fits (src ++ [dst]) → f.Reads src x → f.Steady s →
    f.Reaches s .load e (fun l => addr l (x l)) p →
    ((s.core f.pl.core).lines = [] ∨ ∀ l ∈ f.lanes, f.NeedsNoLine s (addr l (x l)) (p l)) →
    (∀ l ∈ f.lanes, out s f l (addr l (x l)) (s.coreRange f.pl.core (wordLoc (p l).loc) (wordsIn e)) = some (ws l)) →
    ∃ t, exec i s = .next t ∧ f.Moves s t (f.wrote true (f.lanes.flatMap ws ++ f.zeroes dst)) ∧ f.SeesSame s t

/-- A store of a core with lines and writes under way: what its plain loads see is as the lanes' stores, one after another, leave it,
whichever way the page's write policy takes them. -/
def WarmStoreForm (i : Instr) (m : Mods) (src data : List Opnd) (e : Nat) (addr : Nat → List Nat → Nat)
    (new : State → Frame → Nat → Nat → List CW → Option (List CW)) : Prop :=
  ∀ (s : State) (f : Frame) (x : Nat → List Nat) (p : Nat → Page) (v : Nat → CW),
    f.Ready s m → f.Fits (src ++ data) → f.Reads src x → f.Steady s →
    f.Reaches s .store e (fun l => addr l (x l)) p →
    ((s.core f.pl.core).lines = [] ∨ ∀ l ∈ f.lanes, f.NeedsNoLine s (addr l (x l)) (p l)) →
    storeSeq e (fun l => wordLoc (p l).loc) (fun l => new s f l (addr l (x l))) f.lanes (s.coreWord f.pl.core) = some v →
    ∃ t, exec i s = .next t ∧ f.Moves s t f.b.endPause ∧
      ∀ y, y % 4 = 0 → s.resolve y = y → t.coreWord f.pl.core y = v y

/-- A relaxed atomic of a core with lines and writes under way: the lines it touches leave the cache, their writes going home first, and the
lanes' read-modify-writes act on what then stands there; every other word reads as before. -/
def WarmAtomForm (i : Instr) (m : Mods) (src : List Opnd) (data : Frame → List Opnd) (dst : Opnd) (n : Nat)
    (addr : Nat → List Nat → Nat) (bound : List Nat → Prop)
    (step : Frame → Nat → List CW → Option (List RegWrite × Option (List CW))) : Prop :=
  ∀ (s : State) (f : Frame) (x : Nat → List Nat) (p : Nat → Page) (ws : List RegWrite) (v : Nat → CW),
    f.Ready s m → f.Fits (src ++ data f ++ [dst]) → f.Reads src x → f.Steady s → (∀ l ∈ f.lanes, bound (x l)) →
    f.Reaches s .atomic (4 * n) (fun l => addr l (x l)) p → (∀ l ∈ f.lanes, (p l).loc % 64 = addr l (x l) % 64) →
    rmwSeq n (fun l => wordLoc (p l).loc) (step f) f.lanes (s.pastCache f.pl.core) = some (ws, v) →
    let touched := fun (y : Nat) => ∃ l ∈ f.lanes, (p l).loc / 64 = y / 64
    ∃ t, exec i s = .next t ∧ f.Moves s t (f.wrote true (ws ++ f.zeroes dst)).endPause ∧
      ∀ y, y % 4 = 0 → s.resolve y = y →
        (touched y → t.homeWord y = v y ∧ t.coreWord f.pl.core y = v y) ∧
        (¬ touched y → t.coreWord f.pl.core y = s.coreWord f.pl.core y)

/-- Scalar loads and stores of a core with lines and writes under way. -/
def WarmOnceLoad (i : Instr) (m : Mods) (d a : Nat) (e n : Nat) (addr : Nat → Nat) (out : Nat → List CW → Option SReg) : Prop :=
  ∀ (s : State) (f : Frame) (x : Nat) (p : Page) (r : SReg),
    f.Ready s m → f.value f.elected (.s a) = some x → f.Steady s → f.ReachesOne s .load e (addr x) p →
    ((s.core f.pl.core).lines = [] ∨ f.NeedsNoLine s (addr x) p) →
    out (addr x) (s.coreRange f.pl.core (wordLoc p.loc) n) = some r →
    ∃ t, exec i s = .next t ∧ f.Moves s t (f.wrote true [.s d r]) ∧ f.SeesSame s t
def WarmOnceStore (i : Instr) (m : Mods) (a : Nat) (e n : Nat) (addr : Nat → Nat) (new : Frame → Nat → List CW → Option (List CW)) :
    Prop :=
  ∀ (s : State) (f : Frame) (x : Nat) (p : Page) (ws : List CW),
    f.Ready s m → f.value f.elected (.s a) = some x → f.Steady s → f.ReachesOne s .store e (addr x) p →
    ((s.core f.pl.core).lines = [] ∨ f.NeedsNoLine s (addr x) p) →
    new f (addr x) (s.coreRange f.pl.core (wordLoc p.loc) n) = some ws →
    ∃ t, exec i s = .next t ∧ f.Moves s t f.b.endPause ∧
      ∀ y, y % 4 = 0 → s.resolve y = y → t.coreWord f.pl.core y = putView (s.coreWord f.pl.core) (wordLoc p.loc) ws y

/-! ## Exceptions (R156 to R166) -/

/-- From `s` to `t`, beam `b` of workgroup `g` has taken the cause: its outstanding results stand written, its trap registers, held set
and PREFIXED bit hold what the cause gives, its frontier is kept, and those of its lanes that are in the path and neither exited nor parked
stand at `trapvec`, all others nowhere. Nothing else has changed. -/
def Agent.TookTrap (a : Agent) (s t : State) (g : Wg) (b : Beam) (c : Cause) (held path pc : Nat) (pfx : Bool) : Prop :=
  (∃ b' kf, t.beam? a = some b' ∧ b'.kept = some kf ∧ SameStands b.frontier kf ∧
    b'.inh = true ∧ b'.tcause = c.code + c.detail % 256 * 256 ∧ b'.tpc = pc ∧ b'.tlanes = c.lanes ∧ b'.taddr = c.addr % 2 ^ 72 ∧
    b'.tdata = c.data ∧ b'.held = held ∧ b'.prefixed = pfx ∧ b'.entryPc = pc ∧
    b'.s = b.settle.s ∧ b'.k = b.settle.k ∧ b'.lanes = b.settle.lanes ∧ b'.outstanding = b.settle.outstanding ∧
    ∀ l p k, Stands b'.frontier l p k ↔
      path.testBit l = true ∧ b.live.testBit l = true ∧ (∃ q j, Stands b.frontier l q j) ∧
        (∀ q i, ¬ Stands b.frontier l q (.parked i)) ∧ p = g.trapvec % 2 ^ 72 ∧ k = .runnable) ∧
  (∀ a', a' ≠ a → t.beam? a' = s.beam? a') ∧ s.SameMemory t

/-! ### Lanes whose access is stopped (R91, R156, R302) -/

/-- What stops an access to `va` in steps 2 and 3 of R302: it is misaligned, or its page does not allow it. -/
def State.Refuses (s : State) (core ctx : Nat) (acc : Access) (e va : Nat) (c : Cause) : Prop :=
  (va % e ≠ 0 ∧ c = ⟨0x09, 0, 0, va, 0⟩) ∨
  (va % e = 0 ∧ ∃ t, (if isLantern core then (s.die (dieOfCore core)).tlb else (s.core core).tlb).find? (·.covers ctx (va % 2 ^ 72)) = some t ∧
    t.allows acc = false ∧ c = ⟨0x0A, acc.bits, 0, va, 0⟩)

/-- LCC_FAULT of a register word: the word as received, and no address (R267). -/
def lccOf (w : CW) : Cause := ⟨0x0D, 0, 0, 0, w.code.toNat * 2 ^ 32 + w.data.toNat⟩

/-- How a lane's access stands: it reads its operands and reaches its page, or it takes a cause: its own operand v`b` is uncorrectable, its
index is not below the bound, or its access is refused. -/
def Frame.LaneFate (f : Frame) (s : State) (src : List Opnd) (b : Option Nat) (acc : Access) (e : Nat) (addr : Nat → List Nat → Nat)
    (index : List Nat → Option Nat) (x : Nat → List Nat) (p : Nat → Page) (l : Nat) (c : Option Cause) : Prop :=
  (c = none ∧ src.map (f.value l) = (x l).map some ∧ index (x l) = none ∧ f.ReachesOne s acc e (addr l (x l)) (p l)) ∨
  (∃ k, c = some k ∧ ((∃ n, b = some n ∧ f.value l (.v n 1) = none ∧ k = lccOf (f.b.vreg l (f.b.wb + n))) ∨
    (src.map (f.value l) = (x l).map some ∧ match index (x l) with
      | some i => k = ⟨0x0B, 0, 0, i, 0⟩
      | none => s.Refuses f.pl.core f.pl.ctx acc e (addr l (x l)) k)))

/-- A cause of some of these lanes decides: none has a lower code, and it is the one of the lowest lane with its code (R156). -/
def Frame.Decides (f : Frame) (cs : Nat → Option Cause) (c : Cause) : Prop :=
  ∃ l ∈ f.lanes, cs l = some c ∧ ∀ j ∈ f.lanes, ∀ k, cs j = some k → c.code < k.code ∨ (c.code = k.code ∧ l ≤ j)

/-- The issuing beam, which runs no handler and whose workgroup has one, takes a cause of kind L for the lanes of `held`: its other lanes
complete first, which makes the beam `b` but for what race detection remembers, and go on, in a state of which `mem` tells; then all lanes
of the path enter the handler (R91, R158, R162). -/
def Frame.TrapsSome (f : Frame) (s : State) (i : Instr) (g : Wg) (b : Beam) (c : Cause) (held : Nat) (mem : State → Prop) : Prop :=
  ∃ t u b', exec i s = .next t ∧ u.beam? f.a = some b' ∧
    (∃ (rd : Nat → List (Nat × List Stamp)) (fe : Nat → List Stamp), b' = { b with
      frontier := b'.frontier, kept := b'.kept, latch := b'.latch
      lanes := b.lanes.mapIdx fun l x => { x with reads := rd l, fences := fe l } }) ∧
    (∀ l p k, Stands b'.frontier l p k ↔
      if f.i.lanes.testBit l && !held.testBit l then p = f.i.next % 2 ^ 72 ∧ k = .runnable else Stands f.b.frontier l p k) ∧
    (∀ a, a ≠ f.a → u.beam? a = s.beam? a) ∧ mem u ∧
    Agent.TookTrap f.a u t g b' c held f.i.lanes f.i.pc f.i.prefixed

/-- The beam that issues is a workgroup's, runs no handler, and its workgroup has one. -/
structure Frame.MayTrap (f : Frame) (s : State) (g : Wg) : Prop where
  beam : ∃ n, f.a = .beam f.pl.wg n
  wg : s.wg? f.pl.wg = some g
  lantern : f.lantern = false
  inh : f.b.inh = false
  vec : g.trapvec ≠ 0

/-- The lanes with a cause, and those with the code of the deciding one. -/
def Frame.stopped (f : Frame) (cs : Nat → Option Cause) : Nat := maskOf (f.lanes.filter fun l => (cs l).isSome)
def Frame.taking (f : Frame) (cs : Nat → Option Cause) (code : Nat) : Nat := maskOf (f.lanes.filter fun l => (cs l).any (·.code == code))
/-- The lanes that complete. -/
def Frame.completing (f : Frame) (cs : Nat → Option Cause) : List Nat := f.lanes.filter fun l => (cs l).isNone

/-- A load of which some lanes are stopped: they take the deciding cause, and the others complete as `LoadForm` says. -/
def LoadFaults (i : Instr) (m : Mods) (src : List Opnd) (b : Option Nat) (dst : Opnd) (e : Nat) (addr : Nat → List Nat → Nat)
    (out : State → Frame → Nat → Nat → List CW → Option (List RegWrite)) : Prop :=
  ∀ (s : State) (f : Frame) (g : Wg) (x : Nat → List Nat) (p : Nat → Page) (cs : Nat → Option Cause) (c : Cause)
    (ws : Nat → List RegWrite), f.Ready s m → f.Fits (src ++ [dst]) → f.MayTrap s g → f.Quiet s →
    (∀ o ∈ src, o.perBeam = true → f.value f.elected o ≠ none) →
    (∀ l ∈ f.lanes, f.LaneFate s src b .load e addr (fun _ => none) x p l (cs l)) → f.Decides cs c →
    (∀ l ∈ f.completing cs, out s f l (addr l (x l)) (s.homeRange (wordLoc (p l).loc) (wordsIn e)) = some (ws l)) →
    f.TrapsSome s i g (f.wrote true ((f.completing cs).flatMap ws ++ f.zeroes dst)) { c with lanes := f.taking cs c.code } (f.stopped cs)
      s.SameMemory

/-- A store of which some lanes are stopped. -/
def StoreFaults (i : Instr) (m : Mods) (src data : List Opnd) (b : Option Nat) (e : Nat) (addr : Nat → List Nat → Nat)
    (new : State → Frame → Nat → Nat → List CW → Option (List CW)) : Prop :=
  ∀ (s : State) (f : Frame) (g : Wg) (x : Nat → List Nat) (p : Nat → Page) (cs : Nat → Option Cause) (c : Cause) (v : Nat → CW),
    f.Ready s m → f.Fits (src ++ data) → f.MayTrap s g → f.Quiet s → (∀ o ∈ src, o.perBeam = true → f.value f.elected o ≠ none) →
    (∀ l ∈ f.lanes, f.LaneFate s src b .store e addr (fun _ => none) x p l (cs l)) → f.Decides cs c →
    storeSeq e (fun l => wordLoc (p l).loc) (fun l => new s f l (addr l (x l))) (f.completing cs) (s.coreWord f.pl.core) = some v →
    f.TrapsSome s i g (if f.completing cs = [] then f.b else f.b.endPause) { c with lanes := f.taking cs c.code } (f.stopped cs) fun u =>
      ∀ y, y % 4 = 0 → s.resolve y = y → u.coreWord f.pl.core y = v y

/-- A relaxed atomic of which some lanes are stopped. -/
def AtomFaults (i : Instr) (m : Mods) (src : List Opnd) (b : Option Nat) (dst : Opnd) (n : Nat) (addr : Nat → List Nat → Nat)
    (index : List Nat → Option Nat) (step : Frame → Nat → List CW → Option (List RegWrite × Option (List CW))) : Prop :=
  ∀ (s : State) (f : Frame) (g : Wg) (x : Nat → List Nat) (p : Nat → Page) (cs : Nat → Option Cause) (c : Cause)
    (ws : List RegWrite) (v : Nat → CW), f.Ready s m → f.Fits (src ++ [dst]) → f.MayTrap s g → f.Quiet s →
    (∀ o ∈ src, o.perBeam = true → f.value f.elected o ≠ none) →
    (∀ l ∈ f.lanes, f.LaneFate s src b .atomic (4 * n) addr index x p l (cs l)) → f.Decides cs c →
    rmwSeq n (fun l => wordLoc (p l).loc) (step f) (f.completing cs) (s.coreWord f.pl.core) = some (ws, v) →
    let b := f.wrote true (ws ++ f.zeroes dst)
    f.TrapsSome s i g (if f.completing cs = [] then b else b.endPause) { c with lanes := f.taking cs c.code } (f.stopped cs) fun u =>
      ∀ y, y % 4 = 0 → s.resolve y = y → u.homeWord y = v y ∧ u.coreWord f.pl.core y = v y

/-- What a thread of a workgroup reads at an offset of its scratchpad: the latest write on the THREAD path to the word, or else the word
that stands there (R31, R270). -/
def Wg.scratchWord (g : Wg) (off : Nat) : CW :=
  match (g.pool.filter fun x => x.path == 0 && x.off == off).getLast? with
  | some x => x.word
  | none => g.scratch.word off

/-- The workgroup is as it was but for its scratchpad and the beam that issues. -/
def State.SameWg (s t : State) (w : Nat) (g g' : Wg) : Prop :=
  s.wg? w = some g ∧ t.wg? w = some g' ∧ g' = { g with scratch := g'.scratch, pool := g'.pool, beams := g'.beams }

/-- Offset of a lane in the scratchpad (R244, R310). -/
def scratchOff (e : Nat) (disp : Int) (l x : Nat) : Nat := wrap 72 ((x % 2 ^ 64 : Nat) + e * (disp + l) : Int)

/-! ## Moments (R57 to R63, R223 to R238) -/

/-- The variance an instruction uses: a negative one is no input, or 0 with `mctl.NVC` = 1 (R63). -/
def inVar (nvc : Bool) (v : Nat) : Option Nat :=
  if negVariance v then (if nvc then some 0 else none) else some v

/-- The moment written for what a sequence computes: where its variance is lost to cancellation, or negative with `mctl.NVC` = 1, it is
0 (R62, R228). -/
def outMom (nvc : Bool) (o : MomOut) : Option Nat :=
  match varCheck o with
  | .stands w => some (momOf (narrow32 o.mu) (narrow32 w))
  | .cancelled => some (momOf (narrow32 o.mu) 0)
  | .negative => if nvc then some (momOf (narrow32 o.mu) 0) else none

/-- A moment instruction: every active lane's operands give its `dst` the value `val`, in a grid with the moment file (R110). -/
def MomForm (i : Instr) (m : Mods) (src : Frame → List Opnd) (dst : Opnd) (late : Bool) (val : Frame → List Nat → Option Nat) : Prop :=
  ∀ (s : State) (f : Frame) (x : Nat → List Nat) (r : Nat → Nat), f.Ready s m → s.hasMoment f.pl = true →
    f.Fits (src f ++ [dst]) → f.Reads (src f) x → (∀ l ∈ f.lanes, val f (x l) = some (r l)) →
    f.Completes s i late ((f.lanes.flatMap fun l => f.put l dst (r l)) ++ f.zeroes dst)

/-- Two moments to one, with the covariance the prefix chooses (R226). -/
def Mom2 (mk : Mods → BitVec 5 → BitVec 5 → BitVec 5 → Instr) (g : Nat → Nat → Nat → Nat → Nat → MomOut) : Prop :=
  ∀ m d a b, MomForm (mk m d a b) m
    (fun f => [.m a.toNat, .m b.toNat] ++ if f.p.cov.toNat = 3 then [.v f.p.c.toNat 1] else []) (.m d.toNat) false fun f v =>
      match inVar f.b.nvc (varOf (v.getD 0 0)), inVar f.b.nvc (varOf (v.getD 1 0)) with
      | some x, some y =>
        outMom f.b.nvc (g (widen32 (meanOf (v.getD 0 0))) (varIn x) (widen32 (meanOf (v.getD 1 0))) (varIn y)
          (covValue f.p.cov.toNat (varIn x) (varIn y) (v.getD 2 0)))
      | _, _ => none

/-- One moment to one. -/
def Mom1 (mk : Mods → BitVec 5 → BitVec 5 → Instr) (late : Bool) (domain : Nat → Bool) (g : Nat → Nat → MomOut) : Prop :=
  ∀ m d a, MomForm (mk m d a) m (fun _ => [.m a.toNat]) (.m d.toNat) late fun f v =>
    if domain (meanOf (v.getD 0 0)) then
      (inVar f.b.nvc (varOf (v.getD 0 0))).bind fun x => outMom f.b.nvc (g (widen32 (meanOf (v.getD 0 0))) (varIn x))
    else none

/-- One moment to a V word. -/
def MomToWord (mk : Mods → BitVec 7 → BitVec 5 → Instr) (g : Nat → Nat → Nat) : Prop :=
  ∀ m d a, MomForm (mk m d a) m (fun _ => [.m a.toNat]) (.v d.toNat 1) false fun f v =>
    (inVar f.b.nvc (varOf (v.getD 0 0))).map (g (meanOf (v.getD 0 0)))

/-! ## Engines (R333 to R355, R382) -/

/-- A command of the issuing beam enters the sub-queue of its quarter (R334, R382). -/
def State.enqueued (f : Frame) (copy : Bool) (op : EngOp) (ck tgt : Nat) (u : State) : State :=
  ({ u with engSeq := u.engSeq + 1 }).setSubQueue copy f.pl.core f.b.quarter
    (u.subQueue copy f.pl.core f.b.quarter ++
      [(⟨f.pl.wg, f.b.number, f.elected, f.i.pc, op, ck, tgt, 0, u.engSeq, 0, [], []⟩ : EngEntry)])

/-- Whether the sub-queue of the issuing beam's quarter has room (R334, R382). -/
def Frame.HasRoom (f : Frame) (s : State) (copy : Bool) : Prop := (s.subQueue copy f.pl.core f.b.quarter).length < 8

/-- A command enters its sub-queue and the path goes on; while the sub-queue is full nothing happens (R333). -/
def Frame.Queues (f : Frame) (s : State) (i : Instr) (copy : Bool) (op : EngOp) (ck tgt : Nat) : Prop :=
  (f.HasRoom s copy → f.Does s i (State.enqueued f copy op ck tgt) f.b) ∧ (¬ f.HasRoom s copy → exec i s = .next s)

/-- A multiply command: the descriptor, the gather base and the scale words are read at issue (R337 to R342). -/
def MulForm (op : Nat) (i : Instr) (m : Mods) (h t : BitVec 5) (a b : BitVec 7) : Prop :=
  ∀ (s : State) (f : Frame) (x gather : Nat), f.Ready s m → f.lantern = false →
    (op = 4 → s.hasMoment f.pl = true) →
    f.value f.elected (.v a.toNat (descWords op)) = some x →
    let desc : MDesc := ⟨op, (wordsOfNat (descWords op) x).map (·.toNat)⟩
    let sh := matShape op desc.ty h.toNat
    let scaled := matScaled desc.ty
    let regs := if scaled then scaleRegs f.p.sel.toNat (desc.blocks sh) else 0
    (if op = 3 then f.value f.elected (.s desc.greg) = some gather else gather = 0) →
    f.Fits [.v a.toNat (descWords op)] → (scaled = true → f.Fits [.v b.toNat regs]) →
    desc.malformed sh t.toNat (s.pools f).1 (s.pools f).2 f.b.width gather = false →
    (if scaled then (NfFmt.ofWord (s.fmtReg f.a f.p.fmt.toNat)).validFor (matBits desc.ty) = true
      else b = 0 ∧ f.p.fmt = 0 ∧ f.p.sel = 0) →
    f.Queues s i false (.multiply op h.toNat t.toNat desc.d gather
      ((List.range regs).map fun r => (List.range f.b.count).map fun l => f.b.vreg l (f.b.wb + b.toNat + r))
      f.p.sel.toNat (s.fmtReg f.a f.p.fmt.toNat) f.b.nvc) desc.ck desc.tgt

/-! ## Mailbox commands (R478, R479) -/

/-- The controller takes a mailbox's command next, in READY; it has this opcode, bytes 2 and 3 are zero, and so is every argument byte
outside the ranges (first, count) that R479 gives it. -/
structure State.Offers (s : State) (svc : Bool) (code : Nat) (used : List (Nat × Nat)) : Prop where
  turn : s.nextMailbox = some svc
  code : fieldAt (s.command svc) 0 2 = code
  flags : fieldAt (s.command svc) 2 2 = 0
  rest : ∀ i < 56, (s.command svc).getD (8 + i) 0 = 0 ∨ ∃ u ∈ used, u.1 ≤ 8 + i ∧ 8 + i < u.1 + u.2
  ready : s.mod.status = 1

/-- `i` has the effect that leaves `u`, and is answered with this STATUS and these results. -/
def State.Answers (s : State) (i : Instr) (svc : Bool) (status : Nat) (result : List Byte) (u : State) : Prop :=
  exec i s = .next (u.respond svc status result)

/-- The commands of R479: opcode, whether function 1 takes it, and whether the pilot light does. -/
noncomputable def commandTable (svc : Bool) : List (Instr × Nat × Bool × Bool) :=
  [(.status svc, 1, true, true), (.attest svc, 2, true, true), (.fwload svc, 3, false, true), (.measext svc, 4, false, false),
   (.domain svc, 0x10, false, false), (.ctxtable svc, 0x11, false, false), (.ctxreload svc, 0x12, false, false),
   (.svcdone svc, 0x13, false, false), (.tlbinv svc, 0x14, false, false), (.lodestar svc, 0x15, false, false),
   (.pmcsel svc, 0x16, false, false), (.errreport svc, 0x17, false, false), (.errclear svc, 0x18, false, false),
   (.errthresh svc, 0x19, false, false), (.wick svc, 0x1A, false, false), (.watchdog svc, 0x1B, false, false),
   (.qos svc, 0x1C, false, false), (.quiesce svc [], 0x1D, false, false), (.powercap svc, 0x1E, false, false),
   (.patrol svc, 0x1F, false, false)]

/-! ## Parked lanes (R160, R175, R423) -/

/-- The beam's one parked record is `r`, at index i, and the entry `e` holds its lanes. -/
def ParksOne (b : Beam) (i : Nat) (r : Parked) (e : Entry) : Prop :=
  b.parked = [(i, r)] ∧ (b.frontier.filter fun x => x.kind == .parked i) = [e] ∧ e.lanes = r.lanes ∧ r.lanes ≠ 0

/-- The lanes parked under record i stand, runnable, at `pc`, every other lane where it stood, and the record is gone. -/
def Resumed (b b' : Beam) (i pc lanes : Nat) : Prop :=
  b'.parked = [] ∧ ∀ l p k, Stands b'.frontier l p k ↔
    (lanes.testBit l = true ∧ p = pc % 2 ^ 72 ∧ k = .runnable) ∨ (k ≠ .parked i ∧ Stands b.frontier l p k)

/-- The lanes parked under record i, the beam's only one, stand at its instruction again, and trap there at once with this cause; nothing
else changes (R160, R162). -/
def Agent.TrapsParked (a : Agent) (s t : State) (g : Wg) (b : Beam) (i : Nat) (r : Parked) (c : Cause) : Prop :=
  ∃ u b', u.beam? a = some b' ∧ b' = { b with frontier := b'.frontier, kept := b'.kept, parked := [] } ∧ Resumed b b' i r.pc r.lanes ∧
    (∀ a', a' ≠ a → u.beam? a' = s.beam? a') ∧ s.SameMemory u ∧
    Agent.TookTrap a u t g b' { c with lanes := r.lanes } r.lanes r.lanes r.pc r.prefixed

end Sys2Proof.Machine
end

