-- ==== Sys2Proof/Certificates/Slice0/Obligations.lean ====
section
/-!
DEFINITION. Sys2Proof/Certificates/Slice0/Obligations.lean: the statements for the provers.
-/

open Sys2Proof Sys2Proof.Machine

/-- R181, R182: what the counting and bit-field functions of `IntegerResults` compute, bit by bit, at any width: `popc` the number of 1
bits; `clz` and `ctz` the distance to the highest and lowest 1; `bfx` bits [pos+len−1:pos] of `a`, `bfi` the field of `c` replaced. -/
def Obligations.IntegerResults : Prop :=
  (IntLane2 32 false .add32 (· + ·) ∧
  IntLane2 32 false .sub32 (· - ·) ∧
  IntLane2 32 false .mul32 (· * ·) ∧
  IntLane2 32 false .mulhiS32 (fun a b => .ofInt 32 (a.toInt * b.toInt / 2 ^ 32)) ∧
  IntLane2 32 false .mulhiZ32 (fun a b => .ofNat 32 (a.toNat * b.toNat / 2 ^ 32)) ∧
  IntLane2 32 false .minS32 (fun a b => if a.toInt ≤ b.toInt then a else b) ∧
  IntLane2 32 false .minZ32 (fun a b => if a.toNat ≤ b.toNat then a else b) ∧
  IntLane2 32 false .maxS32 (fun a b => if a.toInt ≤ b.toInt then b else a) ∧
  IntLane2 32 false .maxZ32 (fun a b => if a.toNat ≤ b.toNat then b else a) ∧
  IntLane2 32 true .divS32 divSigned ∧
  IntLane2 32 true .divZ32 (fun a b => if b = 0 then .allOnes 32 else .ofNat 32 (a.toNat / b.toNat)) ∧
  IntLane2 32 true .remS32 (fun a b => if b = 0 then a else a - b * divSigned a b) ∧
  IntLane2 32 true .remZ32 (fun a b => if b = 0 then a else .ofNat 32 (a.toNat % b.toNat)) ∧
  IntLane2 32 false .and32 (· &&& ·) ∧
  IntLane2 32 false .or32 (· ||| ·) ∧
  IntLane2 32 false .xor32 (· ^^^ ·) ∧
  IntLane2 32 false .shl32 (fun a b => .ofNat 32 (a.toNat * 2 ^ (b.toNat % 256))) ∧
  IntLane2 32 false .shr32 (fun a b => .ofNat 32 (a.toNat / 2 ^ (b.toNat % 256))) ∧
  IntLane2 32 false .sar32 (fun a b => .ofInt 32 (a.toInt / 2 ^ (b.toNat % 256))) ∧
  IntLane2 32 false .rotl32 (fun a b => a.rotateLeft (b.toNat % 256 % 32)) ∧
  IntLane2 32 false .bfxS32 iBfxS ∧
  IntLane2 32 false .bfxZ32 iBfxZ ∧
  IntLane1 32 .abs32 (fun a => .ofNat 32 a.toInt.natAbs) ∧
  IntLane1 32 .neg32 (fun a => 0 - a) ∧
  IntLane1 32 .not32 (~~~ ·) ∧
  IntLane1 32 .popc32 iPopc ∧
  IntLane1 32 .clz32 iClz ∧
  IntLane1 32 .ctz32 iCtz ∧
  IntLane1 32 .brev32 .reverse ∧
  IntLane3 32 .mad32 (fun a b c => a * b + c) ∧
  IntLane3 32 .bfi32 iBfi) ∧
  (IntLane2 64 false .add64 (· + ·) ∧
  IntLane2 64 false .sub64 (· - ·) ∧
  IntLane2 64 false .mul64 (· * ·) ∧
  IntLane2 64 false .mulhiS64 (fun a b => .ofInt 64 (a.toInt * b.toInt / 2 ^ 64)) ∧
  IntLane2 64 false .mulhiZ64 (fun a b => .ofNat 64 (a.toNat * b.toNat / 2 ^ 64)) ∧
  IntLane2 64 false .minS64 (fun a b => if a.toInt ≤ b.toInt then a else b) ∧
  IntLane2 64 false .minZ64 (fun a b => if a.toNat ≤ b.toNat then a else b) ∧
  IntLane2 64 false .maxS64 (fun a b => if a.toInt ≤ b.toInt then b else a) ∧
  IntLane2 64 false .maxZ64 (fun a b => if a.toNat ≤ b.toNat then b else a) ∧
  IntLane2 64 true .divS64 divSigned ∧
  IntLane2 64 true .divZ64 (fun a b => if b = 0 then .allOnes 64 else .ofNat 64 (a.toNat / b.toNat)) ∧
  IntLane2 64 true .remS64 (fun a b => if b = 0 then a else a - b * divSigned a b) ∧
  IntLane2 64 true .remZ64 (fun a b => if b = 0 then a else .ofNat 64 (a.toNat % b.toNat)) ∧
  IntLane2 64 false .and64 (· &&& ·) ∧
  IntLane2 64 false .or64 (· ||| ·) ∧
  IntLane2 64 false .xor64 (· ^^^ ·) ∧
  IntLane2 64 false .shl64 (fun a b => .ofNat 64 (a.toNat * 2 ^ (b.toNat % 256))) ∧
  IntLane2 64 false .shr64 (fun a b => .ofNat 64 (a.toNat / 2 ^ (b.toNat % 256))) ∧
  IntLane2 64 false .sar64 (fun a b => .ofInt 64 (a.toInt / 2 ^ (b.toNat % 256))) ∧
  IntLane2 64 false .rotl64 (fun a b => a.rotateLeft (b.toNat % 256 % 64)) ∧
  IntLane2 64 false .bfxS64 iBfxS ∧
  IntLane2 64 false .bfxZ64 iBfxZ ∧
  IntLane1 64 .abs64 (fun a => .ofNat 64 a.toInt.natAbs) ∧
  IntLane1 64 .neg64 (fun a => 0 - a) ∧
  IntLane1 64 .not64 (~~~ ·) ∧
  IntLane1 64 .popc64 iPopc ∧
  IntLane1 64 .clz64 iClz ∧
  IntLane1 64 .ctz64 iCtz ∧
  IntLane1 64 .brev64 .reverse ∧
  IntLane3 64 .mad64 (fun a b c => a * b + c) ∧
  IntLane3 64 .bfi64 iBfi) ∧
  (IntScalar2 false .addSc (· + ·) ∧
  IntScalar2 false .subSc (· - ·) ∧
  IntScalar2 false .mulSc (· * ·) ∧
  IntScalar2 false .mulhiSSc (fun a b => .ofInt 64 (a.toInt * b.toInt / 2 ^ 64)) ∧
  IntScalar2 false .mulhiZSc (fun a b => .ofNat 64 (a.toNat * b.toNat / 2 ^ 64)) ∧
  IntScalar2 false .minSSc (fun a b => if a.toInt ≤ b.toInt then a else b) ∧
  IntScalar2 false .minZSc (fun a b => if a.toNat ≤ b.toNat then a else b) ∧
  IntScalar2 false .maxSSc (fun a b => if a.toInt ≤ b.toInt then b else a) ∧
  IntScalar2 false .maxZSc (fun a b => if a.toNat ≤ b.toNat then b else a) ∧
  IntScalar2 true .divSSc divSigned ∧
  IntScalar2 true .divZSc (fun a b => if b = 0 then .allOnes 64 else .ofNat 64 (a.toNat / b.toNat)) ∧
  IntScalar2 true .remSSc (fun a b => if b = 0 then a else a - b * divSigned a b) ∧
  IntScalar2 true .remZSc (fun a b => if b = 0 then a else .ofNat 64 (a.toNat % b.toNat)) ∧
  IntScalar2 false .andSc (· &&& ·) ∧
  IntScalar2 false .orSc (· ||| ·) ∧
  IntScalar2 false .xorSc (· ^^^ ·) ∧
  IntScalar2 false .shlSc (fun a b => .ofNat 64 (a.toNat * 2 ^ (b.toNat % 256))) ∧
  IntScalar2 false .shrSc (fun a b => .ofNat 64 (a.toNat / 2 ^ (b.toNat % 256))) ∧
  IntScalar2 false .sarSc (fun a b => .ofInt 64 (a.toInt / 2 ^ (b.toNat % 256))) ∧
  IntScalar2 false .rotlSc (fun a b => a.rotateLeft (b.toNat % 256 % 64)) ∧
  IntScalar2 false .bfxSSc iBfxS ∧
  IntScalar2 false .bfxZSc iBfxZ ∧
  IntScalar1 .absSc (fun a => .ofNat 64 a.toInt.natAbs) ∧
  IntScalar1 .negSc (fun a => 0 - a) ∧
  IntScalar1 .notSc (~~~ ·) ∧
  IntScalar1 .popcSc iPopc ∧
  IntScalar1 .clzSc iClz ∧
  IntScalar1 .ctzSc iCtz ∧
  IntScalar1 .brevSc .reverse ∧
  IntScalar3 .madSc (fun a b c => a * b + c) ∧
  IntScalar3 .bfiSc iBfi) ∧
  (∀ (w : Nat) (a b c : BitVec w), 0 < w →
    let pos := b.toNat % 256
    let len := min w (b.toNat / 256 % 256)
    (iPopc a).toNat = ((List.range w).filter fun i => a.getLsbD i).length ∧
    (a = 0 → (iClz a).toNat = w ∧ (iCtz a).toNat = w) ∧
    (a ≠ 0 → a.getLsbD (w - 1 - (iClz a).toNat) = true ∧ (∀ j, w - 1 - (iClz a).toNat < j → a.getLsbD j = false) ∧
      a.getLsbD (iCtz a).toNat = true ∧ ∀ j, j < (iCtz a).toNat → a.getLsbD j = false) ∧
    (∀ i, i < w → (iBfxZ a b).getLsbD i = (decide (i < len) && a.getLsbD (pos + i))) ∧
    (∀ i, i < w → (iBfxS a b).getLsbD i = (decide (0 < len) && a.getLsbD (pos + min i (len - 1)))) ∧
    (∀ i, i < w → (iBfi a b c).getLsbD i = if pos ≤ i ∧ i < pos + len then a.getLsbD (i - pos) else c.getLsbD i) ∧
    (∀ i, i < w → (iBrev a).getLsbD i = a.getLsbD (w - 1 - i)))

def Obligations.IntCompareResults : Prop :=
  IntCmp 32 .cmpEq32 (fun a b => decide (a = b)) ∧
  IntCmp 32 .cmpNe32 (fun a b => decide (a ≠ b)) ∧
  IntCmp 32 .cmpLtS32 (fun a b => decide (a.toInt < b.toInt)) ∧
  IntCmp 32 .cmpGeS32 (fun a b => decide (b.toInt ≤ a.toInt)) ∧
  IntCmp 32 .cmpLtZ32 (fun a b => decide (a.toNat < b.toNat)) ∧
  IntCmp 32 .cmpGeZ32 (fun a b => decide (b.toNat ≤ a.toNat)) ∧
  IntCmp 32 .cmpTst32 (fun a b => decide (a &&& b ≠ 0)) ∧
  IntCmp 64 .cmpEq64 (fun a b => decide (a = b)) ∧
  IntCmp 64 .cmpNe64 (fun a b => decide (a ≠ b)) ∧
  IntCmp 64 .cmpLtS64 (fun a b => decide (a.toInt < b.toInt)) ∧
  IntCmp 64 .cmpGeS64 (fun a b => decide (b.toInt ≤ a.toInt)) ∧
  IntCmp 64 .cmpLtZ64 (fun a b => decide (a.toNat < b.toNat)) ∧
  IntCmp 64 .cmpGeZ64 (fun a b => decide (b.toNat ≤ a.toNat)) ∧
  IntCmp 64 .cmpTst64 (fun a b => decide (a &&& b ≠ 0)) ∧
  ScalarCmp .cmpEqSc (fun a b => decide (a = b)) ∧
  ScalarCmp .cmpNeSc (fun a b => decide (a ≠ b)) ∧
  ScalarCmp .cmpLtSSc (fun a b => decide (a.toInt < b.toInt)) ∧
  ScalarCmp .cmpGeSSc (fun a b => decide (b.toInt ≤ a.toInt)) ∧
  ScalarCmp .cmpLtZSc (fun a b => decide (a.toNat < b.toNat)) ∧
  ScalarCmp .cmpGeZSc (fun a b => decide (b.toNat ≤ a.toNat)) ∧
  ScalarCmp .cmpTstSc (fun a b => decide (a &&& b ≠ 0))

/-- R184 to R188: what the moves, immediates, conversions and address sums write. R190, R198 to R200: identity, relative register access,
index registers and the window base. That `sel` reads only the source that its mask bit chooses is the model's reading (log entry 14). -/
def Obligations.MoveAndWindowResults : Prop :=
  ((∀ m d a (s : State) (f : Frame), f.Ready s m → f.Fits [.v a.toNat 1, .v d.toNat 1] →
    f.Completes s (.movVv m d a) false
      ((f.lanes.flatMap fun l => [.v l (f.b.wb + d.toNat) (f.b.vreg l (f.b.wb + a.toNat))]) ++ f.zeroes (.v d.toNat 1))) ∧
  (∀ m d a, LaneForm (.movVs m d a) m (fun _ => [.s a.toNat]) (.v d.toNat 1) false fun _ _ _ v => v.getD 0 0) ∧
  (∀ m d a, ScalarForm (.movSv m d a) m (fun _ => [.v a.toNat 1]) d.toNat false fun v => v.getD 0 0) ∧
  (∀ m d a, ScalarForm (.movSs m d a) m (fun _ => [.s a.toNat]) d.toNat false fun v => v.getD 0 0) ∧
  (∀ m d i, LaneForm (.moviV m d i) m (fun _ => []) (.v d.toNat 1) false fun _ _ _ _ => (i.signExtend 32).toNat) ∧
  (∀ m d i, ScalarForm (.moviS m d i) m (fun _ => []) d.toNat false fun _ => (i.signExtend 72).toNat) ∧
  (∀ m d i, LaneForm (.moviHi m d i) m (fun _ => [.v d.toNat 1]) (.v d.toNat 1) false fun _ _ _ v =>
    i.toNat * 2 ^ 15 + v.getD 0 0 % 2 ^ 15) ∧
  (∀ m d a t u, LaneForm (.cvt m d a t u) m (fun _ => [.v a.toNat (typeRegs u.toNat)]) (.v d.toNat (typeRegs t.toNat)) false
    fun _ _ _ v => wrap (32 * typeRegs t.toNat) (intTypeClamp t.toNat (intTypeRead u.toNat (v.getD 0 0)))) ∧
  (∀ m d a i, ScalarForm (.lea m d a i) m (fun _ => [.s a.toNat]) d.toNat false fun v =>
    wrap 72 ((v.getD 0 0 : Int) + i.toInt * 16)) ∧
  (∀ m d a b, ScalarForm (.aadd m d a b) m (fun _ => [.s a.toNat, .s b.toNat]) d.toNat false fun v =>
    (v.getD 0 0 + v.getD 1 0) % 2 ^ 72) ∧
  (∀ m d a b (s : State) (f : Frame) kv (x : Nat → Nat), f.Ready s m → f.Fits [.v b.toNat 1, .v (f.c d.toNat) 1, .v d.toNat 1] →
    f.value f.elected (.s (64 + a.toNat)) = some kv →
    (∀ l ∈ f.lanes, f.value l (.v (if kv.testBit l then b.toNat else f.c d.toNat) 1) = some (x l)) →
    f.Completes s (.sel m d a b) false
      ((f.lanes.flatMap fun l => f.put l (.v d.toNat 1) (x l)) ++ f.zeroes (.v d.toNat 1)))) ∧
  ((∀ m d n, LaneForm (.rdid m d n) m (fun _ => []) (.v d.toNat 1) false fun s f l _ =>
    match n.toNat with
    | 0 => s.mod.number
    | 1 => dieOfCore f.pl.core
    | 2 => if f.lantern then 0x80000000 + (f.pl.core - 288) % 16 else f.pl.core % 36
    | 3 => if f.lantern then 0 else f.b.quarter
    | 4 => f.pl.wgId
    | 5 => if f.lantern then 0 else f.b.number
    | 6 => if f.lantern then 0 else (f.b.lane l).thread
    | _ => l) ∧
  (∀ m d a i, LaneForm (.xadd m d a i) m (fun _ => [.s (72 + a.toNat)]) (.s (72 + d.toNat)) false fun _ _ _ v =>
    wrap 16 ((BitVec.ofNat 72 (v.getD 0 0)).toInt + i.toInt)) ∧
  (∀ m d i, LaneForm (.xset m d i) m (fun _ => []) (.s (72 + d.toNat)) false fun _ _ _ _ => wrap 16 i.toInt) ∧
  (∀ m d a i (s : State) (f : Frame) (x : Nat → Nat) (n : Nat → Nat), f.Ready s m → f.Fits [.v d.toNat 1] →
    f.Reads [.s (72 + a.toNat)] (fun l => [x l]) →
    (∀ l ∈ f.lanes, (n l : Int) = f.b.wb + (BitVec.ofNat 72 (x l)).toInt + i.toInt ∧ n l < f.b.total) →
    f.Completes s (.rgetX m d a i) false
      ((f.lanes.flatMap fun l => [.v l (f.b.wb + d.toNat) (f.b.vreg l (n l))]) ++ f.zeroes (.v d.toNat 1)) ∧
    f.Completes s (.rputX m d a i) false (f.lanes.flatMap fun l => [.v l (n l) (f.b.vreg l (f.b.wb + d.toNat))])) ∧
  (∀ m a (s : State) (f : Frame) x, f.Ready s m → f.value f.elected (.s a.toNat) = some x →
    ∃ t, exec (.wbase m a) s = .next t ∧ f.GoesOn s t { f.b with wb := x % 256 }))

/-- R191, R192: a permute carries the source lane's word with its code, or a zero word where that lane is no participant. R193 to R197: what
the combining instructions write on readable words. That a permute carries an uncorrectable data word and charges no lane for it is the
model's reading, against the first row of R177's table (log entry 37). -/
def Obligations.PermuteAndCombineResults : Prop :=
  ((∀ m d a b (s : State) (f : Frame) (x : Nat → Nat), f.Ready s m → f.Fits [.v a.toNat 1, .v b.toNat 1, .v d.toNat 1] →
    f.Reads [.v b.toNat 1] (fun l => [x l]) →
    f.Completes s (.vshfl m d a b) false
      ((f.lanes.flatMap fun l => [.v l (f.b.wb + d.toNat)
        (if x l < f.b.width ∧ f.active.testBit (x l) = true then f.b.vreg (x l) (f.b.wb + a.toNat) else .zero)]) ++
        f.zeroes (.v d.toNat 1))) ∧
  (∀ m d a b (s : State) (f : Frame) x, f.Ready s m → f.Fits [.v a.toNat 1, .v d.toNat 1] → f.value f.elected (.s b.toNat) = some x →
    f.Completes s (.vbcast m d a b) false
      ((f.lanes.flatMap fun l => [.v l (f.b.wb + d.toNat)
        (if x % 2 ^ 64 < f.b.width ∧ f.active.testBit (x % 2 ^ 64) = true then f.b.vreg (x % 2 ^ 64) (f.b.wb + a.toNat)
         else .zero)]) ++ f.zeroes (.v d.toNat 1))) ∧
  (∀ m d a b (s : State) (f : Frame) (x : Nat → Nat), f.Ready s m → f.Fits [.v a.toNat 1, .v d.toNat 1] →
    f.Reads [.s b.toNat] (fun l => [x l]) → f.b.width ≠ 0 →
    f.Completes s (.vrot m d a b) false
      ((f.lanes.flatMap fun (l : Nat) =>
        let k := (((l : Int) + (BitVec.ofNat 64 (x l)).toInt) % (f.b.width : Int)).toNat
        [.v l (f.b.wb + d.toNat) (if f.active.testBit k = true then f.b.vreg k (f.b.wb + a.toNat) else .zero)]) ++
        f.zeroes (.v d.toNat 1)))) ∧
  ((∀ m d a, CrossForm (.vconf m d a) m [a.toNat] d.toNat fun c l =>
    let same := c.parts.filter fun k => c.val 0 k == c.val 0 l
    (if same.any (fun k => decide (l < k)) then 0 else 2 ^ 31) + same.length * 2 ^ 16 +
      (same.filter fun k => decide (k < l)).length * 2 ^ 8 + same.headD 0) ∧
  (∀ m d a, CrossForm (.vmatch m d a) m [a.toNat] d.toNat fun c l =>
    ((c.parts.filter fun k => decide (k < l) && c.val 0 k == c.val 0 l).getLast?).getD 0xFFFFFFFF) ∧
  (∀ m fn d a b, CrossForm (.vscan m fn d a b) m [a.toNat, b.toNat] d.toNat fun c l =>
    ((scanFrom fn.toNat c none c.parts).lookup l).getD 0) ∧
  (∀ m fn d a, CrossForm (.vred m fn d a) m [a.toNat] d.toNat fun c _ => combine fn.toNat c c.parts) ∧
  (∀ m fn d a b, CrossForm (.vcomb m fn d a b) m [a.toNat, b.toNat] d.toNat fun c l =>
    let group := c.parts.filter fun k => c.val 1 k == c.val 1 l
    if group.head? = some l then combine fn.toNat c group else c.val 0 l) ∧
  (∀ m d a (s : State) (f : Frame) (x : Nat → Nat), f.Ready s m → f.Fits [.v a.toNat 1] → f.Reads [.v a.toNat 1] (fun l => [x l]) →
    f.Completes s (.vballot m d a) false (f.put f.elected (.s d.toNat) (maskOf (f.lanes.filter fun l => x l != 0)))) ∧
  (∀ m d a (s : State) (f : Frame) (x : Nat → Nat), f.Ready s m → f.Fits [.v a.toNat 1, .v d.toNat 1] → f.Reads [.v a.toNat 1] (fun l => [x l]) →
    let path := lanesOf f.i.lanes f.b.count
    f.Completes s (.vcompact m d a) false
      ((((path.take f.lanes.length).zip f.lanes).flatMap fun (l, p) => f.put l (.v d.toNat 1) (x p)) ++
        (if f.p.z then (path.drop f.lanes.length).map fun l => RegWrite.v l (f.b.wb + d.toNat) .zero else []))))

/-- R205, R207 to R209: each element of each active lane, under the rounding mode and FTZ of the issue. R212, R213: division, roots and the
special functions have variable latency; each is rounded as its rule says (the special functions by log entry 5). R40 to R44: an encoding's
value, the exact sums, products and quotients, and the one rounding of each mode to a neighbour among the encodings, of a root too; subnormal
operands and results are flushed with FTZ; minimum and maximum. -/
def Obligations.FloatArithmeticResults : Prop :=
  (FloatLane2 tyF64 false .faddF64 (fun e a b => IFmt.result .fp64 e.rm e.ftz (.add e.rm (IFmt.source .fp64 e.ftz a) (IFmt.source .fp64 e.ftz b))) ∧
  FloatLane2 tyF64 false .fsubF64 (fun e a b => IFmt.result .fp64 e.rm e.ftz (.add e.rm (IFmt.source .fp64 e.ftz a) (IFmt.source .fp64 e.ftz b).neg)) ∧
  FloatLane2 tyF64 false .fmulF64 (fun e a b => IFmt.result .fp64 e.rm e.ftz (.mul (IFmt.source .fp64 e.ftz a) (IFmt.source .fp64 e.ftz b))) ∧
  FloatLane3 tyF64 .fmaF64 (fun e a b c => IFmt.result .fp64 e.rm e.ftz (.add e.rm (.mul (IFmt.source .fp64 e.ftz a) (IFmt.source .fp64 e.ftz b)) (IFmt.source .fp64 e.ftz c))) ∧
  FloatLane2 tyF64 false .fminF64 (fun e a b => fMinMax .fp64 false e.ftz a b) ∧
  FloatLane2 tyF64 false .fmaxF64 (fun e a b => fMinMax .fp64 true e.ftz a b) ∧
  FloatLane1 tyF64 false .fnegF64 (fun _ a => fNeg .fp64 a) ∧
  FloatLane1 tyF64 false .fabsF64 (fun _ a => a % 2 ^ ((IFmt.width .fp64) - 1)) ∧
  FloatLane2 tyF32 false .faddF32 (fun e a b => IFmt.result .fp32 e.rm e.ftz (.add e.rm (IFmt.source .fp32 e.ftz a) (IFmt.source .fp32 e.ftz b))) ∧
  FloatLane2 tyF32 false .fsubF32 (fun e a b => IFmt.result .fp32 e.rm e.ftz (.add e.rm (IFmt.source .fp32 e.ftz a) (IFmt.source .fp32 e.ftz b).neg)) ∧
  FloatLane2 tyF32 false .fmulF32 (fun e a b => IFmt.result .fp32 e.rm e.ftz (.mul (IFmt.source .fp32 e.ftz a) (IFmt.source .fp32 e.ftz b))) ∧
  FloatLane3 tyF32 .fmaF32 (fun e a b c => IFmt.result .fp32 e.rm e.ftz (.add e.rm (.mul (IFmt.source .fp32 e.ftz a) (IFmt.source .fp32 e.ftz b)) (IFmt.source .fp32 e.ftz c))) ∧
  FloatLane2 tyF32 false .fminF32 (fun e a b => fMinMax .fp32 false e.ftz a b) ∧
  FloatLane2 tyF32 false .fmaxF32 (fun e a b => fMinMax .fp32 true e.ftz a b) ∧
  FloatLane1 tyF32 false .fnegF32 (fun _ a => fNeg .fp32 a) ∧
  FloatLane1 tyF32 false .fabsF32 (fun _ a => a % 2 ^ ((IFmt.width .fp32) - 1)) ∧
  FloatLane2 tyBf16 false .faddBf16 (fun e a b => IFmt.result .bf16 e.rm e.ftz (.add e.rm (IFmt.source .bf16 e.ftz a) (IFmt.source .bf16 e.ftz b))) ∧
  FloatLane2 tyBf16 false .fsubBf16 (fun e a b => IFmt.result .bf16 e.rm e.ftz (.add e.rm (IFmt.source .bf16 e.ftz a) (IFmt.source .bf16 e.ftz b).neg)) ∧
  FloatLane2 tyBf16 false .fmulBf16 (fun e a b => IFmt.result .bf16 e.rm e.ftz (.mul (IFmt.source .bf16 e.ftz a) (IFmt.source .bf16 e.ftz b))) ∧
  FloatLane3 tyBf16 .fmaBf16 (fun e a b c => IFmt.result .bf16 e.rm e.ftz (.add e.rm (.mul (IFmt.source .bf16 e.ftz a) (IFmt.source .bf16 e.ftz b)) (IFmt.source .bf16 e.ftz c))) ∧
  FloatLane2 tyBf16 false .fminBf16 (fun e a b => fMinMax .bf16 false e.ftz a b) ∧
  FloatLane2 tyBf16 false .fmaxBf16 (fun e a b => fMinMax .bf16 true e.ftz a b) ∧
  FloatLane1 tyBf16 false .fnegBf16 (fun _ a => fNeg .bf16 a) ∧
  FloatLane1 tyBf16 false .fabsBf16 (fun _ a => a % 2 ^ ((IFmt.width .bf16) - 1)) ∧
  FloatLane2 tyF16 false .faddF16 (fun e a b => IFmt.result .fp16 e.rm e.ftz (.add e.rm (IFmt.source .fp16 e.ftz a) (IFmt.source .fp16 e.ftz b))) ∧
  FloatLane2 tyF16 false .fsubF16 (fun e a b => IFmt.result .fp16 e.rm e.ftz (.add e.rm (IFmt.source .fp16 e.ftz a) (IFmt.source .fp16 e.ftz b).neg)) ∧
  FloatLane2 tyF16 false .fmulF16 (fun e a b => IFmt.result .fp16 e.rm e.ftz (.mul (IFmt.source .fp16 e.ftz a) (IFmt.source .fp16 e.ftz b))) ∧
  FloatLane3 tyF16 .fmaF16 (fun e a b c => IFmt.result .fp16 e.rm e.ftz (.add e.rm (.mul (IFmt.source .fp16 e.ftz a) (IFmt.source .fp16 e.ftz b)) (IFmt.source .fp16 e.ftz c))) ∧
  FloatLane2 tyF16 false .fminF16 (fun e a b => fMinMax .fp16 false e.ftz a b) ∧
  FloatLane2 tyF16 false .fmaxF16 (fun e a b => fMinMax .fp16 true e.ftz a b) ∧
  FloatLane1 tyF16 false .fnegF16 (fun _ a => fNeg .fp16 a) ∧
  FloatLane1 tyF16 false .fabsF16 (fun _ a => a % 2 ^ ((IFmt.width .fp16) - 1))) ∧
  (FloatLane2 tyF32 true .fdivF32 (fun e a b => IFmt.result .fp32 e.rm e.ftz (.div (IFmt.source .fp32 e.ftz a) (IFmt.source .fp32 e.ftz b))) ∧
  FloatLane1 tyF32 true .fsqrtF32 (fun e a => IFmt.result .fp32 e.rm e.ftz (.sqrt 28 (IFmt.source .fp32 e.ftz a))) ∧
  FloatLane1 tyF32 true .frcpF32 (fun e a => IFmt.result .fp32 e.rm e.ftz (.div (.fin false 1 1) (IFmt.source .fp32 e.ftz a))) ∧
  FloatLane1 tyF32 true .frsqF32 (fun e a => IFmt.result .fp32 e.rm e.ftz (.rsqrt 28 (IFmt.source .fp32 e.ftz a))) ∧
  FloatLane2 tyF64 true .fdivF64 (fun e a b => IFmt.result .fp64 e.rm e.ftz (.div (IFmt.source .fp64 e.ftz a) (IFmt.source .fp64 e.ftz b))) ∧
  FloatLane1 tyF64 true .fsqrtF64 (fun e a => IFmt.result .fp64 e.rm e.ftz (.sqrt 57 (IFmt.source .fp64 e.ftz a))) ∧
  FloatLane1 tyF64 true .frcpF64 (fun e a => IFmt.result .fp64 e.rm e.ftz (.div (.fin false 1 1) (IFmt.source .fp64 e.ftz a))) ∧
  FloatLane1 tyF64 true .frsqF64 (fun e a => IFmt.result .fp64 e.rm e.ftz (.rsqrt 57 (IFmt.source .fp64 e.ftz a))) ∧
  FloatLane1 tyF32 true .fex2F32 (fun e a => special32 exp2Cr e a) ∧
  FloatLane1 tyF32 true .flg2F32 (fun e a => special32 log2Cr e a) ∧
  FloatLane1 tyF32 true .fsinF32 (fun e a => special32 sinCr e a) ∧
  FloatLane1 tyF32 true .fcosF32 (fun e a => special32 cosCr e a) ∧
  FloatLane1 tyF32 true .ferfF32 (fun e a => special32 erfCr e a)) ∧
  (∀ fmt ∈ [IFmt.fp64, .fp32, .bf16, .fp16],
    (∀ b < 2 ^ fmt.width, let mag := b % 2 ^ (fmt.width - 1)
      let neg := b.testBit (fmt.width - 1)
      (fmt.infBits < mag → fmt.decode b = .nan) ∧ (mag = fmt.infBits → fmt.decode b = .inf neg) ∧
      (mag = 0 → fmt.decode b = .zero neg) ∧
      (0 < mag → mag < fmt.infBits → (fmt.decode b).Proper ∧ (fmt.decode b).sign = neg ∧ |(fmt.decode b).rat| = fmt.mag mag)) ∧
    (∀ (m : RMode) (neg : Bool) (n d : Nat), 0 < n → 0 < d →
      let q : ℚ := n / d
      ∃ b, fmt.encode m (.fin neg n d) = b + (if neg then 2 ^ (fmt.width - 1) else 0) ∧
        fmt.Rounds m neg b (fmt.mag · ≤ q) (fmt.mag · < q) (fun c => |q - fmt.mag b| ≤ |q - fmt.mag c|)
          fun c => |q - fmt.mag b| = |q - fmt.mag c|) ∧
    (∀ (m : RMode) (n d : Nat), 0 < n → 0 < d →
      let roots := fun (b : Nat) (q : ℚ) => fmt.Rounds m false b (fmt.mag · ^ 2 ≤ q) (fmt.mag · ^ 2 < q)
        (fun c => (c < b → ((fmt.mag b + fmt.mag c) / 2) ^ 2 ≤ q) ∧ (b < c → q ≤ ((fmt.mag b + fmt.mag c) / 2) ^ 2)) fun _ => False
      roots (fmt.encode m (.sqrt (fmt.mbits + 5) (.fin false n d))) (n / d) ∧
      roots (fmt.encode m (.rsqrt (fmt.mbits + 5) (.fin false n d))) (d / n)) ∧
    (∀ (m : RMode) (neg : Bool), fmt.encode m .nan = fmt.infBits + 2 ^ (fmt.mbits - 1) ∧
      fmt.encode m (.inf neg) = fmt.infBits + (if neg then 2 ^ (fmt.width - 1) else 0) ∧
      fmt.encode m (.zero neg) = if neg then 2 ^ (fmt.width - 1) else 0) ∧
    (∀ (m : RMode) (ftz : Bool) (b : Nat) (v : FVal), let mag := b % 2 ^ (fmt.width - 1)
      fmt.flush ftz b = (if ftz = true ∧ 0 < mag ∧ mag < 2 ^ fmt.mbits then b - mag else b) ∧
      fmt.result m ftz v = fmt.flush ftz (fmt.encode m v) ∧ fmt.source ftz b = fmt.decode (fmt.flush ftz b)) ∧
    ∀ (most ftz : Bool) (a b : Nat), let r := fMinMax fmt most ftz a b
      let x := fmt.source ftz a
      let y := fmt.source ftz b
      (x.isNaN = true → y.isNaN = true → r = fmt.nanBits) ∧ (x.isNaN = true → y.isNaN = false → r = fmt.flush ftz b) ∧
      (x.isNaN = false → y.isNaN = true → r = fmt.flush ftz a) ∧
      (x.isNaN = false → y.isNaN = false → (r = fmt.flush ftz a ∨ r = fmt.flush ftz b) ∧
        (∀ z ∈ [x, y], (if most then (fmt.decode r).lt z else z.lt (fmt.decode r)) = false) ∧
        (x.isZero = true → y.isZero = true → (fmt.decode r).sign = if most then x.sign && y.sign else x.sign || y.sign))) ∧
  (∀ (m : RMode) (x y : FVal), x.Proper → y.Proper →
    ((FVal.add m x y).Proper ∧ (FVal.add m x y).rat = x.rat + y.rat ∧ (x.rat + y.rat = 0 → (FVal.add m x y).sign =
      if x.isZero = true ∧ y.isZero = true ∧ x.sign = y.sign then x.sign else m == .rdn)) ∧
    ((FVal.mul x y).Proper ∧ (FVal.mul x y).rat = x.rat * y.rat ∧ (FVal.mul x y).sign = (x.sign != y.sign)) ∧
    (y.rat ≠ 0 → (FVal.div x y).Proper ∧ (FVal.div x y).rat = x.rat / y.rat ∧ (FVal.div x y).sign = (x.sign != y.sign)) ∧
    x.neg.rat = -x.rat ∧ x.neg.sign = !x.sign ∧ x.lt y = decide (x.rat < y.rat) ∧
    ∀ a b, FVal.add m (.inf a) (.inf b) = (if a = b then .inf a else .nan) ∧ FVal.add m (.inf a) x = .inf a ∧
      FVal.add m x (.inf a) = .inf a ∧ FVal.mul (.inf a) (.inf b) = .inf (a != b) ∧ FVal.mul (.inf a) (.zero b) = .nan ∧
      FVal.mul (.zero b) (.inf a) = .nan ∧ FVal.div (.inf a) (.inf b) = .nan ∧ FVal.div (.zero a) (.zero b) = .nan ∧
      FVal.div (.inf a) x = .inf (a != x.sign) ∧ FVal.div x (.inf a) = .zero (x.sign != a) ∧
      (x.rat ≠ 0 → FVal.mul (.inf a) x = .inf (a != x.sign) ∧ FVal.mul x (.inf a) = .inf (x.sign != a) ∧
        FVal.div x (.zero a) = .inf (x.sign != a)))

/-- R210, R211, R221: comparison, classes and the non-zero mask. R215, R216: an element conversion, under format registers valid for the
widths it uses (R48). -/
def Obligations.FloatTestAndConversionResults : Prop :=
  ((∀ m fn d a b, MaskForm (.fcmpF64 m fn d a b) m (fun _ => [.v a.toNat 2, .v b.toNat 2]) d.toNat fun f v =>
    fCmp .fp64 fn.toNat f.b.ftz (v.getD 0 0 % 2 ^ 64) (v.getD 1 0 % 2 ^ 64)) ∧
  (∀ m fn d a b, MaskForm (.fcmpF32 m fn d a b) m (fun _ => [.v a.toNat 1, .v b.toNat 1]) d.toNat fun f v =>
    fCmp .fp32 fn.toNat f.b.ftz (v.getD 0 0 % 2 ^ 32) (v.getD 1 0 % 2 ^ 32)) ∧
  (∀ m fn d a b, MaskForm (.fcmpBf16 m fn d a b) m (fun _ => [.v a.toNat 1, .v b.toNat 1]) d.toNat fun f v =>
    fCmp .bf16 fn.toNat f.b.ftz (v.getD 0 0 % 2 ^ 16) (v.getD 1 0 % 2 ^ 16)) ∧
  (∀ m fn d a b, MaskForm (.fcmpF16 m fn d a b) m (fun _ => [.v a.toNat 1, .v b.toNat 1]) d.toNat fun f v =>
    fCmp .fp16 fn.toNat f.b.ftz (v.getD 0 0 % 2 ^ 16) (v.getD 1 0 % 2 ^ 16)) ∧
  (∀ m d a, LaneForm (.fclass m 0 d a) m (fun _ => [.v a.toNat 2]) (.v d.toNat 1) false fun _ _ _ v => fClass .fp64 (v.getD 0 0)) ∧
  (∀ m d a, LaneForm (.fclass m 1 d a) m (fun _ => [.v a.toNat 1]) (.v d.toNat 1) false fun _ _ _ v => fClass .fp32 (v.getD 0 0)) ∧
  (∀ m d a, LaneForm (.fclass m 2 d a) m (fun _ => [.v a.toNat 1]) (.v d.toNat 1) false fun _ _ _ v =>
    fClass .bf16 (v.getD 0 0 % 2 ^ 16) + 2 ^ 16 * fClass .bf16 (v.getD 0 0 / 2 ^ 16 % 2 ^ 16)) ∧
  (∀ m d a, LaneForm (.fclass m 3 d a) m (fun _ => [.v a.toNat 1]) (.v d.toNat 1) false fun _ _ _ v =>
    fClass .fp16 (v.getD 0 0 % 2 ^ 16) + 2 ^ 16 * fClass .fp16 (v.getD 0 0 / 2 ^ 16 % 2 ^ 16)) ∧
  (∀ m (fn : BitVec 3) d a, fn.toNat ≤ 4 →
    LaneForm (.vnzmask m fn d a) m (fun _ => [.v a.toNat (if fn = 4 then 2 else 1)]) (.v d.toNat 1) false fun s f _ v =>
      let w := 4 * 2 ^ fn.toNat
      let sgn := (s.fmtReg f.a f.p.fmt.toNat).getLsbD 13
      let hot := (List.range ((if fn = 4 then 64 else 32) / w)).filter fun i => !elemZero sgn w (v.getD 0 0 / 2 ^ (w * i) % 2 ^ w)
      hot.length * 2 ^ 16 + maskOf hot)) ∧
  (∀ (m : Mods) (d a : BitVec 7) (t u : BitVec 5) (s : State) (f : Frame) (x : Nat → Nat), f.Ready s m →
    f.Fits [.v a.toNat (typeRegs u.toNat), .v d.toNat (typeRegs t.toNat)] →
    f.Reads [.v a.toNat (typeRegs u.toNat)] (fun l => [x l]) →
    (∀ n w, (n, w) ∈ cvtFormats f.p.fmt.toNat (cvtTy t.toNat) (cvtTy u.toNat) → (s.nf f n).validFor w = true) →
    let src := cvtTy u.toNat
    let dst := cvtTy t.toNat
    let uses := cvtFormats f.p.fmt.toNat dst src
    f.Completes s (.fcvt m d a t u) false
      ((f.lanes.flatMap fun l => f.put l (.v d.toNat (typeRegs t.toNat))
        (packElems dst.width ((List.range (max 1 (32 / max src.width dst.width))).map fun i =>
          cvtElem f.fenv f.nfToZero (s.nf f (uses.headD (0, 0)).1) (s.nf f (uses.getLastD (0, 0)).1) dst src
            (x l / 2 ^ (src.width * i) % 2 ^ src.width)))) ++ f.zeroes (.v d.toNat (typeRegs t.toNat))))

/-- R217 to R220: scaled packing and unpacking take byte SEL of their block's first lane; `fscale` puts the block's scale there. -/
def Obligations.ScaledPackResults : Prop :=
  (∀ (m : Mods) (fn : BitVec 3) (d a b : BitVec 7) (s : State) (f : Frame) (x c : Nat → Nat) (z : Nat → Nat), f.Ready s m →
    f.Fits [.v a.toNat 1, .v (f.c d.toNat) 1, .v b.toNat 1, .v d.toNat 1] →
    (s.nf f f.p.fmt.toNat).validFor (nfWidth fn) = true →
    f.Reads [.v a.toNat 1, .v (f.c d.toNat) 1] (fun l => [x l, c l]) →
    (∀ l ∈ f.lanes, f.value (l / 8 * 8) (.v b.toNat 1) = some (z l)) →
    f.Completes s (.fpack m fn d a b) false
      ((f.lanes.flatMap fun l => f.put l (.v d.toNat 1)
        (packWord (fn.getLsbD 1) (nfWidth fn) (s.nf f f.p.fmt.toNat) f.nfToZero (z l / 2 ^ (8 * f.p.sel.toNat) % 2 ^ 8) (x l) (c l))) ++
        f.zeroes (.v d.toNat 1))) ∧
  (∀ (m : Mods) (fn : BitVec 3) (d a b : BitVec 7) (s : State) (f : Frame) (x : Nat → Nat) (z : Nat → Nat), f.Ready s m →
    f.Fits [.v a.toNat 1, .v b.toNat 1, .v d.toNat 1] →
    (s.nf f f.p.fmt.toNat).validFor (nfWidth fn) = true →
    f.Reads [.v a.toNat 1] (fun l => [x l]) →
    (∀ l ∈ f.lanes, f.value (l / 8 * 8) (.v b.toNat 1) = some (z l)) →
    f.Completes s (.funpk m fn d a b) false
      ((f.lanes.flatMap fun l => f.put l (.v d.toNat 1)
        (unpackWord (fn.getLsbD 1) (nfWidth fn) (s.nf f f.p.fmt.toNat) f.mode (z l / 2 ^ (8 * f.p.sel.toNat) % 2 ^ 8) (x l))) ++
        f.zeroes (.v d.toNat 1))) ∧
  (∀ (m : Mods) (fn : BitVec 3) (d a b : BitVec 7) (s : State) (f : Frame) (x y : Nat → Nat), f.Ready s m →
    f.Fits [.v a.toNat 1, .v b.toNat 1, .v d.toNat 1] →
    (s.nf f f.p.fmt.toNat).validFor (nfWidth fn) = true →
    f.Reads [.v a.toNat 1, .v b.toNat 1] (fun l => [x l, y l]) →
    (∀ l ∈ f.lanes, (f.value (l / 8 * 8) (.v b.toNat 1)).isSome = true) →
    f.Completes s (.fscale m fn d a b) false
      ((f.lanes.flatMap fun l =>
        let sh := 8 * f.p.sel.toNat
        let byte := blockScale (s.nf f f.p.fmt.toNat) ((f.lanes.filter fun k => k / 8 == l / 8).map x)
        f.put l (.v d.toNat 1)
          (if l % 8 = 0 then y l - y l / 2 ^ sh % 2 ^ 8 * 2 ^ sh + byte * 2 ^ sh else y l)) ++ f.zeroes (.v d.toNat 1)))

/-- R41, R210: an arithmetic result of a NaN operand is the canonical NaN of the format, and a comparison with one is unordered: only `ne`
and `un` hold. R40, R42: a value that the format holds is unchanged by rounding, in every mode. -/
def Obligations.NanOperandsAndHeldValues : Prop :=
  (∀ (fmt : IFmt) (e : FEnv) (a b : Nat), fmt ∈ [IFmt.fp64, .fp32, .bf16, .fp16] →
    ((fmt.source e.ftz a).isNaN = true ∨ (fmt.source e.ftz b).isNaN = true) →
    fAdd fmt e a b = fmt.nanBits ∧ fSub fmt e a b = fmt.nanBits ∧ fMul fmt e a b = fmt.nanBits ∧ fDiv fmt e a b = fmt.nanBits ∧
    (∀ c, fFma fmt e a b c = fmt.nanBits) ∧
    ∀ cond, cond ≤ 6 → fCmp fmt cond e.ftz a b = decide (cond = 1 ∨ cond = 6)) ∧
  (∀ (fmt : IFmt) (rm : RMode) (b : Nat), fmt ∈ [IFmt.fp64, .fp32, .bf16, .fp16] → b < 2 ^ fmt.width →
    (fmt.decode b).isNaN = false → fmt.encode rm (fmt.decode b) = b)

/-- R301, R304, R307, R308, R314, R315, R326, R328: what the vector loads write; memory is unchanged. R249, R250, R272: a core that holds
lines and has writes under way sees the held line's word, or else its own latest write. `ldg.split` completes its near lanes, and parks the
far ones under one record while the path goes on; that a lane of a section, or one under `beamctl.ORD` = 1, is always near is the model's
reading (log entries 16 and 38). -/
def Obligations.LoadResults : Prop :=
  (∀ m d a r (w : BitVec 3) p, w.toNat ≤ 4 → LoadForm (.ld m d a r w p) m [.s a.toNat] (.v d.toNat (widthRegs w.toNat)) (2 ^ w.toNat)
    (strided (2 ^ w.toNat) p.toInt) (fun _ _ => True) (loadOut d.toNat (2 ^ w.toNat))) ∧
  (∀ m (w : BitVec 3) d a b, w.toNat ≤ 4 → LoadForm (.ldIndexed m w d a b) m [.s a.toNat, .v b.toNat 1]
    (.v d.toNat (widthRegs w.toNat)) (2 ^ w.toNat) indexed (fun _ _ => True) (loadOut d.toNat (2 ^ w.toNat))) ∧
  (∀ m d a c (w : BitVec 2) p, w.toNat ≤ 1 → LoadForm (.ldAcq m d a c w p) m [.s a.toNat] (.v d.toNat (widthRegs (w.toNat + 2)))
    (2 ^ (w.toNat + 2)) (strided (2 ^ (w.toNat + 2)) p.toInt) (fun _ _ => True) (loadOut d.toNat (2 ^ (w.toNat + 2)))) ∧
  (∀ m d a r (w : BitVec 3) p, w.toNat ≤ 4 → WarmLoadForm (.ld m d a r w p) m [.s a.toNat] (.v d.toNat (widthRegs w.toNat)) (2 ^ w.toNat)
    (strided (2 ^ w.toNat) p.toInt) (loadOut d.toNat (2 ^ w.toNat))) ∧
  (∀ m (w : BitVec 3) d a b, w.toNat ≤ 4 → WarmLoadForm (.ldIndexed m w d a b) m [.s a.toNat, .v b.toNat 1]
    (.v d.toNat (widthRegs w.toNat)) (2 ^ w.toNat) indexed (loadOut d.toNat (2 ^ w.toNat))) ∧
  (∀ (m : Mods) (w : BitVec 3) (d : BitVec 7) (a : BitVec 6) (b : BitVec 7) (s : State) (f : Frame) (x : Nat → List Nat) (p : Nat → Page)
    (ws : Nat → List RegWrite), w.toNat ≤ 4 → f.Ready s m → f.Fits [.v b.toNat 1, .v d.toNat (widthRegs w.toNat)] →
    f.Reads [.s a.toNat, .v b.toNat 1] x → f.Steady s → f.lantern = false → f.b.parked = [] →
    let va := fun (l : Nat) => indexed l (x l)
    let far := f.lanes.filter fun l => (p l).cached && !s.Holds f.pl.core (p l).loc
    let near := f.lanes.filter fun l => !((p l).cached && !s.Holds f.pl.core (p l).loc)
    f.Reaches s .load (2 ^ w.toNat) va p →
    (∀ l ∈ f.lanes, (p l).loc % 64 = va l % 64 ∧ ((p l).cached = false → s.Holds f.pl.core (p l).loc = false)) →
    (∀ l ∈ near, loadOut d.toNat (2 ^ w.toNat) s f l (va l)
      (s.coreRange f.pl.core (wordLoc (p l).loc) (wordsIn (2 ^ w.toNat))) = some (ws l)) →
    ∃ t b', exec (.ldgSplit m w d a b) s = .next t ∧ t.beam? f.a = some b' ∧
      b'.parked = (if far = [] then [] else
        [(0, ⟨.split (far.map fun l => (l, va l)) (f.b.wb + d.toNat) w.toNat, f.i.pc, f.i.pri, maskOf far, f.i.prefixed, f.i.words⟩)]) ∧
      b'.outstanding = (f.wrote true (near.flatMap ws ++ f.zeroes (.v d.toNat (widthRegs w.toNat)))).outstanding ∧
      b'.s = f.b.s ∧ b'.k = f.b.k ∧ b'.lanes = f.b.lanes ∧
      (∀ l q k, Stands b'.frontier l q k ↔
        if l ∈ far then q = f.i.pc ∧ k = .parked 0
        else if f.i.lanes.testBit l then q = f.i.next % 2 ^ 72 ∧ k = .runnable else Stands f.b.frontier l q k) ∧
      (∀ c, c ≠ f.a → t.beam? c = s.beam? c) ∧ f.SeesSame s t) ∧
  (∀ m (w : BitVec 3) d a b, w.toNat ≤ 4 → LoadForm (.ldgSplit m w d a b) m [.s a.toNat, .v b.toNat 1]
    (.v d.toNat (widthRegs w.toNat)) (2 ^ w.toNat) indexed (fun f p => f.lantern = true ∨ p.cached = false ∨ f.ordered = true)
    (loadOut d.toNat (2 ^ w.toNat))) ∧
  (∀ m d a b, LoadForm (.cchk m d a b) m [.s a.toNat, .v b.toNat 1] (.v d.toNat 1) 4 indexed (fun _ _ => True)
    fun _ f l _ ws => some (f.put l (.v d.toNat 1) (lccDescribe (ws.headD .zero)))) ∧
  (∀ m fn d a b, LoadForm (.nzcnt m fn d a b) m [.s a.toNat, .v b.toNat 1] (.v d.toNat 1) 64 indexed (fun _ _ => True)
    fun s f l _ ws =>
      let sgn := (s.fmtReg f.a f.p.fmt.toNat).getLsbD 13
      (checkedData ws).map fun ds => f.put l (.v d.toNat 1) (ds.map (nzElems sgn (4 * 2 ^ (fn.toNat - 2)))).sum)

/-- R301, R304, R306, R307, R314: what the vector stores leave in memory as their core sees it; R249, R250, R272: also where the core holds
lines and has writes under way. -/
def Obligations.StoreResults : Prop :=
  (∀ m d a r (w : BitVec 3) p, w.toNat ≤ 4 → StoreForm (.st m d a r w p) m [.s a.toNat] [.v d.toNat (widthRegs w.toNat)] (2 ^ w.toNat)
    (strided (2 ^ w.toNat) p.toInt) (storeNew d.toNat (2 ^ w.toNat))) ∧
  (∀ m (w : BitVec 3) d a b, w.toNat ≤ 4 → StoreForm (.stIndexed m w d a b) m [.s a.toNat, .v b.toNat 1] [.v d.toNat (widthRegs w.toNat)]
    (2 ^ w.toNat) indexed (storeNew d.toNat (2 ^ w.toNat))) ∧
  (∀ m d a r (w : BitVec 3) p, w.toNat ≤ 4 → WarmStoreForm (.st m d a r w p) m [.s a.toNat] [.v d.toNat (widthRegs w.toNat)]
    (2 ^ w.toNat) (strided (2 ^ w.toNat) p.toInt) (storeNew d.toNat (2 ^ w.toNat))) ∧
  (∀ m (w : BitVec 3) d a b, w.toNat ≤ 4 → WarmStoreForm (.stIndexed m w d a b) m [.s a.toNat, .v b.toNat 1]
    [.v d.toNat (widthRegs w.toNat)] (2 ^ w.toNat) indexed (storeNew d.toNat (2 ^ w.toNat))) ∧
  (∀ m d a c (w : BitVec 2) p, w.toNat ≤ 1 → StoreForm (.stRel m d a c w p) m [.s a.toNat] [.v d.toNat (widthRegs (w.toNat + 2))]
    (2 ^ (w.toNat + 2)) (strided (2 ^ (w.toNat + 2)) p.toInt) (storeNew d.toNat (2 ^ (w.toNat + 2))))

/-- R310: a scratchpad load gives each active lane the words at its offset, as the threads see them. R310: a scratchpad store changes the
words its lanes store to, in ascending lane order, for the threads' later reads, and nothing else of memory. -/
def Obligations.ScratchResults : Prop :=
  (∀ (m : Mods) (d : BitVec 7) (a : BitVec 6) (w : BitVec 3) (p : BitVec 6) (s : State) (f : Frame) (x : Nat) (g : Wg)
    (ws : Nat → List RegWrite), w.toNat ≤ 4 → f.Ready s m → f.Fits [.v d.toNat (widthRegs w.toNat)] → f.lantern = false →
    f.value f.elected (.s a.toNat) = some x → s.wg? f.pl.wg = some g → g.scratch.wf = true →
    let off := fun l => scratchOff (2 ^ w.toNat) p.toInt l x
    (∀ y ∈ g.pool, y.off % 4 = 0) →
    (∀ l ∈ f.lanes, off l % 2 ^ w.toNat = 0 ∧ off l < g.sp * 16384 ∧
      loadOut d.toNat (2 ^ w.toNat) s f l (off l)
        ((List.range (wordsIn (2 ^ w.toNat))).map fun i => g.scratchWord (wordLoc (off l) + 4 * i)) = some (ws l)) →
    ∃ t g', exec (.lds m d a w p) s = .next t ∧
      f.Moves s t (f.wrote true (f.lanes.flatMap ws ++ f.zeroes (.v d.toNat (widthRegs w.toNat)))) ∧
      s.SameWg t f.pl.wg g g' ∧ s.SameMemory t ∧ ∀ y, y % 4 = 0 → g'.scratchWord y = g.scratchWord y) ∧
  (∀ (m : Mods) (d : BitVec 7) (a : BitVec 6) (w : BitVec 3) (p : BitVec 6) (s : State) (f : Frame) (x : Nat) (g : Wg)
    (v : Nat → CW), w.toNat ≤ 4 → f.Ready s m → f.Fits [.v d.toNat (widthRegs w.toNat)] → f.lantern = false →
    f.value f.elected (.s a.toNat) = some x → s.wg? f.pl.wg = some g → g.scratch.wf = true →
    let off := fun l => scratchOff (2 ^ w.toNat) p.toInt l x
    (∀ y ∈ g.pool, y.off % 4 = 0) → (∀ l ∈ f.lanes, off l % 2 ^ w.toNat = 0 ∧ off l < g.sp * 16384) →
    storeSeq (2 ^ w.toNat) (fun l => wordLoc (off l)) (fun l => storeNew d.toNat (2 ^ w.toNat) s f l (off l)) f.lanes
      g.scratchWord = some v →
    ∃ t g', exec (.sts m d a w p) s = .next t ∧ f.Moves s t f.b.endPause ∧ s.SameWg t f.pl.wg g g' ∧ s.SameMemory t ∧
      ∀ y, y % 4 = 0 → g'.scratchWord y = v y)

/-- R311, R312, R327: the scalar loads and stores, also where the core holds lines and has writes under way (R249, R272), and code injection,
which a context must grant. That `cinj` leaves the pause-loop count, which every store clears, as it was is the model's reading (log entry
34). -/
def Obligations.ScalarMemoryResults : Prop :=
  (∀ m d a (w : BitVec 3) p, w.toNat ≤ 3 → OnceLoad (.ldp m d a w p) m d.toNat a.toNat (2 ^ w.toNat) (wordsIn (2 ^ w.toNat))
    (unitAddr (2 ^ w.toNat) p.toInt) (loadScalar (2 ^ w.toNat))) ∧
  (∀ m d a p, OnceLoad (.ldA72 m d a p) m d.toNat a.toNat 16 3 (unitAddr 16 p.toInt) fun _ ws =>
    ((lccCheck (ws.getD 2 .zero)).data?).map fun t =>
      let b : Byte := t.setWidth 8
      ⟨b ++ (ws.getD 1 .zero).data ++ (ws.headD .zero).data, (ws.headD .zero).code, (ws.getD 1 .zero).code, lccMake (b.setWidth 32)⟩) ∧
  (∀ m d a (w : BitVec 3) p, w.toNat ≤ 3 → OnceStore (.stp m d a w p) m a.toNat (2 ^ w.toNat) (wordsIn (2 ^ w.toNat))
    (unitAddr (2 ^ w.toNat) p.toInt) (storeScalar d.toNat (2 ^ w.toNat))) ∧
  (∀ m d a (w : BitVec 3) p, w.toNat ≤ 3 → WarmOnceLoad (.ldp m d a w p) m d.toNat a.toNat (2 ^ w.toNat) (wordsIn (2 ^ w.toNat))
    (unitAddr (2 ^ w.toNat) p.toInt) (loadScalar (2 ^ w.toNat))) ∧
  (∀ m d a (w : BitVec 3) p, w.toNat ≤ 3 → WarmOnceStore (.stp m d a w p) m a.toNat (2 ^ w.toNat) (wordsIn (2 ^ w.toNat))
    (unitAddr (2 ^ w.toNat) p.toInt) (storeScalar d.toNat (2 ^ w.toNat))) ∧
  (∀ m d a p, OnceStore (.stA72 m d a p) m a.toNat 16 4 (unitAddr 16 p.toInt) fun f _ _ => some ((f.b.sreg d.toNat).words ++ [.zero])) ∧
  (∀ (m : Mods) (a : BitVec 6) (b : BitVec 7) (s : State) (f : Frame) (x flip : Nat) (p : Page), f.Ready s m →
    (((s.loadCtx f.pl.ctx).ctxEntry? f.pl.ctx).map (·.inj)) = some true →
    f.value f.elected (.s a.toNat) = some x → f.value f.elected (.s b.toNat) = some flip → f.Quiet s →
    f.ReachesOne s .store 4 x p →
    ∃ t, exec (.cinj m a b) s = .next t ∧ f.Moves s t f.b ∧
      ∀ y, y % 4 = 0 → s.resolve y = y →
        t.homeWord y = if y = wordLoc p.loc then
          ⟨(s.homeWord y).data ^^^ .ofNat 32 flip, (s.homeWord y).code ^^^ .ofNat 8 (flip / 2 ^ 32)⟩ else s.homeWord y)

/-- R318: every active lane's word of the block, then one increment of the flag's word under a fresh code. -/
def Obligations.FlaggedStoreResult : Prop :=
  ∀ (m : Mods) (fn : BitVec 3) (d : BitVec 7) (a b : BitVec 6) (s : State) (f : Frame) (block flag : Nat) (bp fp : Page) (n : Word),
    f.Ready s m → f.Fits [.v d.toNat 1] → f.value f.elected (.s a.toNat) = some block → f.value f.elected (.s b.toNat) = some flag →
    f.Quiet s → f.ReachesOne s .store (4 * (if f.lantern then 1 else f.b.width)) block bp → f.ReachesOne s .store 4 flag fp →
    f.lanes.all (fun l => decide (l < if f.lantern then 1 else f.b.width)) = true →
    let blockView := f.lanes.foldl (fun v l => putView v (bp.loc + 4 * l) [f.b.vreg l (f.b.wb + d.toNat)]) (s.coreWord f.pl.core)
    (lccCheck (blockView (wordLoc fp.loc))).data? = some n →
    ∃ t, exec (.stf m fn d a b) s = .next t ∧ f.Moves s t f.b.endPause ∧
      ∀ y, y % 4 = 0 → s.resolve y = y →
        t.coreWord f.pl.core y = putView blockView (wordLoc fp.loc) [CW.make (n + 1)] y

/-- R320, R321: what the atomics return and what they leave: old value to the register, new value under a fresh code; R272: a relaxed one
also where the core holds lines and has writes under way, which go home before it. R320: addition,
minimum and maximum of each arithmetic type: 0 s32, 1 z32, 3 s64, 4 z64 wrap or compare as integers; 2 f32 and 5 f64 round to nearest with
subnormals honoured. -/
def Obligations.AtomicResults : Prop :=
  (let rmw := fun (d : Nat) (n : Nat) (g : Nat → Nat → Nat) (f : Frame) (l : Nat) (mem : List CW) =>
    match dataOf mem, f.value l (.v d n) with
    | some x, some v => some (f.put l (.v d n) x, some ((wordsOfNat n (g x v)).map CW.make))
    | _, _ => none
  let atom := fun (mk : Mods → BitVec 3 → BitVec 7 → BitVec 7 → BitVec 3 → BitVec 4 → Instr) (g : Nat → Nat → Nat → Nat) =>
    ∀ m (t : BitVec 3) (d a : BitVec 7) o (b : BitVec 4), let n := if t ∈ [3, 4, 5, 7] then 2 else 1
      AtomForm (mk m t d a o b) m [.s b.toNat, .v a.toNat 1] (fun _ => []) (.v d.toNat n) n indexed (fun _ => True)
        (rmw d.toNat n (g t.toNat)) ∧
      WarmAtomForm (mk m t d a 0 b) m [.s b.toNat, .v a.toNat 1] (fun _ => []) (.v d.toNat n) n indexed (fun _ => True)
        (rmw d.toNat n (g t.toNat))
  atom .atomAdd atomSum ∧ atom .atomMin (atomPick false) ∧ atom .atomMax (atomPick true) ∧
  atom .atomAnd (fun _ x v => x &&& v) ∧ atom .atomOr (fun _ x v => x ||| v) ∧ atom .atomXor (fun _ x v => x ^^^ v) ∧
  atom .atomExch (fun _ _ v => v) ∧
  (∀ m (t : BitVec 3) (d a : BitVec 7) o (b : BitVec 4), let n := if t ∈ [3, 4, 5, 7] then 2 else 1
    let cas := fun (f : Frame) (l : Nat) (mem : List CW) =>
        match dataOf mem, f.value l (.v d.toNat n), f.value l (.v (f.c d.toNat) n) with
        | some x, some v, some k =>
          some (f.put l (.v d.toNat n) x, if x = k then some ((wordsOfNat n v).map CW.make) else none)
        | _, _, _ => none
    AtomForm (.atomCas m t d a o b) m [.s b.toNat, .v a.toNat 1] (fun f => [.v (f.c d.toNat) n]) (.v d.toNat n) n indexed
      (fun _ => True) cas ∧
    WarmAtomForm (.atomCas m t d a 0 b) m [.s b.toNat, .v a.toNat 1] (fun f => [.v (f.c d.toNat) n]) (.v d.toNat n) n indexed
      (fun _ => True) cas) ∧
  (∀ m (t : BitVec 3) (d a : BitVec 7) o (b : BitVec 4), (t = 0 ∨ t = 2) →
    AtomForm (.atombAdd m t d a o b) m [.s b.toNat, .s (b.toNat + 1), .v a.toNat 1] (fun _ => []) (.v d.toNat 1) 1
      (fun _ v => wrap 72 ((v.getD 0 0 : Int) + 4 * (v.getD 2 0 : Nat))) (fun v => v.getD 2 0 < v.getD 1 0 % 2 ^ 64)
      (rmw d.toNat 1 (atomSum t.toNat)))) ∧
  (∀ x v : Nat,
    (x < 2 ^ 32 → v < 2 ^ 32 →
      atomSum 0 x v = (x + v) % 2 ^ 32 ∧ atomSum 1 x v = (x + v) % 2 ^ 32 ∧
      atomPick false 1 x v = min x v ∧ atomPick true 1 x v = max x v ∧
      ((BitVec.ofNat 32 (atomPick false 0 x v)).toInt = min (BitVec.ofNat 32 x).toInt (BitVec.ofNat 32 v).toInt) ∧
      ((BitVec.ofNat 32 (atomPick true 0 x v)).toInt = max (BitVec.ofNat 32 x).toInt (BitVec.ofNat 32 v).toInt) ∧
      (∀ b, atomPick b 2 x v = fMinMax .fp32 b false x v) ∧
      atomSum 2 x v = IFmt.result .fp32 .rne false (.add .rne (IFmt.source .fp32 false x) (IFmt.source .fp32 false v))) ∧
    (x < 2 ^ 64 → v < 2 ^ 64 →
      atomSum 3 x v = (x + v) % 2 ^ 64 ∧ atomSum 4 x v = (x + v) % 2 ^ 64 ∧
      atomPick false 4 x v = min x v ∧ atomPick true 4 x v = max x v ∧
      ((BitVec.ofNat 64 (atomPick false 3 x v)).toInt = min (BitVec.ofNat 64 x).toInt (BitVec.ofNat 64 v).toInt) ∧
      ((BitVec.ofNat 64 (atomPick true 3 x v)).toInt = max (BitVec.ofNat 64 x).toInt (BitVec.ofNat 64 v).toInt) ∧
      (∀ b, atomPick b 5 x v = fMinMax .fp64 b false x v) ∧
      atomSum 5 x v = IFmt.result .fp64 .rne false (.add .rne (IFmt.source .fp64 false x) (IFmt.source .fp64 false v))))

/-- R226, R228, R230 to R232: what the moment arithmetic writes where no variance is refused (its helpers are rounded by log entry 5). R234
to R238: moves, conversions and collapses. R61, R62: the sequences, each operation rounded once, and the check of a variance below zero; at
a mean of −infinity the exponential, and at an infinite or zero variance the sigmoid, take the values of R233's table, where the sequences give
NaN: the model's reading (log entry 50). -/
def Obligations.MomentRegisterResults : Prop :=
  (Mom2 .madd (momAdd false) ∧ Mom2 .msub (momAdd true) ∧ Mom2 .mmul momMul ∧
  (∀ m d a b, MomForm (.mscale m d a b) m (fun _ => [.m a.toNat, .v b.toNat 1]) (.m d.toNat) false fun f v =>
    (inVar f.b.nvc (varOf (v.getD 0 0))).bind fun x =>
      outMom f.b.nvc (momScale (widen32 (meanOf (v.getD 0 0))) (varIn x) (widen32 (v.getD 1 0)))) ∧
  Mom1 .mrelu true (fun _ => true) momRelu ∧ Mom1 .mexp true (fun _ => true) momExp ∧ Mom1 .msigm true (fun _ => true) momSigm ∧
  Mom1 .mrcp true (fun mean => mean % 2 ^ 31 != 0) momRcp) ∧
  ((∀ m d a b, MomForm (.mset m d a b) m (fun _ => [.v a.toNat 1, .v b.toNat 1]) (.m d.toNat) false fun _ v =>
    some (v.getD 0 0 + 2 ^ 32 * v.getD 1 0)) ∧
  (∀ m d a, MomForm (.mmov m d a) m (fun _ => [.m a.toNat]) (.m d.toNat) false fun _ v => some (v.getD 0 0)) ∧
  (∀ m d a, MomForm (.mcvtMomMb16 m d a) m (fun _ => [.v a.toNat 1]) (.m d.toNat) false fun f v =>
    (inVar f.b.nvc (mb16Widen (v.getD 0 0)).2).map (momOf (mb16Widen (v.getD 0 0)).1)) ∧
  MomToWord .mcvtMb16Mom mb16Narrow ∧
  MomToWord .mcolMean (fun mean _ => canonical32 mean) ∧ MomToWord .mcolVar (fun _ var => if var = IFmt.fp32.signBit then 0 else canonical32 var) ∧
  MomToWord .mcolSd (fun _ var => momSd var) ∧
  (∀ m d a b, MomForm (.mcolSmp m d a b) m (fun _ => [.m a.toNat, .v b.toNat 1]) (.v d.toNat 1) false fun f v =>
    (inVar f.b.nvc (varOf (v.getD 0 0))).map fun var => momSample (meanOf (v.getD 0 0)) var (v.getD 1 0))) ∧
  (let dec := IFmt.fp64.decode
  let rnd := IFmt.fp64.encode .rne
  let add := fun (a b : Nat) => rnd (.add .rne (dec a) (dec b))
  let sub := fun (a b : Nat) => rnd (.add .rne (dec a) (dec b).neg)
  let mul := fun (a b : Nat) => rnd (.mul (dec a) (dec b))
  let div := fun (a b : Nat) => rnd (.div (dec a) (dec b))
  let root := fun (a : Nat) => rnd (.sqrt 57 (dec a))
  let mag := fun (a : Nat) => a % 2 ^ 63
  let one := 0x3FF0000000000000
  let two := 0x4000000000000000
  let eight := 0x4020000000000000
  let half := 0x3FE0000000000000
  ∀ mua va mub vb c mu v x : Nat,
    (momAdd false mua va mub vb c = ⟨add mua mub, add (add va vb) (mul two c), add (add va vb) (mul two (mag c))⟩ ∧
    momAdd true mua va mub vb c = ⟨sub mua mub, sub (add va vb) (mul two c), add (add va vb) (mul two (mag c))⟩ ∧
    (let s := add (add (add (mul va vb) (mul c c)) (mul (mul mua mua) vb)) (mul (mul mub mub) va)
      let t5 := mul (mul (mul two mua) mub) c
      momMul mua va mub vb c = ⟨add (mul mua mub) c, add s t5, add s (mag t5)⟩) ∧
    momScale mu v x = ⟨mul mu x, mul v (mul x x), mul v (mul x x)⟩ ∧
    (let z := div mu (root v)
      let p := phiUpperCr (dec z)
      let d := phiLowerCr (dec z)
      let m := add (mul mu p) (mul (root v) d)
      let g := add (mul (add (mul mu mu) v) p) (mul (mul mu (root v)) d)
      (v ≠ 0 → momRelu mu v = ⟨m, sub g (mul m m), g⟩) ∧
      momRelu mu 0 = ⟨if (dec mu).isNaN then IFmt.fp64.nanBits else if (FVal.zero false).lt (dec mu) then mu else 0, 0, 0⟩) ∧
    (let m := expCr (dec (add mu (mul v half)))
      let w := mul (mul (expm1Cr (dec v)) m) m
      (dec mu ≠ .inf true ∨ IFmt.fp64.infBits ≤ v → momExp mu v = ⟨m, w, w⟩) ∧ (dec mu = .inf true → v < IFmt.fp64.infBits → mu < 2 ^ 64 → momExp mu v = ⟨0, 0, 0⟩)) ∧
    (let k := rsqrtCr (dec (add one (div (mul 0x400921FB54442D18 v) eight)))
      let m := sigmCr (dec (mul k mu))
      let w := mul (mul m (sub one m)) (sub one k)
      (v ≠ IFmt.fp64.infBits → v ≠ 0 → momSigm mu v = ⟨m, w, w⟩) ∧ momSigm mu 0 = ⟨sigmCr (dec (mul (rsqrtCr (dec (add one (div (mul 0x400921FB54442D18 0) eight)))) mu)), 0, 0⟩ ∧
      momSigm mu IFmt.fp64.infBits = ⟨half, 0x3FD0000000000000, 0x3FD0000000000000⟩) ∧
    (let inv := div one mu
      let sq := mul inv inv
      momRcp mu v = ⟨add inv (mul v (mul sq inv)), mul v (mul sq sq), mul v (mul sq sq)⟩)) ∧
    (∀ g w : Nat, let q := add (mul mu mu) g
      let o : MomOut := ⟨mu, w, g⟩
      ((dec w).isNaN = true ∨ (dec w).lt (.zero false) = false → varCheck o = .stands w) ∧
      ((dec w).isNaN = false → (dec w).lt (.zero false) = true →
        ((dec q).isNaN = false → (dec (mul 0x3EB0000000000000 q)).lt (dec w).neg = false → varCheck o = .cancelled) ∧
        ((dec q).isNaN = true ∨ (dec (mul 0x3EB0000000000000 q)).lt (dec w).neg = true → varCheck o = .negative))))

/-- R237: moment loads and stores carry both words; the MB16 forms check, convert and make the code. -/
def Obligations.MomentMemoryResults : Prop :=
  (∀ m d a fm p, let e := if fm = 0 then 8 else 4
    LoadForm (.mld m d a fm p) m [.s a.toNat] (.m d.toNat) e (strided e p.toInt) (fun _ _ => True) fun s f l _ ws =>
      if s.hasMoment f.pl = false then none
      else if fm = 0 then some [.m l d.toNat ⟨ws.headD .zero, ws.getD 1 .zero⟩]
      else ((lccCheck (ws.headD .zero)).data?).bind fun w =>
        (inVar f.b.nvc (mb16Widen w.toNat).2).map fun var => f.put l (.m d.toNat) (momOf (mb16Widen w.toNat).1 var)) ∧
  (∀ m d a fm p, let e := if fm = 0 then 8 else 4
    StoreForm (.mst m d a fm p) m [.s a.toNat] [.m d.toNat] e (strided e p.toInt) fun s f l _ _ =>
      if s.hasMoment f.pl = false then none
      else if fm = 0 then some [(f.b.mreg l d.toNat).mean, (f.b.mreg l d.toNat).var]
      else (f.value l (.m d.toNat)).bind fun v =>
        (inVar f.b.nvc (varOf v)).map fun var => [CW.make (.ofNat 32 (mb16Narrow (meanOf v) var))])

/-- R333, R337 to R343: a multiply command is queued with everything it reads at issue. R352 to R354, R412: the other engine commands are
queued, tile accesses among them; the path of an `accrd` waits at it until the arbiter has chosen its entry (log entry 48). -/
def Obligations.EngineIssue : Prop :=
  ((∀ m h t a b, MulForm 0 (.mm m h t a b) m h t a b) ∧ (∀ m h t a b, MulForm 1 (.mmloop m h t a b) m h t a b) ∧
  (∀ m h t a b, MulForm 2 (.mmsp m h t a b) m h t a b) ∧ (∀ m h t a b, MulForm 3 (.mmgat m h t a b) m h t a b) ∧
  (∀ m h t a b, MulForm 4 (.mmaMom m h t (a, b)) m h t a b)) ∧
  ((∀ (m : Mods) (t : BitVec 5) (s : State) (f : Frame), f.Ready s m → f.lantern = false → t.toNat < (s.pools f).1 →
    f.Queues s (.accz m t) false (.accz t.toNat) 0 0) ∧
  (∀ (m : Mods) (t : BitVec 5) (a b : BitVec 6) (s : State) (f : Frame) (x c : Nat), f.Ready s m → f.lantern = false →
    f.value f.elected (.s a.toNat) = some x → f.value f.elected (.s b.toNat) = some c →
    let mem := c.testBit 0
    let addr := if mem then x else x % 2 ^ 64
    t.toNat < (s.pools f).1 → c / 2 ^ 64 = 0 → c / 2 % 2 ^ 21 = 0 → badTarget (c / 2 ^ 22 % 4) (c / 2 ^ 24 % 2 ^ 8) (s.pools f).2 = false →
    addr % 4 = 0 → c / 2 ^ 32 % 2 ^ 32 % 4 = 0 →
    ∀ store : Bool, f.Queues s (if store then .accst m t a b else .accld m t a b) false
      (.transfer store t.toNat addr (c / 2 ^ 32 % 2 ^ 32) mem) (c / 2 ^ 22 % 4) (c / 2 ^ 24 % 2 ^ 8)) ∧
  (∀ (m : Mods) (d a b : BitVec 6) (twoD : Bool) (s : State) (f : Frame) (dst src c g : Nat), f.Ready s m → f.lantern = false →
    f.value f.elected (.s d.toNat) = some dst → f.value f.elected (.s a.toNat) = some src → f.value f.elected (.s b.toNat) = some c →
    (if twoD then f.value f.elected (.s (b.toNat + 1)) = some g else g = 1) →
    copyMalformed dst src c g (s.pools f).2 = false →
    let dsp := c.testBit 21
    let ssp := c.testBit 20
    f.Queues s (if twoD then .cpy2d m d a b else .cpy m d a b) true
      (.copy (if dsp then dst % 2 ^ 64 else dst) (if ssp then src % 2 ^ 64 else src) (c / 2 ^ 32 % 2 ^ 32) (g % 2 ^ 16)
        (BitVec.ofNat 24 (g / 2 ^ 40)).toInt (BitVec.ofNat 24 (g / 2 ^ 16)).toInt dsp ssp) (c / 2 ^ 22 % 4) (c / 2 ^ 24 % 2 ^ 8)) ∧
  (∀ (m : Mods) (t : BitVec 5) (a : BitVec 7) (s : State) (f : Frame) (x y : Nat → Nat), f.Ready s m → f.lantern = false →
    f.Fits [.v a.toNat 2] → t.toNat < (s.pools f).1 → f.Reads [.v a.toNat 1, .v (a.toNat + 1) 1] (fun l => [x l, y l]) →
    f.Queues s (.accwr m t a) false (.write t.toNat (f.lanes.map fun l => (x l % 4096, y l))) 0 0) ∧
  (∀ (m : Mods) (t : BitVec 5) (a : BitVec 7) (s : State) (f : Frame) (x y : Nat → Nat), f.Ready s m → f.lantern = false →
    f.Fits [.v a.toNat 1, .v (a.toNat + 1) 1] → t.toNat < (s.pools f).1 → f.Reads [.v a.toNat 1] (fun l => [x l]) →
    (∀ l ∈ f.lanes, ((lccCheck (s.tileWord f.pl.wg t.toNat (x l % 4096))).data?).map (·.toNat) = some (y l)) →
    let es := s.subQueue false f.pl.core f.b.quarter
    (es.find? (·.readBy f) = none →
      exec (.accrd m t a) s = .next (if es.length < 8 then State.enqueued f false (.read t.toNat f.i.lanes) 0 0 s else s)) ∧
    ∀ e, es.find? (·.readBy f) = some e →
      (e.step = 0 → exec (.accrd m t a) s = .next s) ∧
      (e.step ≠ 0 → f.Does s (.accrd m t a) (fun u => u.setSubQueue false f.pl.core f.b.quarter (es.erase e))
        (f.wrote true ((f.lanes.flatMap fun l => f.put l (.v (a.toNat + 1) 1) (y l)) ++ f.zeroes (.v (a.toNat + 1) 1))))))

/-- R137, R395, R397, R398: `ship.t` and `ship.w` release once and send one request per active lane to the lock's home; `ship.t` goes
on, `ship.w` waits for its wait slots. -/
def Obligations.ShipSends : Prop :=
  ∀ (m : Mods) (d : BitVec 7) (a : BitVec 6) (e : BitVec 1) (n k : BitVec 3) (s : State) (f : Frame) (lock entry : Nat) (p : Page),
    f.Ready s m → f.lantern = false → f.value f.elected (.s a.toNat) = some lock → f.value f.elected (.s (a.toNat + 1)) = some entry →
    f.Fits [.v d.toNat (n.toNat + 1)] → lock % 64 = 0 → entry % 4 = 0 → s.Maps f.pl.core f.pl.ctx .atomic lock p →
    (∀ b, (s.lockHome p lock).2 = some b → ∀ x ∈ s.mod.starHold, x.1 ≠ b) →
    let scope := if isSystem p.loc then 4 else if (e == 1) && p.dpv && p.die == f.pl.die then 2 else 3
    let send := fun (slot : Nat) (u : State) =>
      let u := (u.release f.pl (scopeOf scope) f.mine).2
      let pub := ((u.wg? f.pl.wg).map fun g => g.publication f.pl.wg).getD RSet.empty
      let u := u.advanceRegion f.pl (scopeOf scope)
      let sent := f.lanes.map fun l => Msg.request (s.lockHome p lock).1
        (f.request l (n.toNat + 1) entry lock (u.resolve p.loc / 64) slot scope (f.b.wb + d.toNat) d.toNat (s.lockHome p lock).2 pub
          (u.clockAt f.pl.core) u.moves)
      { u with msgs := u.msgs ++ sent }
    let pend := fun (slot : Nat) => f.lanes.foldl (fun b l => b.modLane l fun x =>
      x.setSlot slot ⟨.pending, 0, 0, [], scope, lock, RSet.empty⟩) f.b
    ((∀ l ∈ f.lanes, ((f.b.lane l).slot k.toNat).state = .free) → f.Does s (.shipT m d a e n k) (send k.toNat) (pend k.toNat)) ∧
    (f.Fits [.v d.toNat 4] →
      f.Waits s (.shipW m d a e n) (send 8) (pend 8) (.tkwait 8 (f.b.wb + d.toNat) f.active f.p.z))

/-- R407, R408: `tktest` tells which lanes' slots are DONE; `tkwait`, with no named slot PENDING, writes status words and results,
frees the slots and goes on. -/
def Obligations.TokenCollection : Prop :=
  ∀ (m : Mods) (t : BitVec 3) (s : State) (f : Frame), f.Ready s m →
    (∀ d : BitVec 3, f.Completes s (.tktest m d t) false
      (if d.toNat = 0 then [] else
        [.k d.toNat (mkK f.b.width (maskSub (f.b.kreg d.toNat).v.toNat (maskOf f.lanes) |||
          (maskOf (f.lanes.filter fun l => ((f.b.lane l).slot t.toNat).state == .done) &&& maskOf f.lanes)))])) ∧
    (∀ d : BitVec 7, f.Fits [.v d.toNat 5] → f.Quiet s → s.nextOf f.pl f.i.pc = f.i.next → f.b.kept = none →
      (∀ e ∈ f.b.frontier, ∀ i x y z, e.kind ≠ .tkwait i x y z) → (∀ l ∈ f.lanes, ((f.b.lane l).slot t.toNat).state ≠ .pending) →
      let slot := fun l => (f.b.lane l).slot t.toNat
      let ws := f.lanes.flatMap fun l =>
        if (slot l).state = .done then
          .v l (f.b.wb + d.toNat) (CW.make (.ofNat 32 ((slot l).status + (slot l).count * 256))) ::
            (List.range 4).map fun i => .v l (f.b.wb + d.toNat + 1 + i) ((slot l).word i)
        else .v l (f.b.wb + d.toNat) (CW.make 0x80000000#32) ::
          (List.range 4).map fun i => .v l (f.b.wb + d.toNat + 1 + i) .zero
      let b := f.wrote true (ws ++ f.zeroes (.v d.toNat 5))
      f.Does s (.tkwait m d t) (fun u => u.collectAcquire f.a ((f.lanes.map slot).filter (·.state == .done)))
        (f.lanes.foldl (fun b l => b.modLane l fun x => x.setSlot t.toNat .free) b).endPause)

/-- R401 to R403: `sret` ends its section OK: COUNT of the lock's word advances, and the results go to the sender with their codes. -/
def Obligations.SectionReturns : Prop :=
  ∀ (m : Mods) (d : BitVec 7) (n : BitVec 3) (s : State) (f : Frame) (k : Nat) (r : Section) (p : Page) (lo hi : Word),
    f.Ready s m → f.a = .lantern k → s.section? k = some r → f.Fits [.v d.toNat n.toNat] → f.Quiet s →
    (s.ctxEntry? r.req.ctx).isSome = true →
    s.Maps f.pl.core f.pl.ctx .atomic r.req.lock p → s.resolve p.loc = p.loc → p.loc % 8 = 0 →
    (lccCheck (s.homeWord p.loc)).data? = some lo → (lccCheck (s.homeWord (p.loc + 4))).data? = some hi →
    ∃ t, exec (.sret m d n) s = .next t ∧ t.section? k = none ∧
      (∃ pub, Msg.result r.req 0 n.toNat ((List.range n.toNat).map fun i => f.b.vreg 0 (f.b.wb + d.toNat + i)) pub ∈ t.msgs) ∧
      let v := (hi ++ lo).toNat
      let v' := (v + 1) % 2 ^ 63 + v / 2 ^ 63 * 2 ^ 63
      ∀ y, y % 4 = 0 → s.resolve y = y →
        t.homeWord y = putView s.homeWord p.loc [CW.make (.ofNat 32 v'), CW.make (.ofNat 32 (v' / 2 ^ 32))] y

/-- R366, R410, R411: `launch` appends its record to a launch queue; `trig` is remembered for the workgroup's dependants. R414, R415: nodes
are claimed, linked and signalled. R415, R416: a decrement takes 1 from the count of a held node of the workgroup, and does nothing to another;
a FLAG node whose count reaches 0 completes: it is free, arrives at its flag, and takes 1 from each successor; a LAUNCH node is then LAUNCHED
and makes its append, and completes in the same way when its launch does. R406: in a section `gnode` writes all ones, and `gdep` and `gsig` do
nothing. -/
def Obligations.LaunchesAndGraphNodes : Prop :=
  ((∀ (m : Mods) (a q : BitVec 6) (s : State) (f : Frame) (va : Nat) (p : Nat → Page) (sp : Page), f.Ready s m →
    f.value f.elected (.s a.toNat) = some va → va % 64 = 0 → (s.lq q.toNat).takes f.pl.ctx = true → q.toNat < s.lqs.length →
    (s.lq q.toNat).pending < (s.lq q.toNat).slots → f.Quiet s →
    (∀ k < 64, f.ReachesOne s .load 4 ((va + 4 * k) % 2 ^ 72) (p k)) →
    f.ReachesOne s .store 64 ((s.lq q.toNat).slotAddr (s.lq q.toNat).tail) sp → sp.loc % 256 = 0 →
    ∃ t pub, exec (.launch m a q) s = .next t ∧ f.Moves s t f.b ∧
      t.lq q.toNat = { s.lq q.toNat with
        tail := ((s.lq q.toNat).tail + 1) % 2 ^ 32
        pubs := smSet (s.lq q.toNat).pubs (s.lq q.toNat).tail pub } ∧
      ∀ y, y % 4 = 0 → s.resolve y = y →
        t.homeWord y = putView s.homeWord sp.loc ((List.range 64).map fun k => s.homeWord (wordLoc (p k).loc)) y) ∧
  (∀ (m : Mods) (s : State) (f : Frame), f.Ready s m →
    ∃ t, exec (.trig m) s = .next t ∧ f.Moves s t f.b ∧
      (f.lantern = false → ∀ g, t.wg? f.pl.wg = some g → g.triggered = true) ∧
      (f.lantern = false → (∀ g, s.wg? f.pl.wg = some g → g.triggered = false) →
        ∀ l, t.launch? f.pl.launch = some l → f.pl.wgId ∈ l.triggered))) ∧
  ((∀ (m : Mods) (d a : BitVec 6) (s : State) (f : Frame) (v addr : Nat) (g : Wg), f.Ready s m → f.lantern = false →
    f.value f.elected (.s a.toNat) = some v → s.wg? f.pl.wg = some g → nodeMalformed v g.sp = false →
    (if v / 2 ^ 18 % 4 = 1 then f.value f.elected (.s (a.toNat + 1)) = some addr else addr = 0) →
    (smFree (s.core f.pl.core).nodes 64 = none → f.Completes s (.gnode m d a) false [.s d.toNat (mkS (2 ^ 72 - 1))]) ∧
    ∀ n, smFree (s.core f.pl.core).nodes 64 = some n →
      let x : Node := ⟨.held, f.pl.wg, v / 2 ^ 18 % 4 == 1, v / 2 ^ 12 % 2 ^ 6,
        if v.testBit 55 then some (v / 2 ^ 56 % 2 ^ 8) else none, nodeSuccs v, v % 16, addr, f.pl.ctx, false, none, RSet.empty⟩
      f.Does s (.gnode m d a)
        (fun u => if v % 16 = 0 then (u.setNode f.pl.core n { x with count := 1 }).nodeDecs f.pl.core f.pl.wg nodeFuel [n]
          else u.setNode f.pl.core n x)
        (f.wrote false [.s d.toNat (mkS n)])) ∧
  (∀ (m : Mods) (a b : BitVec 6) (s : State) (f : Frame) (va vb : Nat) (x y : Node), f.Ready s m → f.lantern = false →
    f.value f.elected (.s a.toNat) = some va → f.value f.elected (.s b.toNat) = some vb →
    let na := va % 2 ^ 64
    let nb := vb % 2 ^ 64
    s.node? f.pl.core na = some x → s.node? f.pl.core nb = some y → x.wg = f.pl.wg → y.wg = f.pl.wg → y.state = .held →
    x.succs.length < 4 → y.count ≠ 15 →
    f.Does s (.gdep m a b)
      (fun u =>
        if x.state ≠ .held then u
        else
          let u := u.setNode f.pl.core na { x with succs := x.succs ++ [nb] }
          u.setNode f.pl.core nb { ((u.node? f.pl.core nb).getD y) with count := y.count + 1 }) f.b) ∧
  (∀ (m : Mods) (a : BitVec 6) (s : State) (f : Frame) (n : Nat), f.Ready s m → f.lantern = false →
    f.value f.elected (.s a.toNat) = some n →
    f.Does s (.gsig m a)
      (fun u => ((u.release f.pl .dev f.mine).2.gsig f.pl.core f.pl.wg (n % 2 ^ 64)).advanceRegion f.pl .dev) f.b) ∧
  (∀ (m : Mods) (d a b : BitVec 6) (s : State) (f : Frame), f.Ready s m → f.lantern = true →
    (∀ v, f.value f.elected (.s a.toNat) = some v → f.Completes s (.gnode m d a) false [.s d.toNat (mkS (2 ^ 72 - 1))]) ∧
    f.Does s (.gdep m a b) id f.b ∧ f.Does s (.gsig m a) id f.b)) ∧
  ((∀ (s : State) (core w n : Nat) (g : Wg), s.wg? w = some g → core < s.cores.length → smSorted (s.core core).nodes = true →
    let t := s.gsig core w n
    ((∀ x, s.node? core n = some x → x.wg ≠ w ∨ x.state ≠ .held ∨ x.count = 0) → t = s) ∧
    ∀ x, s.node? core n = some x → x.wg = w → x.state = .held →
      let y : Node := { x with pub := x.pub.merge (g.publication w) }
      (1 < x.count → t = s.setNode core n { y with count := x.count - 1 }) ∧
      (x.count = 1 → x.launchKind = true →
        t = (s.setNode core n { y with count := 0, state := .launched, due := true }).nodeAppend core n) ∧
      (x.count = 1 → x.launchKind = false → x.flag = none → x.succs.length ≤ 4 → x.succs.Nodup →
        (∀ k ∈ x.succs, k ≠ n ∧ ∀ z, s.node? core k = some z → z.wg = w → z.state = .held → z.count ≠ 1) →
        t.node? core n = none ∧ t.wgs = s.wgs ∧
        ∀ k, k ≠ n → (t.node? core k).map (·.count) = (s.node? core k).map fun z =>
          if k ∈ x.succs ∧ z.wg = w ∧ z.state = .held then z.count - 1 else z.count) ∧
      ∀ flag, x.count = 1 → x.launchKind = false → x.flag = some flag → x.succs = [] → g.status = .resident →
        t.node? core n = none ∧ t.wgs = (s.flagArrive w flag).wgs) ∧
  (∀ (s : State) (core n : Nat) (x : Node) (ws : List CW) (p : Page), s.node? core n = some x → core < s.cores.length → n < 64 →
    (s.core core).lines = [] → (s.core core).flights = [] → s.MemWf → x.due = true → x.lq < s.lqs.length →
    let q := s.lq x.lq
    q.takes x.ctx = true → q.pending < q.slots → s.homeRead core x.ctx x.record 64 = (.ok ws, s) →
    s.reach core q.ctx (q.slotAddr q.tail) .store = (.page p, s) → p.loc % 256 = 0 → s.resolve p.loc = p.loc →
    let t := s.nodeAppend core n
    t.node? core n = some { x with due := false, wait := none } ∧
    t.lq x.lq = { q with
      tail := (q.tail + 1) % 2 ^ 32
      nodes := smSet q.nodes q.tail (core, n)
      pubs := smSet q.pubs q.tail x.pub } ∧
    ∀ y, y % 4 = 0 → s.resolve y = y → t.homeWord y = putView s.homeWord p.loc ws y) ∧
  ∀ (s : State) (core n : Nat) (pub : RSet) (x : Node), s.node? core n = some x → core < s.cores.length →
    smSorted (s.core core).nodes = true →
    (x.state ≠ .launched → s.completeNode core n pub = s) ∧
    (x.state = .launched → x.flag = none → x.succs.length ≤ 4 → x.succs.Nodup →
      (∀ k ∈ x.succs, k ≠ n ∧ ∀ z, s.node? core k = some z → z.wg = x.wg → z.state = .held → z.count ≠ 1) →
      (s.completeNode core n pub).node? core n = none ∧
      ∀ k, k ≠ n → ((s.completeNode core n pub).node? core k).map (·.count) = (s.node? core k).map fun z =>
        if k ∈ x.succs ∧ z.wg = x.wg ∧ z.state = .held then z.count - 1 else z.count))

/-- R417 to R419: an arrival at a phase flag, its test, and the wait that goes on, or stays, by the flag's phase, each after the writes
under way to the flag's word. R418: an arrival counts
up; the arrival that reaches EXPECT (at least 1) inverts PHASE and starts the count afresh. -/
def Obligations.PhaseFlagResults : Prop :=
  (∀ (m : Mods) (a : BitVec 6) (s : State) (f : Frame) (v : Nat) (g : Wg) (w : Word), f.Ready s m → f.lantern = false →
    f.value f.elected (.s a.toNat) = some v → s.wg? f.pl.wg = some g → 4 * (v % 256) + 4 ≤ g.sp * 16384 →
    let now := g.drainPool fun x => x.off / 4 == v % 256
    (lccCheck (now.scratch.word (4 * (v % 256)))).data? = some w →
    let done := w.getLsbD 31 != v.testBit 8
    let reads := fun (u : State) => u.flagNow f.pl.wg (v % 256)
    (∃ t g', exec (.pfarrive m a) s = .next t ∧ f.Moves s t f.b ∧ s.SameWg t f.pl.wg g g' ∧ s.SameMemory t ∧ g'.pool = now.pool ∧
      g'.scratch = now.scratch.setWord (4 * (v % 256)) (CW.make (flagNext w))) ∧
    (∀ d : BitVec 3, f.Does s (.pftest m d a) reads (f.wrote false
      (if d.toNat = 0 then [] else
        [.k d.toNat (mkK f.b.width (maskSub (f.b.kreg d.toNat).v.toNat f.active ||| (if done then f.active else 0)))]))) ∧
    (done = true → f.Does s (.pfwait m a) reads f.b.endPause) ∧
    (done = false → f.Waits s (.pfwait m a) reads f.b (.pfwait (v % 256) (v.testBit 8)))) ∧
  (∀ w : Word,
    let count := w.toNat % 2 ^ 12
    let expect := max (w.toNat / 2 ^ 12 % 2 ^ 12) 1
    (flagNext w).toNat / 2 ^ 12 % 2 ^ 19 = w.toNat / 2 ^ 12 % 2 ^ 19 ∧
    (count + 1 < expect → (flagNext w).getLsbD 31 = w.getLsbD 31 ∧ (flagNext w).toNat % 2 ^ 12 = count + 1) ∧
    (expect ≤ count + 1 → (flagNext w).getLsbD 31 = !w.getLsbD 31 ∧ (flagNext w).toNat % 2 ^ 12 = 0))

/-- R78, R448 to R450: taken lanes go to the target, the path's others to the next instruction; `call` leaves the link in v0. R168, R447:
`nop` does nothing; `brk` does nothing with `trapctl.BRK` = 0; `pri` gives the path's lanes its priority, or that of a `pri` they now stand
at. -/
def Obligations.BranchAndPriorityResults : Prop :=
  (let next := fun (f : Frame) => (f.i.next % 2 ^ 72, EntryKind.runnable)
  (∀ (m : Mods) (c : BitVec 3) (o : BitVec 21) (s : State) (f : Frame) (k : Nat), f.Ready s m →
    f.value f.elected (.s (64 + c.toNat)) = some k →
    let taken := fun l => f.active.testBit l && k.testBit l
    let dest := fun l => if taken l then (wrap 72 ((f.i.next : Int) - 4 + 4 * o.toInt), EntryKind.runnable) else next f
    f.DoesTo s (.bra m c o) id f.b dest ∧
    (f.Fits [.v 0 1] → 
      let d : Int := ((f.i.next : Int) - s.codeBase f) / 4
      d < 2 ^ 31 → -(2 ^ 31) ≤ d →
      f.DoesTo s (.call m c o) id (f.wrote false ((f.lanes.filter taken).flatMap fun l => f.put l (.v 0 1) (wrap 32 d))) dest)) ∧
  (∀ (m : Mods) (a : BitVec 6) (b : BitVec 7) (s : State) (f : Frame) (base : Nat) (x : Nat → Nat), f.Ready s m →
    f.Fits [.v b.toNat 1] → f.value f.elected (.s a.toNat) = some base → base % 4 = 0 → f.Reads [.v b.toNat 1] (fun l => [x l]) →
    f.DoesTo s (.brx m a b) id f.b fun l =>
      if f.active.testBit l then (wrap 72 ((base : Int) + 4 * (BitVec.ofNat 32 (x l)).toInt), .runnable) else next f) ∧
  (∀ (m : Mods) (s : State) (f : Frame) (x : Nat → Nat), f.Ready s m → f.Fits [.v 0 1] → f.Reads [.v 0 1] (fun l => [x l]) →
    f.DoesTo s (.ret m) id f.b fun l =>
      if f.active.testBit l then (wrap 72 ((s.codeBase f : Int) + 4 * (BitVec.ofNat 32 (x l)).toInt), .runnable) else next f)) ∧
  ((∀ (m : Mods) (s : State) (f : Frame), f.Ready s m →
    f.Does s (.nop m) id f.b ∧ (s.brkOf f = false → f.Does s (.brk m) id f.b)) ∧
  (∀ (m : Mods) (p : BitVec 16) (s : State) (f : Frame), f.Ready s m →
    f.Does s (.pri m p) id f.b ∧
    ∃ t b, exec (.pri m p) s = .next t ∧ t.beam? f.a = some b ∧
      ∀ l, f.i.lanes.testBit l = true → ∃ e ∈ b.frontier, e.lanes.testBit l = true ∧ e.pc = f.i.next % 2 ^ 72 ∧
        e.pri = s.priAt f.pl (f.i.next % 2 ^ 72) p.toNat))

/-- R452: lanes wait at a `join` until every unexited lane outside the regroup buckets stands there; then all go on. R454, R456: the path's
threads are counted once in a generation; the arrival that completes the count lets every beam of the workgroup go on and starts the next
generation, and any other waits. R455: the same for a constellation's barrier, over the threads of all its members. -/
def Obligations.JoinAndBarriers : Prop :=
  (∀ (m : Mods) (s : State) (f : Frame) (w n : Nat) (g : Wg), f.Ready s m →
    (f.lantern = true → f.Does s (.join m) id f.b) ∧
    (f.a = .beam w n → s.wg? w = some g → f.b.kept = none → (∀ e ∈ f.b.frontier, e.kind ≠ .join) →
      let all := maskSub f.b.live (g.bucketLanes n)
      (all ≠ 0 → (∀ l, all.testBit l = true → f.i.lanes.testBit l = true) →
        f.DoesTo s (.join m) id f.b.endPause fun _ => ((f.i.pc + 4) % 2 ^ 72, .runnable)) ∧
      ((∃ l, all.testBit l = true ∧ f.i.lanes.testBit l = false) → f.Waits s (.join m) id f.b .join))) ∧
  (∀ (m : Mods) (s : State) (f : Frame) (w n : Nat) (g : Wg), f.Ready s m → f.a = .beam w n → s.wg? w = some g → f.lantern = false →
    let mine := f.b.threadsOf f.i.lanes
    let count := g.barArrived + popMask (maskSub mine g.barThreads) g.threads
    let full := count ≠ 0 ∧ g.threads ≤ count + popMask (maskSub g.exitedThreads (g.barThreads ||| mine)) g.threads
    ∃ t g' b, exec (.barWg m) s = .next t ∧ t.wg? w = some g' ∧ t.beam? f.a = some b ∧
      (full → g'.barArrived = 0 ∧ g'.barThreads = 0 ∧ g'.barGen = (g.barGen + 1) % 65536 ∧
        (∀ l, f.i.lanes.testBit l = true → Stands b.frontier l ((f.i.pc + 4) % 2 ^ 72) .runnable) ∧
        ∀ j x, t.beam? (.beam w j) = some x → ∀ e ∈ x.frontier, e.kind ≠ .barWg) ∧
      (¬ full → g'.barArrived = count ∧ g'.barThreads = g.barThreads ||| mine ∧ g'.barGen = g.barGen ∧
        ∀ l, f.i.lanes.testBit l = true → Stands b.frontier l f.i.pc .barWg)) ∧
  (∀ (m : Mods) (a : BitVec 6) (s : State) (f : Frame) (w n x : Nat) (g : Wg) (l : Launch) (c : Group), f.Ready s m → f.a = .beam w n →
    s.wg? w = some g → f.lantern = false → g.status = .resident → f.value f.elected (.s a.toNat) = some x →
    s.launch? g.launch = some l → (l.groups.find? fun y => y.number == x % 256) = some c → c.holds g.id = true →
    f.Quiet s → l.groups.Pairwise (fun y z => y.number ≠ z.number) →
    let mine := f.b.threadsOf f.i.lanes
    let c' := c.arriveAt g.id mine g.threads RSet.empty
    let full := c'.arrived ≠ 0 ∧ c'.members * l.record.threads ≤ c'.arrived + c'.exited l.record.threads
    ∃ t l' d b, exec (.barCon m a) s = .next t ∧ t.launch? g.launch = some l' ∧
      (l'.groups.find? fun y => y.number == x % 256) = some d ∧ t.beam? f.a = some b ∧
      (full → d.arrived = 0 ∧ d.who = [] ∧ d.gen = (c.gen + 1) % 65536 ∧
        ∀ k, f.i.lanes.testBit k = true → Stands b.frontier k ((f.i.pc + 4) % 2 ^ 72) .runnable) ∧
      (¬ full → d.arrived = c'.arrived ∧ d.who = c'.who ∧ d.gen = c.gen ∧
        ∀ k, f.i.lanes.testBit k = true → Stands b.frontier k f.i.pc (.barCon (x % 256))))

/-- R459, R460: whose turn it is takes the ticket, and NEXT goes past workgroups that have ended; whose turn has not come pauses; whose
turn has come or gone goes on. R461: in a section neither has an effect. -/
def Obligations.TicketResults : Prop :=
  (∀ (m : Mods) (n : BitVec 3) (s : State) (f : Frame) (l : Launch) (g : Wg), f.Ready s m → f.lantern = false →
    s.launch? f.pl.launch = some l → s.wg? f.pl.wg = some g → l.tickets.length = 8 → f.Quiet s →
    let now := (l.tickets.getD n.toNat default).next
    (now < f.pl.wgId →
      exec (.tktTake m n) s = .next (s.modBeam f.a fun b => { b with paused := some 64 }) ∧
      exec (.tktWait m n) s = .next (s.modBeam f.a fun b => { b with paused := some 64 })) ∧
    (now = f.pl.wgId → ∃ t l', exec (.tktTake m n) s = .next t ∧ f.Moves s t f.b ∧ t.launch? f.pl.launch = some l' ∧
      let then_ := (l'.tickets.getD n.toNat default).next
      now < then_ ∧ then_ ∉ l.ended ∧ (∀ k, now < k → k < then_ → k ∈ l.ended) ∧
      ∀ j, j ≠ n.toNat → l'.tickets[j]? = l.tickets[j]?) ∧
    (f.pl.wgId < now → f.Does s (.tktTake m n) id f.b) ∧
    (f.pl.wgId ≤ now → ∃ t, exec (.tktWait m n) s = .next t ∧ f.Moves s t f.b ∧ t.launches = s.launches)) ∧
  ∀ (m : Mods) (n : BitVec 3) (s : State) (f : Frame), f.Ready s m → f.lantern = true →
    f.Does s (.tktTake m n) id f.b ∧ f.Does s (.tktWait m n) id f.b

/-- R451: the active lanes exit: they stand nowhere, the path's others go on, and their threads count as exited. Stated while the beam has
another unexited lane and no bucket, join, barrier or handler of its workgroup is affected. R451, R290: when its last threads exit a
workgroup ends; with no engine command left it is gone, and its launch counts it. -/
def Obligations.ExitResults : Prop :=
  (∀ (m : Mods) (s : State) (f : Frame) (w n : Nat) (g : Wg), f.Ready s m → f.a = .beam w n → s.wg? w = some g → f.lantern = false →
    g.buckets = [] → f.b.kept = none → f.b.inh = false → (∀ e ∈ f.b.frontier, e.kind ≠ .join) → g.barArrived = 0 →
    (∀ l, s.launch? g.launch = some l → ∀ c ∈ l.groups, c.arrived = 0) → g.extQueue = [] → maskSub f.b.live f.active ≠ 0 →
    ∃ t g' b, exec (.exit m) s = .next t ∧ t.wg? w = some g' ∧ t.beam? f.a = some b ∧
      g'.exitedThreads = g.exitedThreads ||| f.b.threadsOf f.active ∧
      (∀ l ∈ f.lanes, (b.lane l).exited = true ∧ ∀ p k, ¬ Stands b.frontier l p k) ∧
      (∀ l, l ∉ f.lanes → (b.lane l).exited = (f.b.lane l).exited) ∧
      (∀ l p k, f.active.testBit l = false → (Stands b.frontier l p k ↔
        if f.i.lanes.testBit l then p = f.i.next % 2 ^ 72 ∧ k = .runnable else Stands f.b.frontier l p k)) ∧
      s.SameMemory t) ∧
  (∀ (m : Mods) (s : State) (f : Frame) (w n : Nat) (g : Wg), f.Ready s m → f.a = .beam w n → s.wg? w = some g → f.lantern = false →
    smSorted s.wgs = true → g.status = .resident → g.beams = [(n, f.b)] → g.buckets = [] → f.b.pendD = [] → f.b.inh = false →
    g.barArrived = 0 → (∀ l, s.launch? g.launch = some l → ∀ c ∈ l.groups, c.arrived = 0) → s.engineHolds w = false →
    maskSub f.b.live f.active = 0 →
    ∃ t, exec (.exit m) s = .next t ∧ t.wg? w = none ∧
      ∀ l, t.launch? g.launch = some l → g.id ∈ l.ended ∧ g.id ∈ l.triggered)

/-- R428, R429, R457, R458: lanes that regroup leave their frontier and wait in the bucket of their key, in lane order, to go on after the
instruction; after a flush every bucket of the quarter is due, and at the end of the clock a due bucket that holds lanes forms a beam or
stays due. R130, R201, R202: a request for an extended block that fits is granted at once, its registers reading zero, and waits otherwise; the
release gives the block up, once no result is to come for its registers. -/
def Obligations.RegroupAndExtendedBlocks : Prop :=
  ((∀ (m : Mods) (a : BitVec 7) (s : State) (f : Frame) (w n : Nat) (g : Wg) (x : Nat → Nat), f.Ready s m → f.a = .beam w n →
    s.wg? w = some g → g.status = .resident → f.lantern = false → f.b.inh = false → f.b.role ≠ 1 → f.b.role ≠ 2 → f.b.ext = 0 →
    f.Fits [.v a.toNat 1] → f.Reads [.v a.toNat 1] (fun l => [x l]) → g.buckets = [] → (∀ e ∈ f.b.frontier, e.kind ≠ .join) →
    ∃ t g' b, exec (.regroup m a) s = .next t ∧ t.wg? w = some g' ∧ t.beam? f.a = some b ∧ s.SameMemory t ∧
      g'.buckets = f.lanes.map (fun l => ⟨f.b.quarter, x l % 16, g.bucketSeq, f.b.number, l, f.i.next, f.i.pri⟩) ∧
      (∀ l ∈ f.lanes, ∀ p k, ¬ Stands b.frontier l p k) ∧
      ∀ l p k, f.active.testBit l = false → (Stands b.frontier l p k ↔ Stands f.b.frontier l p k)) ∧
  (∀ (m : Mods) (s : State) (f : Frame) (w n : Nat) (g : Wg), f.Ready s m → f.a = .beam w n → s.wg? w = some g → f.lantern = false →
    ∃ t g', exec (.regroupFlush m) s = .next t ∧ f.Moves s t f.b ∧ s.SameMemory t ∧ t.wg? w = some g' ∧ g'.buckets = g.buckets ∧
      ∀ q key, (q, key) ∈ g'.due ↔ (q, key) ∈ g.due ∨ q = f.b.quarter ∧ key < 16) ∧
  (∀ (s : State) (w : Nat) (g : Wg), s.wg? w = some g → ∃ g', (s.formBeams w).wg? w = some g' ∧
    ∀ x ∈ g.due, x ∈ g'.due ∨ g'.bucket x.1 x.2 = [] ∨ (g'.bucket x.1 x.2).length < (g.bucket x.1 x.2).length)) ∧
  ((∀ (m : Mods) (k : BitVec 3) (s : State) (f : Frame) (w n : Nat) (g : Wg), f.Ready s m → f.a = .beam w n → s.wg? w = some g →
    f.lantern = false → g.extQueue = [] → f.b.ext = 0 → 32 * k.toNat ≤ f.b.extDecl → f.b.kept = none →
    (∀ e ∈ f.b.frontier, e.kind ≠ .extAcq) → s.nextOf f.pl f.i.pc = f.i.next →
    let regs := 32 * k.toNat
    (f.b.width * regs * 4 ≤ g.reserveFree →
      f.Does s (.extAcq m k) (fun u => u.modWg w fun g => { g with extIndex := g.extIndex + 1 })
        { f.b with
          ext := regs
          asked := regs
          regWait := 0
          lanes := f.b.lanes.map fun l => { l with v := l.v ++ List.replicate regs .zero } }) ∧
    (g.reserveFree < f.b.width * regs * 4 →
      f.Waits s (.extAcq m k) (fun u => u.modWg w fun g => { g with extQueue := [(n, regs)] }) { f.b with asked := regs } .extAcq)) ∧
  (∀ (m : Mods) (s : State) (f : Frame) (w n : Nat) (g : Wg), f.Ready s m → f.a = .beam w n → s.wg? w = some g →
    (f.b.ext = 0 → f.Does s (.extRel m) id f.b) ∧
    (f.b.ext ≠ 0 → f.b.extPending = true →
      exec (.extRel m) s = .next s ∨ ∃ latch, exec (.extRel m) s = .next (s.modBeam f.a fun b => { b with latch := latch })) ∧
    (f.b.ext ≠ 0 → f.b.extPending = false → g.extQueue = [] →
      f.Does s (.extRel m) id
        { f.b with ext := 0, lanes := f.b.lanes.map fun l => { l with v := l.v.take f.b.base } })) ∧
  ∀ (m : Mods) (k : BitVec 3) (s : State) (f : Frame) (n : Nat), f.Ready s m → f.a = .lantern n →
    f.Does s (.extAcq m k) id f.b ∧ f.Does s (.extRel m) id f.b)

/-- R139 to R146, R168, R463: a control register or a counter is read as one number into an S-class destination. R189: `slid` names the home
slice of an address its core's TLB holds, with bit 16 for a page of view P; bit 30 for an address of a module of the domain, and bits 31 and
30 beyond it. -/
def Obligations.ControlReadsAndSlices : Prop :=
  (∀ (m : Mods) (d : BitVec 7) (i : BitVec 10) (s : State) (f : Frame), f.Ready s m →
    let write := fun v => if isX d.toNat then (f.lanes.flatMap fun l => f.put l (.s d.toNat) v) ++ f.zeroes (.s d.toNat)
      else f.put f.elected (.s d.toNat) v
    f.Completes s (.rdctl m d i) false (write (s.control f i.toNat)) ∧
    f.Completes s (.rdcnt m d i) false (write (s.counter f i.toNat)) ∧
    s.control f 0 = f.b.rm + (if f.b.ftz then 8 else 0) ∧
    s.control f 1 = (if f.b.nvc then 1 else 0) ∧
    s.control f 2 = (if f.b.ord then 1 else 0) + (if f.b.hck then 2 else 0) + f.b.width * 2 ^ 8 + f.b.role * 2 ^ 16 +
      (if f.b.inh then 2 ^ 24 else 0) ∧
    s.control f 3 = f.b.wb ∧ s.control f 5 = f.b.tcause ∧ s.control f 6 = f.b.tpc ∧ s.control f 7 = f.b.tlanes ∧
    s.control f 8 = f.b.taddr ∧ s.control f 9 = f.b.tdata ∧
    s.control f 11 = (if f.lantern then 2 ^ 24 else f.b.base + f.b.ext * 2 ^ 8 + (f.b.base + f.b.ext) * 2 ^ 16) ∧
    (∀ w n g, f.a = .beam w n → s.wg? w = some g → s.control f 10 = g.trapvec ∧ ((∀ x ∈ g.unseen, x.beam = n) →
      s.control f 4 = (if g.brk then 1 else 0) + (if g.psave then 2 else 0) ∧
      ∀ k < 8, s.control f (16 + k) = (g.fmt.getD k 0).toNat)) ∧
    (∀ k < 16, s.counter f (16 + k) = (s.core f.pl.core).pmc.getD k 0) ∧
    s.counter f 32 = (s.core f.pl.core).errs.corr ∧ s.counter f 33 = (s.core f.pl.core).errs.uncorr ∧
    s.counter f 34 = (s.core f.pl.core).errs.nvc ∧ s.counter f 1 = islandOfCore f.pl.core) ∧
  (∀ (m : Mods) (d a b : BitVec 7) (s : State) (f : Frame) (x : Nat → List Nat) (t : Nat → TlbEntry), f.Ready s m →
    f.Fits [.v b.toNat 1, .v d.toNat 1] → f.Reads [.s a.toNat, .v b.toNat 1] x →
    let va := fun l => wrap 72 (((x l).getD 0 0 : Int) + (BitVec.ofNat 32 ((x l).getD 1 0)).toInt)
    (∀ l ∈ f.lanes, (if isLantern f.pl.core then (s.die (dieOfCore f.pl.core)).tlb else (s.core f.pl.core).tlb).find?
      (·.covers f.pl.ctx (va l)) = some (t l)) →
    f.Completes s (.slid m d a b) false
      ((f.lanes.flatMap fun l =>
        let p := (t l).page (va l)
        f.put l (.v d.toNat 1)
          (if isSystem p.loc then (if moduleOf p.loc < s.mod.domain then 2 ^ 30 else 3 * 2 ^ 30)
           else (if p.dpv then 2 ^ 16 else 0) + sliceOf p.loc)) ++ f.zeroes (.v d.toNat 1)))

/-- R47, R139 to R146, R166: what a write of each control register leaves; one of a read-only register is discarded. R378, R420, R421, R473:
`pause` lowers the beam and counts its clocks, traps where the count reaches its limit, and does nothing to a section; `yield.save` in the handler of PREEMPT writes the outstanding
results of the lanes that are not parked and stops the beam. -/
def Obligations.ControlWritesPauseAndYield : Prop :=
  (∀ (m : Mods) (a : BitVec 7) (s : State) (f : Frame) (v : Nat), f.Ready s m → f.value f.elected (.s a.toNat) = some v →
    let mode := v % 8
    f.Does s (.wrctl m a 0) id { f.b with rm := if mode = 0 ∨ mode = 6 ∨ mode = 7 then 1 else mode, ftz := v.testBit 3 } ∧
    f.Does s (.wrctl m a 1) id { f.b with nvc := v.testBit 0 } ∧
    f.Does s (.wrctl m a 2) id { f.b with ord := v.testBit 0, hck := v.testBit 1 } ∧
    f.Does s (.wrctl m a 3) id { f.b with wb := v % 256 } ∧
    f.Does s (.wrctl m a 6) id { f.b with tpc := v % 2 ^ 72 / 4 * 4, prefixed := false } ∧
    (∀ i : BitVec 10, i ∈ [5, 7, 8, 9, 10, 11] → f.Does s (.wrctl m a i) id f.b) ∧
    (∀ w n, f.a = .beam w n →
      f.Does s (.wrctl m a 4) (fun u => u.modWg w fun g => { g.wrote n 8 (trapctl g.psave g.brk) with brk := v.testBit 0, psave := v.testBit 1 }) f.b ∧
      ∀ k : BitVec 10, 16 ≤ k.toNat → k.toNat ≤ 23 →
        f.Does s (.wrctl m a k)
          (fun u => u.modWg w fun g => { g.wrote n (k.toNat - 16) (g.fmt.getD (k.toNat - 16) 0).toNat with
            fmt := g.fmt.set (k.toNat - 16) (.ofNat 32 v &&& 0x00FFE0FF#32) }) f.b) ∧
    (∀ n, f.a = .lantern n →
      f.Does s (.wrctl m a 4) (fun u => u.modSection n fun x => { x with brk := v.testBit 0, psave := v.testBit 1 }) f.b ∧
      ∀ k : BitVec 10, 16 ≤ k.toNat → k.toNat ≤ 23 →
        f.Does s (.wrctl m a k)
          (fun u => u.modSection n fun x => { x with fmt := x.fmt.set (k.toNat - 16) (.ofNat 32 v &&& 0x00FFE0FF#32) }) f.b)) ∧
  ((∀ (m : Mods) (i : BitVec 16) (s : State) (f : Frame), f.Ready s m →
    (f.lantern = true → f.Does s (.pause m i) id f.b) ∧
    (f.lantern = false → f.b.pauseLoop + i.toNat < 2 ^ s.mod.pll →
      f.Does s (.pause m i) id { f.b with paused := i.toNat, pauseLoop := f.b.pauseLoop + i.toNat }) ∧
    (∀ w n g, f.a = .beam w n → f.lantern = false → s.wg? w = some g → g.trapvec ≠ 0 → f.b.inh = false →
      2 ^ s.mod.pll ≤ f.b.pauseLoop + i.toNat →
      ∃ t, exec (.pause m i) s = .next t ∧ Agent.TookTrap f.a s t g f.b ⟨0x22, 0, f.i.lanes, 0, 0⟩ 0 f.i.lanes f.i.pc f.i.prefixed)) ∧
  (∀ (m : Mods) (s : State) (f : Frame), f.Ready s m → f.lantern = false → f.b.inh = true → f.b.tcause % 256 = 0x23 →
    ∃ t b, exec (.yieldSave m) s = .next t ∧ t.beam? f.a = some b ∧ b.yielded = true ∧ s.SameMemory t ∧
      (∀ p ∈ b.outstanding, p ∈ f.b.outstanding) ∧
      (f.b.frontier.all (fun e => e.kind == .runnable) = true → (f.b.kept.getD []).all (fun e => e.kind == .runnable) = true →
        (∀ p ∈ f.b.outstanding, p.lanes % 2 ^ 64 ≠ 0) →
        b.outstanding = [] ∧ b.s = (f.b.writes (f.b.outstanding.map (·.write))).s ∧
          b.lanes = (f.b.writes (f.b.outstanding.map (·.write))).lanes)))

/-- R83, R158, R162: taking an exception: outstanding results are written, the frontier is kept aside, the path's lanes that are neither
exited nor parked start at `trapvec`, and the trap registers hold the cause. Memory and every other beam stay. R91, R156, R168: `trap n`
takes USER_TRAP with DETAIL n, `brk` with `trapctl.BRK` = 1 DEBUG_BREAK, and words that are no instruction ILLEGAL_INSTRUCTION, for the
whole path. R91, R156, R162, R302: lanes of a load, a store or an atomic that are misaligned, not allowed, past their bound, or with an
uncorrectable index take MISALIGNED, ACCESS_VIOLATION, BOUND_INDEX or LCC_FAULT, the others completing first; with an uncorrectable base all
active lanes do. R82, R92: REG_BOUND, and HAZARD with HCK = 1, are the whole path's. R160: a page fault parks the active lanes, and the path
goes on. -/
def Obligations.TrapEntry : Prop :=
  (∀ (s : State) (w n : Nat) (g : Wg) (b : Beam) (c : Cause) (held path pc src : Nat) (pfx : Bool),
    s.wg? w = some g → s.beam? (.beam w n) = some b → b.inh = false → g.trapvec ≠ 0 →
    ∃ t, s.trap (.beam w n) c held path pc pfx src = t ∧ Agent.TookTrap (.beam w n) s t g b c held path pc pfx) ∧
  (∀ (m : Mods) (k : BitVec 7) (s : State) (f : Frame) (w n : Nat) (g : Wg), s.frame? m = some f → s.beam? f.a = some f.b →
    f.a = .beam w n → s.wg? w = some g → f.lantern = false → f.b.inh = false → g.trapvec ≠ 0 →
    let takes := fun (i : Instr) (code detail : Nat) => ∃ t, exec i s = .next t ∧
      Agent.TookTrap f.a s t g f.b ⟨code, detail, f.i.lanes, 0, 0⟩ f.i.lanes f.i.lanes f.i.pc f.i.prefixed
    takes (.trap m k) 0x14 k.toNat ∧ (g.brk = true → takes (.brk m) 0x15 0) ∧ takes .illegalInstruction 0x01 0) ∧
  (∀ (m : Mods) (d b : BitVec 7) (a p : BitVec 6) (r : BitVec 1) (w : BitVec 3), w.toNat ≤ 4 →
    let e := 2 ^ w.toNat
    let regs := Opnd.v d.toNat (widthRegs w.toNat)
    LoadFaults (.ld m d a r w p) m [.s a.toNat] none regs e (strided e p.toInt) (loadOut d.toNat e) ∧
    LoadFaults (.ldIndexed m w d a b) m [.s a.toNat, .v b.toNat 1] (some b.toNat) regs e indexed (loadOut d.toNat e) ∧
    StoreFaults (.st m d a r w p) m [.s a.toNat] [regs] none e (strided e p.toInt) (storeNew d.toNat e) ∧
    StoreFaults (.stIndexed m w d a b) m [.s a.toNat, .v b.toNat 1] [regs] (some b.toNat) e indexed (storeNew d.toNat e)) ∧
  (∀ (m : Mods) (t : BitVec 3) (d a : BitVec 7) (b : BitVec 4),
    let n := if t ∈ [3, 4, 5, 7] then 2 else 1
    let rmw := fun (n : Nat) (f : Frame) (l : Nat) (mem : List CW) =>
      match dataOf mem, f.value l (.v d.toNat n) with
      | some x, some v => some (f.put l (.v d.toNat n) x, some ((wordsOfNat n (atomSum t.toNat x v)).map CW.make))
      | _, _ => none
    AtomFaults (.atomAdd m t d a 0 b) m [.s b.toNat, .v a.toNat 1] (some a.toNat) (.v d.toNat n) n indexed (fun _ => none) (rmw n) ∧
    (t = 0 ∨ t = 2 → AtomFaults (.atombAdd m t d a 0 b) m [.s b.toNat, .s (b.toNat + 1), .v a.toNat 1] (some a.toNat) (.v d.toNat 1) 1
      (fun _ v => wrap 72 ((v.getD 0 0 : Int) + 4 * (v.getD 2 0 : Nat)))
      (fun v => if v.getD 2 0 < v.getD 1 0 % 2 ^ 64 then none else some (v.getD 2 0)) (rmw 1))) ∧
  (∀ (m : Mods) (d : BitVec 7) (a c p : BitVec 6) (r : BitVec 1) (w : BitVec 3) (s : State) (f : Frame) (g : Wg) (x : CW), f.Ready s m →
    f.MayTrap s g → f.Fits [.v d.toNat (widthRegs w.toNat)] →
    (f.b.sreg a.toNat).words.find? (fun y => ((lccCheck y).data?).isNone) = some x →
    ∀ i ∈ [Instr.ld m d a r w p, .st m d a r w p, .ldp m c a w p, .stp m c a w p],
      f.TrapsSome s i g f.b { lccOf x with lanes := f.active } f.active s.SameMemory) ∧
  (∀ (m : Mods) (d a b : BitVec 7) (c p : BitVec 6) (r : BitVec 1) (w t : BitVec 3) (q : BitVec 4) (s : State) (f : Frame) (g : Wg),
    s.frame? m = some f → s.beam? f.a = some f.b → f.active ≠ 0 → f.MayTrap s g →
    let takes := fun (i : Instr) (code lanes : Nat) => ∃ t, exec i s = .next t ∧
      Agent.TookTrap f.a s t g f.b ⟨code, 0, lanes, 0, 0⟩ f.i.lanes f.i.lanes f.i.pc f.i.prefixed
    let three : List Opnd := [.v a.toNat 1, .v b.toNat 1, .v d.toNat 1]
    let regs := Opnd.v d.toNat (widthRegs w.toNat)
    let named := fun (l : Nat) (os : List Opnd) => f.b.outstanding.any fun y => y.lanes.testBit l &&
      ((os.flatMap f.names).contains y.write.name || match m.pfx with
        | some z => z.k != 0 && y.write.name == .k z.k.toNat
        | none => false)
    (∀ x ∈ [(Instr.add32 m d a b, three), (.faddF32 m d a b, three), (.vshfl m d a b, three), (.ld m d c r w p, [regs]),
        (.st m d c r w p, [regs]), (.ldIndexed m w d c b, [.v b.toNat 1, regs]), (.stIndexed m w d c b, [.v b.toNat 1, regs]),
        (.atomAdd m t d a 0 q, [.v a.toNat 1, .v d.toNat (if t ∈ [3, 4, 5, 7] then 2 else 1)])],
      ¬ f.Fits x.2 → takes x.1 0x04 f.active) ∧
    (f.b.hck = true → ∀ x ∈ [(Instr.add32 m d a b, three), (.faddF32 m d a b, three), (.vshfl m d a b, three),
        (.ld m d c r w p, [.s c.toNat, regs]), (.st m d c r w p, [.s c.toNat, regs]), (.fence m t, [])],
      f.Fits x.2 → (f.lanes.filter fun l => named l x.2) ≠ [] → takes x.1 0x05 (maskOf (f.lanes.filter fun l => named l x.2)))) ∧
  (∀ (m : Mods) (d : BitVec 7) (a p : BitVec 6) (r : BitVec 1) (w : BitVec 3) (s : State) (f : Frame) (x : Nat → List Nat)
    (reason level : Nat), w.toNat ≤ 4 → f.Ready s m → f.lantern = false → f.b.parked = [] →
    let regs := Opnd.v d.toNat (widthRegs w.toNat)
    let va := fun (l : Nat) => strided (2 ^ w.toNat) p.toInt l (x l)
    let sp : Span := ⟨f.pl.ctx, spanBase level (va f.elected), level⟩
    f.Fits [.s a.toNat, regs] → f.Reads [.s a.toNat] x →
    (∀ l ∈ f.lanes, va l % 2 ^ w.toNat = 0 ∧ spanBase level (va l) = sp.base) →
    (s.reach f.pl.core f.pl.ctx (va f.elected) .load).1 = .fault reason level →
    ∃ t b', exec (.ld m d a r w p) s = .next t ∧ t.beam? f.a = some b' ∧ sp ∈ (t.ctx f.pl.ctx).spans ∧
      b'.parked = [(0, ⟨.page [sp] (va f.elected) 0, f.i.pc, f.i.pri, f.active, f.i.prefixed, f.i.words⟩)] ∧
      b'.outstanding = (f.wrote true (f.zeroes regs)).outstanding ∧ b'.s = f.b.s ∧ b'.k = f.b.k ∧ b'.lanes = f.b.lanes ∧
      (∀ l q k, Stands b'.frontier l q k ↔
        if f.active.testBit l then q = f.i.pc ∧ k = .parked 0
        else if f.i.lanes.testBit l then q = f.i.next % 2 ^ 72 ∧ k = .runnable else Stands f.b.frontier l q k) ∧
      ∀ c, c ≠ f.a → t.beam? c = s.beam? c)

/-- R161, R165: in a handler an exception is a double fault, and with `trapvec` = 0 it ends the workgroup with its own cause. What the
record of a double fault holds is read by inference (log entry 30). R170, R384, R460: a terminated workgroup has no beam left, and stays
with its record while its engines drain or the record finds no room; then it is gone, and its launch counts it as ended by termination.
`exit.fault` does so, and in a section ends it FAULTED. The lanes of the record made outside a handler are read by inference (log entry 29);
that a terminated workgroup stays on its core while its record finds no room is the model's reading (log entry 41). -/
def Obligations.TrapTermination : Prop :=
  (∀ (s : State) (w n : Nat) (g : Wg) (b : Beam) (c : Cause) (held path pc src : Nat) (pfx : Bool),
    s.wg? w = some g → s.beam? (.beam w n) = some b →
    (b.inh = true → s.trap (.beam w n) c held path pc pfx src =
      s.terminate w { (default : FaultRec) with cause := 0x30, detail := c.code % 256, source := src, addr := b.taddr, pc := b.entryPc,
                                                data := b.tdata, lanes := b.tlanes }) ∧
    (b.inh = false → g.trapvec = 0 → s.trap (.beam w n) c held path pc pfx src =
      s.terminate w { (default : FaultRec) with cause := c.code, detail := c.detail % 256,
                                                source := if src = 1 ∨ src = 2 then src else 0, addr := c.addr % 2 ^ 72, pc := pc,
                                                data := c.data, lanes := c.lanes })) ∧
  ((∀ (s : State) (w : Nat) (g : Wg) (r : FaultRec), smSorted s.wgs = true → s.wg? w = some g →
    let t := s.terminate w r
    (∀ g', t.wg? w = some g' → g'.status = .ended ∧ g'.beams = [] ∧
      g'.fate = some { r with kind := 2, lid := (s.wgPlace w).lid, wg := g.id, unit := unitOfCore g.core }) ∧
    (s.mayPost g.ctx (unitOfCore g.core) = false → t.wg? w ≠ none) ∧
    (s.engineHolds w = false → s.mayPost g.ctx (unitOfCore g.core) = true → t.wg? w = none) ∧
    (t.wg? w = none → ∀ l, t.launch? g.launch = some l → g.id ∈ l.ended ∧ g.id ∈ l.terminated)) ∧
  (∀ (m : Mods) (s : State) (f : Frame) (w n : Nat), s.frame? m = some f → f.a = .beam w n →
    exec (.exitFault m) s = .next (s.terminate w (if f.b.inh then
      { (default : FaultRec) with cause := f.b.tcause % 256, detail := f.b.tcause / 256 % 256, source := f.b.tsource,
                                  addr := f.b.taddr, pc := f.b.tpc, data := f.b.tdata, lanes := f.b.tlanes }
      else { (default : FaultRec) with cause := 0x31, pc := f.i.pc, lanes := f.i.lanes }))) ∧
  (∀ (m : Mods) (s : State) (f : Frame) (n : Nat), s.frame? m = some f → f.a = .lantern n →
    exec (.exitFault m) s = .next (s.endSection n (0x40 + 0x31) 0 [])))

/-- R403: a section that faults ends, and its sender gets a result with STATUS FAULTED and the cause's code, and no words. R401: COUNT of the
lock's word advances, and FAIL is set. R461: `exit` in a section is such a fault, of ILLEGAL_INSTRUCTION. -/
def Obligations.SectionFaults : Prop :=
  ∀ (s : State) (n : Nat) (r : Section) (c : Cause) (held path pc src : Nat) (pfx : Bool) (p : Page),
    s.section? n = some r → (s.core (lanternIx n)).lines = [] → (s.core (lanternIx n)).flights = [] →
    s.Maps (lanternIx n) r.req.ctx .atomic r.req.lock p →
    let t := s.trap (.lantern n) c held path pc pfx src
    (t.section? n = none ∧ ∃ pub, Msg.result r.req (0x40 + c.code) 0 [] pub ∈ t.msgs) ∧
    (∀ lo hi : Word, s.MemWf → (s.ctxEntry? r.req.ctx).isSome = true → s.resolve p.loc = p.loc → p.loc % 8 = 0 →
      (lccCheck (s.homeWord p.loc)).data? = some lo → (lccCheck (s.homeWord (p.loc + 4))).data? = some hi →
      let v := ((hi ++ lo).toNat + 1) % 2 ^ 63 + 2 ^ 63
      ∀ y, y % 4 = 0 → s.resolve y = y →
        t.homeWord y = putView s.homeWord p.loc [CW.make (.ofNat 32 v), CW.make (.ofNat 32 (v / 2 ^ 32))] y) ∧
    ∀ (m : Mods) (f : Frame), f.Ready s m → f.a = .lantern n → f.lantern = true →
      exec (.exit m) s = .next (s.trap f.a ⟨0x01, 0, f.active, 0, 0⟩ f.i.lanes f.i.lanes f.i.pc f.i.prefixed 4)

/-- R166: the return from a handler. Lanes of the held set re-execute at `tpc`; a skip takes those in `tlanes` past the instruction, and
the lanes of a wait past their wait; a retry resumes the wait, at the address in `tpc` where the handler has written another there; every
other lane resumes where the kept frontier has it, but those that have exited. -/
def Obligations.TrapReturn : Prop :=
  ∀ (m : Mods) (skip : Bool) (s : State) (f : Frame) (w n : Nat) (g : Wg) (kf : List Entry), s.frame? m = some f →
    s.beam? f.a = some f.b → f.a = .beam w n → s.wg? w = some g → f.lantern = false → f.b.inh = true → f.b.kept = some kf → g.extQueue = [] → f.b.pendD = [] →
    f.b.pendPreempt = false → f.b.fatals = [] → (∀ e ∈ kf, e.kind ≠ .join ∧ e.kind ≠ .extAcq ∧ ∀ i x y z, e.kind ≠ .tkwait i x y z) →
    let code := f.b.tcause % 256
    let waits := code = 0x20 ∨ code = 0x21 ∨ code = 0x22
    let live := fun (l : Nat) => f.b.live.testBit l
    let held := fun (l : Nat) => f.b.held.testBit l && live l
    let named := fun (l : Nat) => f.b.tlanes.testBit l && live l
    let after := (f.b.tpc + if f.b.prefixed then 8 else 4) % 2 ^ 72
    let goes := fun (l : Nat) =>
      if waits then
        if skip && named l then some after
        else if named l ∧ f.b.tpc ≠ f.b.entryPc then some (f.b.tpc % 2 ^ 72) else none
      else if held l then some (if skip && named l then after else f.b.tpc % 2 ^ 72) else none
    ∃ t b, exec (if skip then .tretSkip m else .tretRetry m) s = .next t ∧ t.beam? f.a = some b ∧ s.SameMemory t ∧
      b.inh = false ∧ b.kept = none ∧ b.held = 0 ∧ b.s = f.b.s ∧ b.k = f.b.k ∧ b.lanes = f.b.lanes ∧
      ∀ l < 64, ∀ p k, Stands b.frontier l p k ↔
        match goes l with
        | some pc => (∃ q j, Stands kf l q j) ∧ p = pc ∧ k = .runnable
        | none => live l = true ∧ Stands kf l p k

/-- R168, R421, R457, R461: instructions that are legal in a handler only, in one entered for PREEMPT, outside a handler, or in a section
only, raise ILLEGAL_INSTRUCTION of kind W anywhere else. R406, R461: instructions that are illegal in a section end it FAULTED with
SECTION_ILLEGAL. That a moment instruction without the moment file raises it for the whole path, active lanes or none, and that the checks of
`regroup` come after its register bound, is the model's reading (log entry 45). -/
def Obligations.IllegalInstructions : Prop :=
  (∀ (m : Mods) (s : State) (f : Frame), s.frame? m = some f → f.lantern = false →
    let illegal := fun (i : Instr) =>
      exec i s = .next (s.trap f.a ⟨0x01, 0, f.i.lanes, 0, 0⟩ f.i.lanes f.i.lanes f.i.pc f.i.prefixed 0)
    (f.b.inh = false → illegal (.tretRetry m) ∧ illegal (.tretSkip m)) ∧
    (f.b.inh = false ∨ f.b.tcause % 256 ≠ 0x23 → illegal (.yieldSave m)) ∧
    (∀ d n w k, f.a = .beam w k → illegal (.sret m d n)) ∧
    (s.hasMoment f.pl = false → (∀ d a b, illegal (.madd m d a b) ∧ illegal (.msub m d a b) ∧ illegal (.mmul m d a b)) ∧
      (∀ d a, illegal (.mrelu m d a) ∧ illegal (.mexp m d a) ∧ illegal (.msigm m d a) ∧ illegal (.mrcp m d a) ∧ illegal (.mmov m d a)) ∧
      (∀ d a b, illegal (.mscale m d a b)) ∧ (∀ d a b, illegal (.mset m d a b)) ∧ (∀ d a, illegal (.mcvtMomMb16 m d a)) ∧
      (∀ d a, illegal (.mcvtMb16Mom m d a) ∧ illegal (.mcolMean m d a) ∧ illegal (.mcolVar m d a) ∧ illegal (.mcolSd m d a)) ∧
      (∀ d a b, illegal (.mcolSmp m d a b)) ∧ (∀ d a k p, illegal (.mld m d a k p) ∧ illegal (.mst m d a k p)) ∧
      ∀ h t ab, illegal (.mmaMom m h t ab)) ∧
    (f.active ≠ 0 → f.b.inh = true → ∀ a : BitVec 7, f.Fits [.v a.toNat 1] →
      exec (.regroup m a) s = .next (s.trap f.a ⟨0x01, 0, f.active, 0, 0⟩ f.i.lanes f.i.lanes f.i.pc f.i.prefixed 0))) ∧
  (∀ (m : Mods) (s : State) (f : Frame) (n : Nat), s.frame? m = some f → f.a = .lantern n → f.lantern = true →
    let ends := fun (i : Instr) => exec i s = .next (s.endSection n (0x40 + 0x03) 0 [])
    (∀ h t a b, ends (.mm m h t a b) ∧ ends (.mmloop m h t a b) ∧ ends (.mmsp m h t a b) ∧ ends (.mmgat m h t a b)) ∧
    (∀ h t ab, ends (.mmaMom m h t ab)) ∧ (∀ t, ends (.accz m t)) ∧ (∀ t a b, ends (.accld m t a b) ∧ ends (.accst m t a b)) ∧
    (∀ t a, ends (.accrd m t a) ∧ ends (.accwr m t a)) ∧ (∀ d a b, ends (.cpy m d a b) ∧ ends (.cpy2d m d a b)) ∧
    (∀ d a e k, ends (.shipW m d a e k)) ∧ (∀ d a e j k, ends (.shipT m d a e j k)) ∧
    (∀ a, ends (.pfarrive m a) ∧ ends (.pfwait m a) ∧ ends (.barCon m a)) ∧ (∀ d a, ends (.pftest m d a)) ∧ ends (.barWg m) ∧
    (∀ a, ends (.regroup m a)) ∧ ends (.regroupFlush m))

/-- R283, R286, R289, R322: a fence below die scope moves no word; a wider one leaves no write of its threads in flight to its region, nor
one of its workgroup that others have seen (R277), and no word of its workgroup dirty there, and LAST at the board's tail; with an empty
cache it leaves memory as it was, and with nothing in flight the dirty words of its workgroup in the region, and no others, have gone home.
R284, R285, R323: after a crossing no write of its workgroup on the first path is under way, to memory or to the scratchpad; before an engine
reads, the workgroup's dirty words go home; after an engine has written, the lines its signature names leave the cache; a section's crossings
do nothing. -/
def Obligations.Fences : Prop :=
  (∀ (m : Mods) (k : BitVec 3) (s : State) (f : Frame), f.Ready s m →
    let sc := scopeOf k.toNat
    let own := fun (ws : List Nat) => f.lantern || ws.contains f.pl.wg
    (sc.wide = false → ∃ t, exec (.fence m k) s = .next t ∧ f.Moves s t f.b ∧ s.SameMemory t) ∧
    (sc.wide = true → (s.core f.pl.core).LinesWf → s.MemWf → f.pl.core < s.cores.length →
      ∃ t, exec (.fence m k) s = .next t ∧ f.Moves s t f.b ∧
        (t.core f.pl.core).last = (t.die f.pl.die).tail ∧
        (∀ x ∈ (t.core f.pl.core).flights, f.mine x = true ∨ (own x.wgs = true ∧ x.shared = true) →
          sc.region f.pl.die x.loc = false) ∧
        (∀ e ∈ (t.core f.pl.core).lines, ∀ d ∈ e.2.dirty, own d.2.2 = true → sc.region f.pl.die (e.1 * 64) = false) ∧
        (f.Quiet s → s.SameMemory t) ∧
        ((s.core f.pl.core).flights = [] →
          s.Homes t f.pl.core fun y ws => own ws && sc.region f.pl.die (y / 64 * 64)))) ∧
  (∀ (m : Mods) (p q : BitVec 2) (s : State) (f : Frame), f.Ready s m → (s.core f.pl.core).LinesWf → s.MemWf →
    f.pl.core < s.cores.length →
    let engine := fun (x : BitVec 2) => x = 1 ∨ x = 2
    (f.lantern = true → f.Does s (.xfence m p q) id f.b) ∧
    (f.lantern = false → ∃ t, exec (.xfence m p q) s = .next t ∧ f.Moves s t f.b ∧
      (∀ x ∈ (t.core f.pl.core).flights, f.pl.wg ∈ x.wgs → x.path ≠ p.toNat) ∧
      (∀ g, t.wg? f.pl.wg = some g → ∀ x ∈ g.pool, x.path ≠ p.toNat) ∧
      (p = 0 → engine q →
        (∀ e ∈ (t.core f.pl.core).lines, ∀ d ∈ e.2.dirty, f.pl.wg ∉ d.2.2) ∧
        ((s.core f.pl.core).flights = [] → s.Homes t f.pl.core fun _ ws => ws.contains f.pl.wg)) ∧
      ((s.core f.pl.core).flights = [] → ¬ (p = 0 ∧ engine q) → s.Homes t f.pl.core fun _ _ => false) ∧
      (∀ g, engine p → q = 0 → s.wg? f.pl.wg = some g →
        (∀ e ∈ (t.core f.pl.core).lines, sigMatches (if p = 1 then g.sigCopy else g.sigMatrix) e.1 = false) ∧
        (t.wg? f.pl.wg).map (fun g => if p = 1 then g.sigCopy else g.sigMatrix) = some 0)))

/-- R251, R324: `cinv` drops lines from the issuing core's cache and sends their dirty words home, which the core goes on to read;
`cflush.l1` and `cflush.all` write dirty words home and leave the lines, and `cflush.l2` writes the slice's line to its stack; no other word of
memory moves. The forms for all lines read no address; where an address's register is uncorrectable the others do nothing. R253, R254, R325: a prefetch of cached pages brings each lane's line into the core's cache, at even levels, and changes no word,
where the cache has room. -/
def Obligations.CacheMaintenanceAndPrefetch : Prop :=
  (∀ (m : Mods) (a : BitVec 7) (s : State) (f : Frame), f.Ready s m →
    (s.core f.pl.core).LinesWf → s.MemWf → (s.core f.pl.core).flights = [] → f.pl.core < s.cores.length →
    let sent := fun (t : State) (which : Nat → Prop) => ∀ y, y % 4 = 0 → t.homeWord y = s.homeWord y ∧ (which (y / 64) →
      t.coreWord f.pl.core y = if (s.dirtyBy f.pl.core y).isSome then s.coreWord f.pl.core y else s.homeWord y)
    (∃ t, exec (.cinv m a 1) s = .next t ∧ f.Moves s t f.b ∧ (t.core f.pl.core).lines = [] ∧ sent t fun _ => True) ∧
    (∃ t, exec (.cflush m a 2) s = .next t ∧ f.Moves s t f.b ∧ (∀ e ∈ (t.core f.pl.core).lines, e.2.dirty = []) ∧
      s.Homes t f.pl.core fun _ _ => true) ∧
    (f.value f.elected (.s a.toNat) = none → ∀ i, i = .cinv m a 0 ∨ i = .cflush m a 0 ∨ i = .cflush m a 1 →
      ∃ t, exec i s = .next t ∧ f.Moves s t f.b ∧ s.SameMemory t ∧ (t.core f.pl.core).lines = (s.core f.pl.core).lines) ∧
    ∀ (va : Nat) (t : TlbEntry), f.value f.elected (.s a.toNat) = some va →
      (if isLantern f.pl.core then (s.die (dieOfCore f.pl.core)).tlb else (s.core f.pl.core).tlb).find?
        (·.covers f.pl.ctx (va % 2 ^ 72)) = some t →
      let line := (t.page (va % 2 ^ 72)).loc / 64
      (∃ t, exec (.cinv m a 0) s = .next t ∧ f.Moves s t f.b ∧
        (∀ n, smGet? (t.core f.pl.core).lines n = if n = line then none else smGet? (s.core f.pl.core).lines n) ∧
        sent t (· = line)) ∧
      (∃ t, exec (.cflush m a 0) s = .next t ∧ f.Moves s t f.b ∧
        (∀ l, smGet? (t.core f.pl.core).lines line = some l → l.dirty = []) ∧ s.Homes t f.pl.core fun y _ => y / 64 == line) ∧
      ∃ t, exec (.cflush m a 1) s = .next t ∧ f.Moves s t f.b ∧ s.SameMemory t ∧ t.sliceDirty line = false) ∧
  (∀ (m : Mods) (k : BitVec 4) (a : BitVec 6) (b : BitVec 7) (s : State) (f : Frame) (x : Nat → List Nat) (p : Nat → Page),
    f.Ready s m → f.Fits [.v b.toNat 1] → f.Reads [.s a.toNat, .v b.toNat 1] x → (s.core f.pl.core).flights = [] → s.MemWf →
    f.pl.core < s.cores.length →
    (∀ l ∈ f.lanes, s.Maps f.pl.core f.pl.ctx .load (indexed l (x l)) (p l) ∧ (p l).cached = true ∧ s.resolve (p l).loc = (p l).loc) →
    let room := (s.core f.pl.core).lines.length + f.lanes.length ≤ 16
    ∃ t, exec (.pref m k a b) s = .next t ∧ f.Moves s t f.b ∧ (k.toNat % 2 = 1 ∨ room → s.SameMemory t) ∧
      (k.toNat % 2 = 0 → room → ∀ l ∈ f.lanes, (smGet? (t.core f.pl.core).lines ((p l).loc / 64)).isSome = true))

/-- R488: what starts a module reset, and what it leaves: nothing that ran, and STATE at SELFTEST until the sequence ends. Then it ends in
the pilot light, with PLCAUSE 1 where the ROM fails, 2 where an image's signature does, and 3 where, after the parts before it have been
replaced, a failed part's class and scope has no spare left, or else in READY with every cell 0 and every table at its reset value. That
memory behind system addresses stays is the model's choice (log entry 3), and so is which images a reset checks, those of the four flash
slots (log entry 7). -/
def Obligations.ResetSequence : Prop :=
  (∀ (s : State) (r : ResetFindings) (i : Instr),
    (i = .powerOn r ∨
      (s.mod.status ≠ 4 ∧ (i = .pcieHotReset r ∨ i = .linkDown r ∨ i = .functionLevelReset r ∨ i = .resetctlRst r))) →
    ∃ t, exec i s = .next t ∧
      t.launches = [] ∧ t.wgs = [] ∧ t.msgs = [] ∧ t.ctxs = [] ∧ t.cores = List.replicate 416 .reset ∧
      t.lanterns = List.replicate 128 .reset ∧ t.lqs = List.replicate 64 .reset ∧ t.l2 = [] ∧
      t.mod.control = .reset ∧ t.mod.service = .reset ∧ t.mod.number = 0 ∧ t.mod.domain = 1 ∧ t.mod.ctxCount = 0 ∧
      t.mod.powercap = 3200 ∧ t.mod.lodestar = [] ∧ t.mod.substar = [] ∧ t.mod.flash = s.mod.flash ∧
      (∀ a, 2 ^ 57 ≤ a → t.mem.byte a = s.mem.byte a) ∧
      t.mod.status = 0 ∧ t.mod.plcause = 0 ∧ t.mod.meas = List.replicate 8 0 ∧ t.mod.task = some (.reset r) ∧
      t.mod.resets = if i = .powerOn r then 1 else s.mod.resets + 1) ∧
  ∀ (s : State) (r : ResetFindings), s.mod.task = some (.reset r) →
    let t := s.finishTask
    t.launches = [] ∧ t.wgs = [] ∧ t.msgs = [] ∧ t.mod.task = none ∧ t.mod.flash = s.mod.flash ∧
    (∀ a, 2 ^ 57 ≤ a → t.mem.byte a = s.mem.byte a) ∧
    (r.romOk = false → t.mod.status = 2 ∧ t.mod.plcause = 1 ∧ t.mod.meas = s.mod.meas) ∧
    (r.romOk = true → s.mod.imagesOk = false → t.mod.status = 2 ∧ t.mod.plcause = 2 ∧
      t.mod.meas = s.mod.meas.set 0 (measExtend (s.mod.meas.getD 0 0) Config.romDigest)) ∧
    let after := fun (ps : List Nat) => (ps.foldl (fun m p => (m.substitute p).getD m) s.mod).chart
    let short := ∃ a p b c sc n, r.failed = a ++ p :: b ∧ partPlace p = some (c, sc, n) ∧ sparesLeft (after a) c sc = 0
    (r.romOk = true → s.mod.imagesOk = true →
      (¬ short → t.mod.status = 1 ∧ t.mod.plcause = 0 ∧ t.mod.control = .reset ∧ t.mod.service = .reset ∧ t.mod.msix = [] ∧
        t.mod.winbase = 0 ∧ t.mod.number = 0 ∧ t.mod.domain = 1 ∧ ∀ a, a < 2 ^ 57 → t.mem.byte a = 0) ∧
      (short → t.mod.status = 2 ∧ t.mod.plcause = 3))

/-- R475, R498, R499: a reset of function 1 empties its mailbox only (its quote stays by log entry 28, DEDUCED; the chart outlives the supply
by log entry 23, DEDUCED); without power nothing runs; losing it loses the memory; a thermal
stop loses the work but no memory, and outside READY and QUIESCING does nothing (log entry 63, DEDUCED from R488, which keeps STATE at
SELFTEST); an operating point changes nothing else. -/
def Obligations.PowerAndHeat : Prop :=
  ∀ s : State,
    (exec .serviceFunctionLevelReset s =
      .next { s with mod := { s.mod with service := { Mailbox.reset with quote := s.mod.service.quote } } }) ∧
    (∀ r, s.mod.status = 4 → exec (.pcieHotReset r) s = .next s ∧ exec (.linkDown r) s = .next s ∧
      exec (.functionLevelReset r) s = .next s ∧ exec (.resetctlRst r) s = .next s) ∧
    (∃ t, exec .powerRemoved s = .next t ∧ t.mod.status = 4 ∧ t.wgs = [] ∧ t.launches = [] ∧ t.mod.chart = s.mod.chart ∧
      t.mod.mapping = s.mod.mapping ∧ t.mod.flash = s.mod.flash ∧ t.mod.report = [] ∧ t.islands.all (·.stopped) = true ∧
      ∀ a, a < 2 ^ 57 → t.mem.byte a = 0) ∧
    (∀ island, ((s.mod.status ≠ 1 ∧ s.mod.status ≠ 3) ∨ (s.islands.getD island default).point + 1 ≠
      (if island = 40 then 1 else if island % 5 = 3 then 5 else 8)) → island ≤ 40 → exec (.thermalStop island) s = .next s) ∧
    (∀ island, (s.mod.status = 1 ∨ s.mod.status = 3) → island ≤ 40 →
      (s.islands.getD island default).point + 1 = (if island = 40 then 1 else if island % 5 = 3 then 5 else 8) →
      ∃ t, exec (.thermalStop island) s = .next t ∧ t.mod.status = 2 ∧ t.mod.plcause = 4 ∧ t.wgs = [] ∧ t.launches = [] ∧
        t.msgs = [] ∧ t.mem = s.mem ∧ t.mod.meas = s.mod.meas ∧ t.mod.report = s.mod.report ∧
        (∀ (k : Nat), k < s.cores.length → (t.core k).lines = [] ∧ (t.core k).pmc = (s.core k).pmc ∧
          (t.core k).pmcsel = (s.core k).pmcsel ∧ (t.core k).errs = (s.core k).errs) ∧
        (∀ (n : Nat) (x : Island), n < 40 → t.islands[n]? = some x → x.stopped = true) ∧
        ∀ (q : Nat), (t.lq q).head = (s.lq q).head ∧ (t.lq q).tail = (s.lq q).tail) ∧
    (∀ island point, s.mod.status ≠ 4 → point < (if island = 40 then 1 else if island % 5 = 3 then 5 else 8) → island ≤ 40 →
      exec (.operatingPointChange island point) s =
        .next { s with islands := s.islands.modify island fun x => { x with point := point } })

/-- R475 to R477: a write of BAR 0 acts on the register at its offset; read-only registers and reserved offsets take nothing; accesses of
another size or alignment are discarded; what the staging window and the mailbox slots take is read back. R364, R365: writes to LQCFG,
LQBASE, LQBASEH and LQTAIL; an accepted doorbell leaves no core a line that the host has written before it. R386, R478, R482: tail writes of a mailbox, MBCFG, and the message that waits behind a masked vector. -/
def Obligations.RegisterWrites : Prop :=
  (∀ (s : State) (svc : Bool) (off size v : Nat),
    (s.mod.status = 4 ∨ (size ≠ 4 ∧ size ≠ 8) ∨ off % size ≠ 0 → exec (.registerWrite svc off size v) s = .next s) ∧
    (∀ q, q < 64 →
      exec (.registerWrite false (0x10000 + 256 * q) 4 v) s = exec (.lqcfgWrite q (v % 2 ^ 32)) s ∧
      exec (.registerWrite false (0x10008 + 256 * q) 8 v) s = exec (.lqbaseWrite q false (v % 2 ^ 64)) s ∧
      exec (.registerWrite false (0x10010 + 256 * q) 8 v) s = exec (.lqbaseWrite q true (v % 2 ^ 64)) s ∧
      exec (.registerWrite false (0x10018 + 256 * q) 4 v) s = .next s ∧
      exec (.registerWrite false (0x10020 + 256 * q) 4 v) s = exec (.lqtailWrite q (v % 2 ^ 32)) s) ∧
    exec (.registerWrite svc 0x1000 4 v) s = exec (.mbcfgWrite svc (v % 2 ^ 32)) s ∧
    exec (.registerWrite svc 0x1010 4 v) s = exec (.mbtailWrite svc (v % 2 ^ 32)) s ∧
    (∀ o ∈ [0, 8, 0x1008, 0x110000, 0x111000, 0x112000, 0x113000, 0x100000, 0x20000], exec (.registerWrite false o 8 v) s = .next s) ∧
    (s.mod.status ≠ 4 →
      (∃ t, exec (.registerWrite false 0x18 8 v) s = .next t ∧ t.mod.winbase = v / 2 ^ 28 % 2 ^ 30 * 2 ^ 28 ∧ t.mem = s.mem) ∧
      (∃ r n, exec (.registerWrite false 0x10 4 1) s = exec (.resetctlRst r) { s with free := n }) ∧
      exec (.registerWrite false 0x10 4 0) s = .next s ∧
      ((size = 4 ∨ size = 8) → off % size = 0 →
        (0x1000000 ≤ off → off < 0x2000000 →
          ∃ t, exec (.registerWrite false off size v) s = .next t ∧ t.barRead false off size = v % 2 ^ (8 * size)) ∧
        (0x2000 ≤ off → off < 0x3000 → ((s.mod.mailbox svc).slot ((off - 0x2000) / 64)).length = 64 →
          ∃ t, exec (.registerWrite svc off size v) s = .next t ∧ t.barRead svc off size = v % 2 ^ (8 * size))))) ∧
  (∀ (s : State) (q v : Nat), s.mod.status = 1 → q < s.lqs.length →
    let x := s.lq q
    let idle := x.en = false ∧ x.head = x.tail
    (∃ t, exec (.lqcfgWrite q v) s = .next t ∧ (∀ n, n ≠ q → t.lq n = s.lq n) ∧ (t.lq q).en = v.testBit 31 ∧
      (t.lq q).base = x.base ∧ (t.lq q).head = x.head ∧ (t.lq q).tail = x.tail ∧
      (idle → (t.lq q).device = v.testBit 30 ∧ (t.lq q).log2 = v / 2 ^ 20 % 2 ^ 4 ∧ (t.lq q).ctx = v % 2 ^ 16 ∧
        (t.lq q).err = (x.err && !v.testBit 29)) ∧
      (¬ idle → (t.lq q).device = x.device ∧ (t.lq q).log2 = x.log2 ∧ (t.lq q).ctx = x.ctx ∧
        (t.lq q).err = ((x.err && !v.testBit 29) ||
          decide (v.testBit 30 ≠ x.device ∨ v / 2 ^ 20 % 2 ^ 4 ≠ x.log2 ∨ v % 2 ^ 16 ≠ x.ctx)))) ∧
    (∀ high : Bool, ∃ t, exec (.lqbaseWrite q high v) s = .next t ∧ (∀ n, n ≠ q → t.lq n = s.lq n) ∧
      (idle → t.lq q = { x with base :=
        if high then x.base % 2 ^ 64 + v % 2 ^ 8 * 2 ^ 64 else x.base / 2 ^ 64 * 2 ^ 64 + v % 2 ^ 64 / 2 ^ 8 * 2 ^ 8 }) ∧
      (¬ idle → t.lq q = { x with err := true })) ∧
    (∃ t, exec (.lqtailWrite q v) s = .next t ∧ (∀ n, n ≠ q → t.lq n = s.lq n) ∧
      let slots := if 4 ≤ x.log2 ∧ x.log2 ≤ 16 then 2 ^ x.log2 else 0
      let tail := v % 2 ^ 32
      let ok := x.device = false ∧
        if slots = 0 then tail = x.tail
        else (BitVec.ofNat 32 tail - BitVec.ofNat 32 x.head).toNat ≤ slots ∧ (BitVec.ofNat 32 tail - BitVec.ofNat 32 x.tail).toNat ≤ slots
      (ok → t.lq q = { x with tail := tail } ∧ ((∀ c, smSorted (s.core c).lines = true) →
        ∀ ln ∈ s.mod.outside, ∀ c, smGet? (t.core c).lines ln = none)) ∧
      (¬ ok → t.lq q = { x with err := true }))) ∧
  (∀ (s : State) (svc : Bool) (v : Nat), (s.mod.status = 1 ∨ s.mod.status = 2) →
    let b := s.mod.mailbox svc
    let tail := v % 2 ^ 32
    (∃ t, exec (.mbtailWrite svc v) s = .next t ∧ t.mod.mailbox (!svc) = s.mod.mailbox (!svc) ∧ t.mod.mailbox svc =
      if (BitVec.ofNat 32 tail - BitVec.ofNat 32 b.head).toNat ≤ 64 ∧ (BitVec.ofNat 32 tail - BitVec.ofNat 32 b.tail).toNat ≤ 64
      then { b with tail := tail } else b) ∧
    (∃ t, exec (.mbcfgWrite svc v) s = .next t ∧ t.mod.mailbox (!svc) = s.mod.mailbox (!svc) ∧ t.mod.mailbox svc =
      if svc = true ∧ v / 2 ^ 4 % 2 ^ 7 ≠ 0 then b else { b with ien := v.testBit 31, vec := v % 2 ^ 11 }) ∧
    (∀ n, n < (if svc then 16 else 2048) →
      let x := s.mod.vector svc n
      ∃ t, exec (.msixUnmask svc n) s = .next t ∧ (t.mod.vector svc n).masked = false ∧
        (x.pending = true → (t.mod.vector svc n).pending = false ∧ t.mod.sent = s.mod.sent ++ [(x.addr, x.data)]) ∧
        (x.pending = false → (t.mod.vector svc n).pending = false ∧ t.mod.sent = s.mod.sent)))

/-- R478: the response stands in the command's slot: OPCODE and TAG echoed, STATUS, results; MBHEAD advances; no other slot, and nothing of
the other mailbox, changes. R478: a command is turned away, with no other effect, by the first check that it fails: non-zero bytes 2 and 3,
the function, the state; an opcode that R479 does not list is UNKNOWN. -/
def Obligations.MailboxResponse : Prop :=
  (∀ (s : State) (svc : Bool) (status : Nat) (result : List Byte),
    let b := s.mod.mailbox svc
    let t := s.respond svc status result
    (t.mod.mailbox svc).head = (b.head + 1) % 2 ^ 32 ∧ (t.mod.mailbox svc).tail = b.tail ∧
    (t.mod.mailbox svc).slot b.head = bytesAt (s.command svc) 0 2 ++ bytesOfNat 2 status ++ bytesAt (s.command svc) 4 4 ++ bytesAt result 0 56 ∧
    (∀ n, n % 64 ≠ b.head % 64 → (t.mod.mailbox svc).slot n = b.slot n) ∧
    t.mod.mailbox (!svc) = s.mod.mailbox (!svc) ∧ t.mem = s.mem ∧
    (b.ien = false → t.mod.sent = s.mod.sent) ∧
    (b.ien = true → (s.mod.vector svc b.vec).masked = false →
      t.mod.sent = s.mod.sent ++ [((s.mod.vector svc b.vec).addr, (s.mod.vector svc b.vec).data)]) ∧
    (b.ien = true → (s.mod.vector svc b.vec).masked = true →
      t.mod.sent = s.mod.sent ∧ (t.mod.vector svc b.vec).pending = true)) ∧
  (∀ (s : State) (svc : Bool) (i : Instr) (code : Nat) (f1 pl : Bool),
    (i, code, f1, pl) ∈ commandTable svc → s.nextMailbox = some svc → fieldAt (s.command svc) 0 2 = code →
    (fieldAt (s.command svc) 2 2 ≠ 0 → exec i s = .next (s.respond svc 2 [])) ∧
    (fieldAt (s.command svc) 2 2 = 0 → svc = true → f1 = false → exec i s = .next (s.respond svc 4 [])) ∧
    (fieldAt (s.command svc) 2 2 = 0 → (svc = false ∨ f1 = true) → s.mod.status = 2 → pl = false →
      exec i s = .next (s.respond svc 3 [])) ∧
    exec (.mailboxUnknown svc) s = .next s ∧
    ∀ t : State, t.nextMailbox = some svc → (∀ x ∈ commandTable svc, fieldAt (t.command svc) 0 2 ≠ x.2.1) →
      exec (.mailboxUnknown svc) t = .next (t.respond svc 1 []))

/-- R479, R490 to R492: STATUS, ATTEST, FWLOAD and MEASEXT. Which of the images 0 to 3 is named, and the number that the signature draws, are
free values, the signature is opaque and SM3 presumed (log entries 26, 7, 8). -/
def Obligations.IdentityCommands : Prop :=
  ∀ (s : State) (svc : Bool),
    let c := s.command svc
    (s.Offers svc 1 [] → s.Answers (.status svc) svc 0 (bytesOfNat 4 s.mod.statusWord) s) ∧
    (s.Offers svc 2 [(8, 32)] → ∃ (image random : Nat) (u : State), image < 4 ∧
      s.Answers (.attest svc) svc 0 (bytesOfNat 4 536) u ∧
      (u.mod.mailbox svc).quote =
        (let body := bytesOfNat 4 1 ++ bytesOfNat 4 s.mod.statusWord ++ bytesAt c 8 32 ++ bytesAt (s.mod.meas.flatMap bytes32) 0 256 ++
          bytesAt (chartSummary s.mod.chart) 0 160 ++ bytesOfNat 4 s.mod.powercap ++ bytesOfNat 1 s.mod.domain ++ bytesOfNat 1 image ++
          List.replicate 10 0
        body ++ bytesAt (Config.sign random [0x46, 0x48, 0x2D, 0x41, 0x4D, 0x5A, 0x38, 0x2D, 0x37, 0x36, 0x38] body) 0 64) ∧
      (u.mod.mailbox (!svc)).quote = (s.mod.mailbox (!svc)).quote) ∧
    (svc = false → s.Offers svc 3 [(8, 5)] →
      let n := fieldAt c 8 4
      let slot := fieldAt c 12 1
      let digest := sm3 ((List.range n).map fun i => (smGet? s.mod.staging i).getD 0)
      if n ≤ 2 ^ 24 ∧ slot ≤ 3 ∧ Config.signatureOk digest = true then
        s.Answers (.fwload svc) svc 0 [] { s with mod := { s.mod with flash := smSet s.mod.flash slot (n, digest.toNat) } }
      else s.Answers (.fwload svc) svc 2 [] s) ∧
    (svc = false → s.Offers svc 4 [(8, 1), (16, 32)] →
      let i := fieldAt c 8 1
      let v := measExtend (s.mod.meas.getD i 0) (.ofNat 256 (natOfBytes (bytesAt c 16 32).reverse))
      if i = 6 ∨ i = 7 then s.Answers (.measext svc) svc 0 [] { s with mod := { s.mod with meas := s.mod.meas.set i v } }
      else s.Answers (.measext svc) svc 2 [] s)

/-- R385, R436, R439, R440, R260, R483: the domain, the context table, page services, translation invalidation and the lodestar table. R436:
once no request for a held bucket is under way, the buckets are written and the command is answered. -/
def Obligations.TableCommands : Prop :=
  (∀ s : State,
    let c := s.command false
    let ctx := fieldAt c 8 2
    let va := fieldAt c 16 9
    (s.Offers false 0x10 [(8, 2)] →
      let n := fieldAt c 8 1
      let d := fieldAt c 9 1
      if n ≤ 127 ∧ n < d ∧ d ≤ 128 then
        s.Answers (.domain false) false 0 [] { s with mod := { s.mod with number := n, domain := d } }
      else s.Answers (.domain false) false 2 [] s) ∧
    (s.Offers false 0x11 [(8, 10)] →
      let base := fieldAt c 8 8
      let n := fieldAt c 16 2
      if base % 128 ≠ 0 ∨ 2 ^ 58 ≤ base ∨ n = 0 ∨ 4096 < n then s.Answers (.ctxtable false) false 2 [] s
      else if ∃ q ∈ s.lqs, q.en = true then s.Answers (.ctxtable false) false 5 [] s
      else ∃ u, s.Answers (.ctxtable false) false 0 [] u ∧ u.mod.ctxBase = base ∧ u.mod.ctxCount = n ∧
        (∀ x ∈ u.ctxs, x.2.cached = none) ∧ u.wgs = s.wgs ∧ u.mem = s.mem) ∧
    (s.Offers false 0x12 [(8, 2)] → ctx < s.mod.ctxCount →
      if (∃ x ∈ s.launches, x.2.record.ctx = ctx) ∨ ∃ x ∈ s.wgs, x.2.ctx = ctx then s.Answers (.ctxreload false) false 5 [] s
      else ∃ u, s.Answers (.ctxreload false) false 0 [] u ∧ (u.ctx ctx).cached = none ∧
        ∀ x, x ≠ ctx → u.ctx x = s.ctx x) ∧
    (s.Offers false 0x13 [(8, 2), (16, 9), (32, 1)] → ctx < s.mod.ctxCount →
      if va % 65536 ≠ 0 ∨ 1 < fieldAt c 32 1 then s.Answers (.svcdone false) false 2 [] s
      else if ∃ sp ∈ (s.ctx ctx).spans, sp.holds ctx va = true then
        s.Answers (.svcdone false) false 0 [] (s.service ctx va (fieldAt c 32 1 == 1))
      else s.Answers (.svcdone false) false 0 [] s) ∧
    (s.Offers false 0x14 [(8, 2), (16, 9), (32, 8)] → ctx < s.mod.ctxCount →
      let len := fieldAt c 32 8
      if va % 65536 ≠ 0 ∨ len % 65536 ≠ 0 then s.Answers (.tlbinv false) false 2 [] s
      else ∃ u, s.Answers (.tlbinv false) false 0 [] u ∧ (∀ k ∈ u.cores, ∀ t ∈ k.tlb, t.meets ctx va len = false) ∧
        (∀ d ∈ u.dies, ∀ t ∈ d.tlb, t.meets ctx va len = false) ∧ ∀ k, k < 416 → (u.core k).flights = []) ∧
    (s.Offers false 0x15 [(8, 1), (10, 3), (16, fieldAt c 12 1)] →
      let table := fieldAt c 8 1
      let first := fieldAt c 10 2
      let n := fieldAt c 12 1
      let v := fun (i : Nat) => (c.getD (16 + i) 0).toNat
      let size := if table = 0 then 4096 else 512
      let bucket := fun (i : Nat) => if table = 0 then first + i else 4096 + 512 * (table - 1) + first + i
      if 8 < table ∨ n = 0 ∨ 32 < n ∨ size < first + n ∨ ∃ i < n, (if table = 0 then 128 else 16) ≤ v i then
        s.Answers (.lodestar false) false 2 [] s
      else if ∀ i < n, s.mod.bucket (bucket i) = v i then s.Answers (.lodestar false) false 0 [] s
      else ∃ t, exec (.lodestar false) s = .next t ∧ t.mod.control = s.mod.control ∧
        ∀ b x, (b, x) ∈ t.mod.starHold ↔ ∃ i < n, b = bucket i ∧ x = v i ∧ s.mod.bucket b ≠ x)) ∧
  (∀ s : State, s.mod.starHold ≠ [] → s.bucketBusy = false → (s.mod.starHold.map (·.1)).Nodup →
    smSorted s.mod.lodestar = true → smSorted s.mod.substar = true →
    ∃ t, exec .lodestarUpdate s = .next t ∧ t.mod.starHold = [] ∧ t.mod.control.head = (s.mod.control.head + 1) % 2 ^ 32 ∧
      (∀ b v, (b, v) ∈ s.mod.starHold → t.mod.bucket b = v) ∧
      ∀ b, (∀ v, (b, v) ∉ s.mod.starHold) → t.mod.bucket b = s.mod.bucket b)

/-- R388, R467, R470 to R472, R495, R498: settings and counters; where a budget is no longer spent, the cores whose engines want a step are
taken in ascending order. That reserved argument bits are dropped, and CAP = 0 with UNL = 1 allowed,
is read by inference (log entry 27). -/
def Obligations.SettingCommands : Prop :=
  ∀ s : State,
    let c := s.command false
    let unit := fieldAt c 8 2
    (s.Offers false 0x16 [(8, 3), (12, 4)] → ∀ k, coreOfUnit unit = some k →
      let n := fieldAt c 10 1
      let sel := fieldAt c 12 4
      if n < 16 then
        s.Answers (.pmcsel false) false 0 []
          { s with cores := s.cores.modify k fun x => { x with
            pmcsel := x.pmcsel.set n (sel % 2 ^ 24 + sel / 2 ^ 30 % 2 ^ 2 * 2 ^ 30), pmc := x.pmc.set n 0 } }
      else s.Answers (.pmcsel false) false 2 [] s) ∧
    (s.Offers false 0x16 [(8, 3), (12, 4)] → coreOfUnit unit = none → s.Answers (.pmcsel false) false 2 [] s) ∧
    (s.Offers false 0x17 [(8, 2)] → payerOfUnit unit = none → s.Answers (.errreport false) false 2 [] s) ∧
    (s.Offers false 0x17 [(8, 2)] → ∀ p, payerOfUnit unit = some p →
      s.Answers (.errreport false) false 0
        (bytesOfNat 4 (s.errs p).corr ++ bytesOfNat 4 (s.errs p).uncorr ++ bytesOfNat 4 (s.errs p).nvc) s) ∧
    (s.Offers false 0x18 [(8, 2)] → unit ≠ 0xFFFF → payerOfUnit unit = none → s.Answers (.errclear false) false 2 [] s) ∧
    (s.Offers false 0x18 [(8, 2)] → unit = 0xFFFF ∨ (payerOfUnit unit).isSome = true → s.cores.length = 416 → s.slices.length = 256 →
      ∃ u, s.Answers (.errclear false) false 0 [] u ∧ u.mod = s.mod ∧ u.mem = s.mem ∧
        ∀ p ∈ allPayers, u.errs p = if unit = 0xFFFF ∨ payerOfUnit unit = some p then .zero else s.errs p) ∧
    (s.Offers false 0x19 [(8, 1), (12, 4)] →
      let k := fieldAt c 8 1
      let th := fieldAt c 12 4
      if 4 < k then s.Answers (.errthresh false) false 2 [] s
      else ∃ u, s.Answers (.errthresh false) false 0 [] u ∧ u.mod.thresholds = s.mod.thresholds.set k th ∧
        (∀ p ∈ allPayers, p.cls = k → (th < (s.errs p).corr ∨ th < (s.errs p).uncorr ∨ th < (s.errs p).nvc) → p.unit ∈ u.mod.candidates) ∧
        ∀ x, x ∈ u.mod.candidates → x ∈ s.mod.candidates ∨ ∃ p ∈ allPayers, p.cls = k ∧ p.unit = x ∧
          (th < (s.errs p).corr ∨ th < (s.errs p).uncorr ∨ th < (s.errs p).nvc)) ∧
    (s.Offers false 0x1A [(8, 1), (16, 8)] →
      let i := fieldAt c 8 1
      let v := fieldAt c 16 8
      let cap := v / 2 ^ 32 % 2 ^ 24
      if 39 < i ∨ (cap = 0 ∧ v.testBit 63 = false) then s.Answers (.wick false) false 2 [] s
      else s.Answers (.wick false) false 0 [] { s with islands := s.islands.modify i fun x =>
        { x with unlimited := v.testBit 63, cap := cap, refill := v % 2 ^ 24, level := cap, waiting :=
          if x.level < 0 then (List.range 288).filter fun k => islandOfCore k == i && s.wantsStep k else x.waiting } }) ∧
    (s.Offers false 0x1B [(8, 2)] →
      let b := fieldAt c 8 1
      let p := fieldAt c 9 1
      if b < 16 ∨ 32 < b ∨ p < 16 ∨ 32 < p then s.Answers (.watchdog false) false 2 [] s
      else s.Answers (.watchdog false) false 0 [] { s with mod := { s.mod with bsl := b, pll := p } }) ∧
    (s.Offers false 0x1C [(8, 3), (12, 3)] →
      let dies := fieldAt c 8 1
      let cls := fieldAt c 9 1
      let borrow := fieldAt c 10 1
      let budget := fieldAt c 12 2
      let target := fieldAt c 14 1
      if cls = 0 ∨ 3 < cls ∨ 1 < borrow ∨ 1024 < budget ∨ 2 < target then s.Answers (.qos false) false 2 [] s
      else ∃ u, s.Answers (.qos false) false 0 [] u ∧ ∀ (n : Nat) (x : Qos), s.qos[n]? = some x →
        u.qos[n]? = some (if dies.testBit (n % 8) = true ∧ (target = 2 ∨ n / 8 = target) then
          { x with budgets := x.budgets.set (cls - 1) budget, borrow := x.borrow.set (cls - 1) (borrow == 1) } else x)) ∧
    (s.Offers false 0x1E [(8, 4)] →
      let w := fieldAt c 8 4
      if 1200 ≤ w ∧ w ≤ 3200 then s.Answers (.powercap false) false 0 [] { s with mod := { s.mod with powercap := w } }
      else s.Answers (.powercap false) false 2 [] s) ∧
    (s.Offers false 0x1F [(8, 1)] →
      let v := fieldAt c 8 1
      if v ≤ 1 then s.Answers (.patrol false) false 0 [] { s with mod := { s.mod with patrol := v == 1 } }
      else s.Answers (.patrol false) false 2 [] s)

/-- R442, R493, R494: QUIESCE is answered BUSY unless all is quiet; else STATE is QUIESCING until the quiesce point ends, READY again, with
the answer. It substitutes the candidates that have a spare, whichever is taken (log entry 23), with argument 3 those too that its self-test
has found. The result of an idle self-test is read by
inference (log entry 24). -/
def Obligations.QuiesceSubstitutes : Prop :=
  (∀ s : State, s.Offers false 0x1D [(8, 1)] →
    let v := fieldAt (s.command false) 8 1
    (3 < v → ∀ failed, s.Answers (.quiesce false failed) false 2 [] s) ∧
    (v ≤ 3 → s.quiet = false → ∀ failed, s.Answers (.quiesce false failed) false 5 [] s) ∧
    (v ≤ 3 → s.quiet = true → ∀ failed, exec (.quiesce false failed) s =
      .next { s with mod := { s.mod with status := 3, task := some (.quiesce false v failed) } })) ∧
  ∀ (s : State) (v : Nat) (failed : List Nat), s.mod.task = some (.quiesce false v failed) →
    let ends := fun (result : List Byte) (u : State) => s.finishTask = u.respond false 0 result ∧ u.mod.status = 1 ∧ u.mod.task = none
    (v = 0 → ends [0, 0, 0, 0] { s with mod := { s.mod with status := 1, task := none } }) ∧
    (v = 2 → ∀ p, failed = [p] → (partPlace p).isSome = true →
      ∃ u, ends [0, 0, 0, 0] u ∧ p ∈ u.mod.candidates ∧ u.mod.chart = s.mod.chart ∧ u.mem = s.mem) ∧
    (∀ p cls scope n, ((v = 1 ∧ s.mod.candidates = [p]) ∨
        (v = 3 ∧ failed = [p] ∧ s.mod.candidates = [] ∧ ∀ x ∈ s.mod.thresholds, x = 2 ^ 32 - 1)) → partPlace p = some (cls, scope, n) →
      (0 < sparesLeft s.mod.chart cls scope → ∃ u, ends [1, 0, 0, 0] u ∧
        u.mod.candidates = [] ∧ u.mod.degr = false ∧ (∃ x, smGet? u.mod.mapping p = some x ∧ (cls ≠ 5 →
          logicalCount cls ≤ x ∧ x < logicalCount cls + classSpares cls ∧ ∀ y ∈ s.mod.chart, y.1 ≠ chartKey cls scope x)) ∧
        u.mod.meas = s.mod.meas.set 5 (measExtend (s.mod.meas.getD 5 0) (sm3 (chartSummary u.mod.chart)))) ∧
      (sparesLeft s.mod.chart cls scope = 0 → ∃ u, ends [0, 0, 1, 0] u ∧
        u.mod.candidates = [p] ∧ u.mod.degr = true ∧ u.mod.chart = s.mod.chart ∧ u.mod.meas = s.mod.meas))

/-- R266, R481: one aligned word, or part of one, written or read through BAR 2; R484: the fabric carries words with their codes. -/
def Obligations.WindowAndFabric : Prop :=
  ∀ (s : State) (off v : Nat), s.MemWf → s.mod.winbase % 2 ^ 28 = 0 → off < 2 ^ 28 →
    let pa := s.mod.winbase + off
    let others := fun (t : State) (loc : Nat) => ∀ y, y % 4 = 0 → s.resolve y = y → y ≠ loc → t.homeWord y = s.homeWord y
    (∀ size, off % 4 + size ≤ 4 → (s.mod.status = 2 ∨ cellLoc (pa - off % 4) = none) → exec (.hostBar2Write off size v) s = .next s) ∧
    (off % 4 = 0 → (s.mod.status = 2 ∨ cellLoc pa = none) →
      exec (.hostBar2Read off 4) s = .next { s with mod := { s.mod with reply := [] } }) ∧
    (∀ loc, s.mod.status = 1 → off % 4 = 0 → cellLoc pa = some loc →
      (∃ t, exec (.hostBar2Write off 4 v) s = .next t ∧ t.homeWord loc = CW.make (.ofNat 32 v) ∧ others t loc) ∧
      (∀ (sub size : Nat) (d : Word), 0 < size → sub + size ≤ 4 → size ≠ 4 → (lccCheck (s.homeWord loc)).data? = some d →
        ∃ t, exec (.hostBar2Write (off + sub) size v) s = .next t ∧ others t loc ∧
          t.homeWord loc = CW.make (.ofNat 32 (d.toNat % 2 ^ (8 * sub) + v % 2 ^ (8 * size) * 2 ^ (8 * sub) +
            d.toNat / 2 ^ (8 * (sub + size)) * 2 ^ (8 * (sub + size))))) ∧
      (∀ sub size, 0 < size → sub + size ≤ 4 → size ≠ 4 → (lccCheck (s.homeWord loc)).data? = none →
        ∃ t, exec (.hostBar2Write (off + sub) size v) s = .next t ∧ t.mem = s.mem ∧
          t.bridge.uncorr = min (s.bridge.uncorr + 1) (2 ^ 32 - 1)) ∧
      (∃ t, exec (.hostBar2Read off 4) s = .next t ∧ t.mem = s.mem ∧ t.mod.reply = match (lccCheck (s.homeWord loc)).data? with
        | some d => [(d.toNat, false)]
        | none => [((s.homeWord loc).data.toNat, true)])) ∧
    (∀ (m loc : Nat) (w : CW), s.mod.status = 1 → pa % 4 = 0 → pa < 2 ^ 50 → cellLoc pa = some loc →
      (∃ t, exec (.fabricMemoryRequest ⟨m, pa, 4, some [w]⟩) s = .next t ∧ t.homeWord loc = w ∧ others t loc) ∧
      exec (.fabricMemoryRequest ⟨m, pa, 4, none⟩) s = .next { s with mod := { s.mod with
        reply := [((s.homeWord loc).code.toNat * 2 ^ 32 + (s.homeWord loc).data.toNat, false)] } })

/-- R270, R271, R388, R390, R471, R493, R495: a write in flight is performed with the other words of its single-copy atomic access, and not
before an earlier write of its core to one of them; budget windows, hints, worn units and patrol reads. That a core's writes to different words
are performed in any order, and that a bad patrol word makes a candidate, are read by inference (log entries 25, 24). -/
def Obligations.UnitEvents : Prop :=
  ∀ s : State,
    (∀ (core which : Nat) (a run b : List Flight), core < s.cores.length → s.MemWf → (s.core core).flights = a ++ run ++ b →
      a.length ≤ which → which < a.length + run.length →
      let same := fun (x y : Flight) =>
        x.wgs = y.wgs ∧ x.thread = y.thread ∧ x.path = y.path ∧ x.size = y.size ∧ x.loc / x.size = y.loc / x.size
      (∀ x ∈ run, ∀ y ∈ run, same x y) → (∀ x ∈ run, ∀ y, a.getLast? = some y ∨ b.head? = some y → ¬ same x y) →
      ((∃ x ∈ run, ∃ y ∈ a, y.loc / 4 = x.loc / 4) → exec (.writePerformed core which) s = .next s) ∧
      ((∀ x ∈ run, ∀ y ∈ a, y.loc / 4 ≠ x.loc / 4) → (run.map (·.loc)).Nodup →
        (∀ x ∈ run, x.loc % 4 = 0 ∧ s.resolve x.loc = x.loc) →
        ∃ t, exec (.writePerformed core which) s = .next t ∧ (t.core core).flights = a ++ b ∧
          (∀ x ∈ run, t.homeWord x.loc = x.word) ∧
          ∀ y, y % 4 = 0 → s.resolve y = y → (∀ x ∈ run, y ≠ x.loc) → t.homeWord y = s.homeWord y)) ∧
    (∀ (n : Nat) (x : Island), s.islands[n]? = some x →
      let level := if x.unlimited then x.level else min (x.cap : Int) (x.level + x.refill)
      ∃ t, exec (.wickRefillWindow n) s = .next t ∧
      t.islands[n]? = some (if x.stopped = true ∨ x.cycle < (x.windows + 1) * 4096 then x
        else { x with windows := x.windows + 1, level := level, waiting :=
          if x.level < 0 ∧ 0 ≤ level then (List.range 288).filter fun k => islandOfCore k == n && s.wantsStep k else x.waiting }) ∧
      ∀ j, j ≠ n → t.islands[j]? = s.islands[j]?) ∧
    (∀ (n : Nat) (x : Qos), s.qos[n]? = some x → ∃ t, exec (.qosBudgetWindow n) s = .next t ∧
      t.qos[n]? = some { x with accepted := [0, 0, 0] } ∧ t.mem = s.mem ∧ t.mod = s.mod) ∧
    (∀ u, s.mod.status = 1 → (0x4000 ≤ u ∧ u < 0x4100 ∨ 0x8000 ≤ u ∧ u < 0x8080 ∨ 0xA00 ≤ u ∧ u < 0xA10) →
      ∃ t, exec (.stallHintRaise u) s = .next t ∧ u ∈ t.hints ∧ (∀ x, x ≠ u → (x ∈ t.hints ↔ x ∈ s.hints)) ∧ t.mem = s.mem) ∧
    (∀ u, ∃ t, exec (.stallHintClear u) s = .next t ∧ u ∉ t.hints ∧ (∀ x, x ≠ u → (x ∈ t.hints ↔ x ∈ s.hints)) ∧ t.mem = s.mem) ∧
    (∀ u, s.mod.status = 1 → (partPlace u).isSome = true → u ∉ s.mod.candidates →
      ∃ t, exec (.ageingMonitorReport u) s = .next t ∧ t.mod.candidates = s.mod.candidates ++ [u] ∧ t.mod.degr = true ∧
        t.mod.chart = s.mod.chart ∧ ∃ x ∈ t.mod.report, x.unit = partUnit u ∧ x.result = 3 ∧ x.action = 0 ∧ x.resets = s.mod.resets) ∧
    (∀ cell, s.mod.status = 1 → s.mod.patrol = true → cell < 8 * dieBytes →
      let ch := cell / dieBytes * 128 + Config.channelOf (cell % dieBytes) % 128
      ∃ t, exec (.patrolRead cell) s = .next t ∧ t.mem = s.mem ∧
        ((lccCheck (s.mem.word cell)).data? = none → 0x2000 + ch ∈ t.mod.candidates ∧
          (smGet t.channels ch).uncorr = min ((smGet s.channels ch).uncorr + 1) (2 ^ 32 - 1)) ∧
        ((lccCheck (s.mem.word cell)).isCorrected = true →
          (smGet t.channels ch).corr = min ((smGet s.channels ch).corr + 1) (2 ^ 32 - 1))) ∧
    (s.mod.patrol = false → ∀ cell, exec (.patrolRead cell) s = .next s)

/-- R383, R482, R485: a held fault record goes into its context's ring; an access that its module has not answered for 2^24 clocks is reported
with ACCESS_VIOLATION, its lanes trapping at the instruction, and a write so reported changes no word but its own (log entry 13). -/
def Obligations.RecordsAndTimeouts : Prop :=
  (∀ (s : State) (ctx : Nat), (∀ d ∈ s.dies, d.stalled = []) →
    ((∀ d ∈ s.dies, ∀ x ∈ d.holding, x.1 ≠ ctx) → exec (.faultRecordFlush ctx) s = .next s) ∧
    ∀ (d : Nat) (r : FaultRec) (e : CtxEntry) (free tail : Nat), (s.ctx ctx).cached.isSome = true →
      s.ring? ctx = some (e, free, tail) → free ≠ 0 → d < 8 → s.dies.length = 8 →
      ((s.die d).holding.filter fun x => x.1 == ctx) = [(ctx, r)] → (∀ j, j ≠ d → ∀ x ∈ (s.die j).holding, x.1 ≠ ctx) →
      let u := s.writeRecord ctx e tail r
      ∃ t : State, exec (.faultRecordFlush ctx) s = .next t ∧ t.mem = u.mem ∧ t.l2mem = u.l2mem ∧ t.mod.sent = u.mod.sent ∧
        (∀ x ∈ (t.die d).holding, x.1 ≠ ctx) ∧ ∀ j, j ≠ d → t.die j = s.die j) ∧
  ∀ (s : State) (w n i : Nat) (g : Wg) (b : Beam) (r : Parked) (e : Entry) (asks : List (Nat × Nat × Nat))
    (l addr loc size bits m since : Nat), s.wg? w = some g → g.status = .resident → g.deadline = false → s.MemWf →
    s.beam? (.beam w n) = some b → ParksOne b i r e → r.cause = .answer asks size bits m since →
    (∀ x ∈ asks, r.lanes.testBit x.1 = true) → asks.head? = some (l, addr, loc) →
    s.mod.silent.contains m = true → since + 2 ^ 24 ≤ s.clockAt g.core → (∀ x ∈ s.msgs, s.requestLate w n r.lanes x = false) →
    b.inh = false → g.trapvec ≠ 0 → r.lanes &&& b.live = r.lanes →
    ∃ t v, exec (.systemAccessTimeout (.beam w n) r.lanes) s = .next t ∧
      Agent.TrapsParked (.beam w n) s v g b i r ⟨0x0A, bits + 8, 0, addr, 0⟩ ∧ t.beam? (.beam w n) = v.beam? (.beam w n) ∧
      (bits % 2 = 0 → s.SameMemory t) ∧
      ∀ y, y % 4 = 0 → s.resolve y = y →
        (∀ x ∈ asks, ¬ (wordLoc x.2.2 ≤ y ∧ y < wordLoc x.2.2 + 4 * (if size < 4 then 1 else size / 4))) → t.homeWord y = s.homeWord y

/-- R367 to R370, R372: one record is taken: HEAD advances, and a live launch with the record's fields enters the table; one that breaks a
rule is rejected, with a LAUNCH record whose reason is MALFORMED. Nothing is taken while the table is full, in the pilot light, or while the
dispatcher stalls, the last by the model's reading (log entry 41). (Where a record breaks more than one rule, the reason is by log entry
22.) -/
def Obligations.LaunchRecordTaken : Prop :=
  ∀ s : State, (512 ≤ s.launches.length ∨ s.mod.status ≠ 1 ∨ s.dispatcherStalls = true → exec .launchRecordTake s = .next s) ∧
    ∀ (q : Nat) (e : CtxEntry) (ws : List CW),
      let lq := s.lq q
      let slot := lq.slotAddr lq.head
      let n := natOfWords (ws.map CW.data)
      s.launches.length < 512 → s.mod.status = 1 → s.dispatcherStalls = false → q < 64 → s.lqs.length = 64 → lq.en = true → lq.slots ≠ 0 → lq.pending ≠ 0 → lq.wait = none →
      lq.nodes = [] → (∀ j, j ≠ q → (s.lq j).en = false) → (∀ c ∈ s.cores, c.nodes = []) → smSorted s.launches = true →
      (∀ x ∈ s.launches, x.1 < s.nextLaunch) →
      (s.ctx lq.ctx).cached.isSome = true → s.ctxEntry? lq.ctx = some e → e.sfcount = 0 →
      s.homeRead dispatcherCore lq.ctx slot 64 = (.ok ws, s) → (∀ w ∈ ws, lccCheck w = .ok w.data) → recordNgrp n = 0 →
      recordGroups n % 16 = 0 →
      ∃ t l, exec .launchRecordTake s = .next t ∧ (t.lq q).head = (lq.head + 1) % 2 ^ 32 ∧ (t.lq q).tail = lq.tail ∧ t.lastQueue = q ∧
        t.launch? s.nextLaunch = some l ∧ l.queue = q ∧ l.slotAddr = slot ∧
        (recordOk n = true → l.record = parseRecord lq.ctx n ∧ l.rejected = false ∧ l.nextWg = 0 ∧ l.ended = [] ∧ l.groups = [] ∧
          (recordPreds n = [0, 0, 0, 0] → l.eligible.isSome = true)) ∧
        (recordOk n = false → l.rejected = true ∧
          let u := s.postRecord lq.ctx { (default : FaultRec) with
            kind := 3, reason := 1, source := 5, lid := n / 2 ^ 320 % 2 ^ 64, unit := 0xC000 + q, addr := slot }
          t.mem = u.mem ∧ t.dies = u.dies ∧ t.mod.sent = u.mod.sent)

/-- R16, R373, R374: the launch's next workgroup goes to the first core in R374's order that has room, with the launch values of its
registers; R243: it starts once its granules read zero, with an acquire at device scope; R371: the launch completes. Physical lanes are free
values (log entry 6). R171, R172: at the deadline the workgroup stops; once it has yielded or stopped, and its engine commands are done, its
state is saved and it leaves its core, but not while a request of a thread is under way behind one that would be held (R28). R160, R385: a
page service lets the lanes parked on the span go on, or trap at once where it is fatal. -/
def Obligations.WorkgroupsStartAndStop : Prop :=
  ((∀ (s : State) (k c : Nat) (l : Launch), s.mod.status = 1 → s.dispatcherStalls = false → s.candidates = [(k, l)] → s.launch? k = some l →
    (∀ x ∈ s.wgs, ¬ (x.2.launch = k ∧ x.2.status = .preempted)) → l.nextWg < l.record.total → (∀ y ∈ l.groups, y.coresident = false) →
    ((l.record.cores l.nextWg).find? fun c => s.room c l.record.need fun _ => false) = some c → s.queuedOn (dieOfCore c) < 64 →
    ∃ t g, exec .workgroupDispatch s = .next t ∧ t.wg? (wgKey k l.nextWg) = some g ∧ g.status = .queued ∧ g.core = c ∧
      g.id = l.nextWg ∧ g.launch = k ∧ g.scratch = .empty ∧ g.tiles = [] ∧ g.beams.length = l.record.beams ∧
      (∀ x ∈ g.beams, x.2.frontier = [.run l.record.entry 0 (2 ^ l.record.width - 1) 0] ∧ (x.2.sreg 0).v = .ofNat 72 l.record.args ∧
        x.2.inh = false) ∧
      (t.launch? k).map (·.nextWg) = some (l.nextWg + 1) ∧ t.mem = s.mem) ∧
  (∀ (s : State) (w : Nat) (g : Wg), s.mod.status = 1 → s.wg? w = some g → g.status = .queued → g.frame = none →
    (s.core g.core).lines = [] → g.core < s.cores.length →
    ∃ t, exec (.workgroupStart w) s = .next t ∧ t.wg? w = some ({ g with status := .resident } : Wg).advance ∧
      (t.core g.core).last = (s.die (dieOfCore g.core)).tail ∧ s.SameMemory t) ∧
  ∀ (s : State) (k : Nat) (l : Launch), s.dispatcherStalls = false → s.MemWf → s.launch? k = some l → smSorted s.launches = true → l.node = none → l.waiting = none →
    (l.rejected = true ∨ (l.record.total ≤ l.ended.length ∧ ∀ x ∈ s.wgs, x.2.launch ≠ k)) →
    (l.record.compl = 0 → ∃ t, exec (.launchComplete k) s = .next t ∧ t.launch? k = none ∧ t.mem = s.mem) ∧
    ∀ (p : Page) (d : Word), s.reach dispatcherCore l.record.ctx l.record.compl .atomic = (.page p, s) → l.record.compl ≠ 0 →
      p.loc % 4 = 0 → s.resolve p.loc = p.loc → (lccCheck (s.homeWord p.loc)).data? = some d →
      ∃ t, exec (.launchComplete k) s = .next t ∧ t.launch? k = none ∧ t.homeWord p.loc = CW.make (d + 1) ∧
        ∀ y, y % 4 = 0 → s.resolve y = y → y ≠ p.loc → t.homeWord y = s.homeWord y) ∧
  ((∀ (s : State) (w : Nat) (g : Wg), s.wg? w = some g → g.buckets = [] → g.due = [] →
    ∀ e, s.ctxEntry? g.ctx = some e →
    let late := g.raised + (if e.pdead = 0 then 50 else e.pdead) * 1000 ≤ s.serviceClock
    (g.status = .resident → g.preempting = true → g.deadline = false → late →
      ∃ t, exec (.preemptionDeadline w) s = .next t ∧ t.wg? w = some { g with deadline := true } ∧ t.mem = s.mem) ∧
    (g.preempting = false ∨ g.deadline = true ∨ ¬ late → exec (.preemptionDeadline w) s = .next s)) ∧
  (∀ (s : State) (w fr : Nat) (g : Wg) (e : CtxEntry), s.wg? w = some g → g.status = .resident →
    s.saveFrame g = some fr → s.ctxEntry? g.ctx = some e → s.engineHolds w = false →
    (s.straggles w = true → exec (.saveRecordWrite w) s = .next s) ∧
    ((g.deadline = true ∨ g.yieldedAll = true) → s.straggles w = false →
      ∃ t g', exec (.saveRecordWrite w) s = .next t ∧ t.wg? w = some g' ∧ g'.status = .preempted ∧ g'.preempting = false ∧
        g'.deadline = false ∧ g'.frame = some fr ∧ g'.scratch = (g.drainPool fun _ => true).scratch ∧ g'.pool = [] ∧
        g'.tiles = g.tiles ∧ g'.pinned = s.holdsNode w g.core ∧ (∀ x ∈ g'.beams, x.2.yielded = false ∧ x.2.latch = []) ∧
        (g.core < s.cores.length → ∀ x ∈ (t.core g.core).flights, w ∉ x.wgs)) ∧
    (g.deadline = false → g.yieldedAll = false → exec (.saveRecordWrite w) s = .next s)) ∧
  ∀ (s : State) (w n i va : Nat) (g : Wg) (b : Beam) (r : Parked) (e : Entry) (sp : Span) (addr bits : Nat) (fatal : Bool),
    s.wg? w = some g → g.status = .resident → g.deadline = false → g.beams = [(n, b)] → ParksOne b i r e →
    r.cause = .page [sp] addr bits → sp.holds g.ctx va = true →
    let t := s.serveWg w g.ctx va fatal
    s.SameMemory t ∧
    (fatal = false → ∃ b', t.beam? (.beam w n) = some b' ∧ Resumed b b' i r.pc r.lanes) ∧
    (fatal = true → b.inh = false → g.trapvec ≠ 0 → r.lanes &&& b.live = r.lanes →
      Agent.TrapsParked (.beam w n) s t g b i r ⟨0x0C, bits, 0, max addr sp.base, 0⟩))

/-- R380, R381: what a lantern core does with a request, a retry and a cancel, and what a NACK, its backoff and a wake do at the sender: the
first NACK parks the lane, that of a `ship.t`, which has gone on, where it stands by then, or, where it waits, once it stands where it could
issue (log entry 19), and acceptance lets it go on. -/
def Obligations.TicketsOfRequests : Prop :=
  (∀ (s : State) (r : Request) (g : Wg) (b l j : Nat) (x : Beam) (p : Parked) (e : Entry), r.slot ≠ 8 →
    s.msgs.any (Msg.nackedOf r.wg r.thread) = false → s.wg? r.wg = some g → g.findThread r.thread = some (b, l) →
    s.beam? (.beam r.wg b) = some x → ParksOne x j p e → p.cause = .ship → p.lanes = 2 ^ l → e.pc = p.pc → p.pc < 2 ^ 72 →
    ∃ x', (s.acceptedBy r).beam? (.beam r.wg b) = some x' ∧ Resumed x x' j p.pc p.lanes) ∧
  ∀ (s : State) (i n : Nat), i < s.msgs.length → n < 128 → s.lanterns.length = 128 →
    let l := s.lantern n
    let rest := s.msgs.eraseIdx i
    let room := l.queue.length + (if l.running.isSome then 1 else 0) < 256
    (∀ r, s.msgs[i]? = some (.request n r) → s.firstOnRoute i = true →
      (room → l.outstanding = [] → ∃ t, exec (.sectionRequestArrival i) s = .next t ∧ t.msgs = rest ∧
        t.lantern n = { l with queue := l.queue ++ [r] } ∧ ∀ j, j ≠ n → t.lantern j = s.lantern j) ∧
      (¬ room ∨ l.outstanding ≠ [] → ∃ t, exec (.sectionRequestArrival i) s = .next t ∧
        t.msgs = rest ++ [.nack n l.next 1 { r with nacked := true }] ∧
        t.lantern n = { l with next := (l.next + 1) % 2 ^ 32, outstanding := l.outstanding ++ [l.next] })) ∧
    (∀ tk k r, s.msgs[i]? = some (.retry n tk k r) → s.firstOnRoute i = true →
      (tk ∉ l.outstanding → exec (.sectionRetryArrival i) s = .next { s with msgs := rest }) ∧
      (tk ∈ l.outstanding → room → tk = l.serve → l.voids = [] →
        ((tk + 1) % 2 ^ 32 = l.next ∨ (tk + 1) % 2 ^ 32 ∈ l.outstanding.filter (· != tk)) → ∃ t, exec (.sectionRetryArrival i) s = .next t ∧ (t.lantern n).queue = l.queue ++ [r] ∧
        (t.lantern n).outstanding = l.outstanding.filter (· != tk) ∧ (t.lantern n).serve = (tk + 1) % 2 ^ 32) ∧
      (tk ∈ l.outstanding → ¬ room ∨ tk ≠ l.serve → exec (.sectionRetryArrival i) s =
        .next { s with msgs := if r.void then rest else rest ++ [.nack n tk (k + 1) r] })) ∧
    (∀ tk, s.msgs[i]? = some (.cancel n tk) →
      (tk ∉ l.outstanding → ∃ t, exec (.cancelArrival i) s = .next t ∧ t.msgs = rest ∧ t.lanterns = s.lanterns) ∧
      (tk ∈ l.outstanding → tk ≠ l.serve → l.serve ∈ l.outstanding → ∃ t, exec (.cancelArrival i) s = .next t ∧ t.msgs = rest ∧
        t.lantern n = { l with outstanding := l.outstanding.filter (· != tk), voids := l.voids ++ [tk] })) ∧
    (∀ tk k r, s.msgs[i]? = some (.nack n tk k r) →
      ((∀ g, s.wg? r.wg = some g → g.status = .resident → k = 1 → g.findThread r.thread = none) →
        ∃ t, exec (.nackArrival i) s = .next t ∧ t.msgs = s.msgs.set i (.backoff n tk k { r with sent := s.clockAt r.core }) ∧
          t.wgs = s.wgs) ∧
      ∀ g b x l e, s.wg? r.wg = some g → g.status = .resident → k = 1 → g.findThread r.thread = some (b, l) → r.slot ≠ 8 →
        s.beam? (.beam r.wg b) = some x → x.parked = [] →
        (∀ y ∈ x.frontier ++ x.kept.getD [], ∀ i z u v, y.kind ≠ .tkwait i z u v) →
        (x.frontier.find? fun y => y.kind == .runnable && y.lanes.testBit l) = some e →
        ∃ t x', exec (.nackArrival i) s = .next t ∧ t.msgs = s.msgs.set i (.backoff n tk k { r with sent := s.clockAt r.core }) ∧
          t.beam? (.beam r.wg b) = some x' ∧ x'.parked = [(0, ⟨.ship, e.pc, e.pri, 2 ^ l, false, []⟩)] ∧
          ∀ j p k, Stands x'.frontier j p k ↔ if j = l then p = e.pc ∧ k = .parked 0 else Stands x.frontier j p k) ∧
    (∀ tk k r, s.msgs[i]? = some (.backoff n tk k r) →
      let elapsed := r.module.isSome = true ∨ r.sent + 64 * 2 ^ min (k - 1) 6 ≤ s.clockAt r.core
      (elapsed → exec (.nackRetryTimer i) s =
        .next { s with msgs := rest ++ [.retry n tk k { r with sent := s.clockAt r.core }] }) ∧
      (¬ elapsed → exec (.nackRetryTimer i) s = .next s)) ∧
    (∀ tk, s.msgs[i]? = some (.wake n tk) →
      (s.msgs.any (Msg.isNack n tk) = true → exec (.wakeArrival i) s = .next s) ∧
      (s.msgs.any (Msg.isNack n tk) = false →
        ((∀ x ∈ rest, x.isBackoff n tk = false) → exec (.wakeArrival i) s = .next { s with msgs := rest }) ∧
        ∀ a b k r, rest = a ++ [.backoff n tk k r] ++ b → (∀ x ∈ a, x.isBackoff n tk = false) →
          exec (.wakeArrival i) s = .next { s with msgs := a ++ b ++ [.retry n tk k { r with sent := s.clockAt r.core }] })) ∧
    ∀ tk k r g b l x e, s.msgs = [.backoff n tk k r] → r.module = none → r.slot ≠ 8 → s.wg? r.wg = some g → g.status = .resident →
      g.deadline = false → g.findThread r.thread = some (b, l) → s.beam? (.beam r.wg b) = some x → x.parked = [] →
      (x.frontier.find? fun y => y.kind == .runnable && y.lanes.testBit l) = some e →
      ∃ x', s.settleShips.beam? (.beam r.wg b) = some x' ∧ x'.parked = [(0, ⟨.ship, e.pc, e.pri, 2 ^ l, false, []⟩)] ∧
        ∀ j p k, Stands x'.frontier j p k ↔ if j = l then p = e.pc ∧ k = .parked 0 else Stands x.frontier j p k

/-- R151, R399, R400: a section starts with the registers that R400 gives it, and acquires; R404: at its step limit it ends as OVERRUN. R442,
R494: none starts while STATE is QUIESCING. -/
def Obligations.SectionsRun : Prop :=
  (∀ (s : State) (n : Nat) (r : Request) (rest : List Request) (e : CtxEntry), n < 128 → s.lanterns.length = 128 → s.cores.length = 416 →
    (s.lantern n).running = none → (s.lantern n).queue = r :: rest → (s.ctx r.ctx).cached.isSome = true → s.ctxEntry? r.ctx = some e →
    (s.core (288 + n)).lines = [] → r.args.length ≤ 8 →
    (s.mod.status = 3 → exec (.sectionStart n) s = .next s) ∧
    (s.mod.status ≠ 3 → ∃ t x, exec (.sectionStart n) s = .next t ∧ t.section? n = some x ∧ (t.lantern n).queue = rest ∧ x.req = r ∧ x.steps = 0 ∧
      x.beam.frontier = [.run r.entry 0 1 0] ∧ x.beam.width = 1 ∧ (x.beam.sreg 0).v = .ofNat 72 r.lock ∧
      (x.beam.sreg 1).v = .ofNat 72 (r.thread + r.core % 36 * 2 ^ 10 + r.core / 36 * 2 ^ 16 + r.module.getD s.mod.number * 2 ^ 19 +
        r.wg % 2 ^ 32 * 2 ^ 32) ∧
      (x.beam.sreg 2).v = .ofNat 72 (r.args.length + (if r.scope = 2 then 2 ^ 4 else 0) + (if r.slot = 8 then 0 else 2 ^ 5 + r.slot * 2 ^ 6) +
        (if r.nacked then 2 ^ 9 else 0) + (if r.resent then 2 ^ 10 else 0)) ∧
      (∀ (j : Nat) (w : CW), r.args[j]? = some w → x.beam.vreg 0 j = w) ∧
      (∀ j, r.args.length ≤ j → j < 256 → x.beam.vreg 0 j = .zero) ∧ s.SameMemory t)) ∧
  ∀ (s : State) (n : Nat) (r : Section) (p : Page) (lo hi : Word), s.section? n = some r → r.wait = [] → r.ending = none →
    s.MemWf → (s.core (lanternIx n)).lines = [] → (s.core (lanternIx n)).flights = [] → (s.ctxEntry? r.req.ctx).isSome = true →
    (r.steps < s.stepLimit r.req.ctx → exec (.sectionStepLimit n) s = .next s) ∧
    (s.stepLimit r.req.ctx ≤ r.steps → s.Maps (lanternIx n) r.req.ctx .atomic r.req.lock p → s.resolve p.loc = p.loc → p.loc % 8 = 0 →
      (lccCheck (s.homeWord p.loc)).data? = some lo → (lccCheck (s.homeWord (p.loc + 4))).data? = some hi →
      ∃ t pub, exec (.sectionStepLimit n) s = .next t ∧ t.section? n = none ∧ Msg.result r.req 0x80 0 [] pub ∈ t.msgs ∧
        let v := (hi ++ lo).toNat
        ∀ y, y % 4 = 0 → s.resolve y = y → t.homeWord y =
          putView s.homeWord p.loc [CW.make (.ofNat 32 ((v + 1) % 2 ^ 63 + 2 ^ 63)),
            CW.make (.ofNat 32 (((v + 1) % 2 ^ 63 + 2 ^ 63) / 2 ^ 32))] y)

/-- R80, R137, R315: a result that is outstanding lands in its register; a section's result fills its PENDING slot, and is dropped where
the thread has exited; the far lanes of a split gather that share a line get their words and go on together. -/
def Obligations.ResultsArrive : Prop :=
  (∀ (s : State) (a : Agent) (b : Beam) (k : Nat) (p : Pend), s.beam? a = some b → b.outstanding[k]? = some p →
    ∃ t fr kept latch, exec (.resultWriteback a k) s = .next t ∧
      t.beam? a = some { b.write p.write with
        outstanding := b.outstanding.eraseIdx k, frontier := fr, kept := kept, latch := latch } ∧
      SameStands b.frontier fr ∧ kept.isSome = b.kept.isSome ∧ SameStands (b.kept.getD []) (kept.getD []) ∧
      (∀ c, c ≠ a → t.beam? c = s.beam? c) ∧ s.SameMemory t) ∧
  (∀ (s : State) (i : Nat) (r : Request) (status count : Nat) (res : List CW) (pub : RSet) (g : Wg), count ≤ 4 →
    s.msgs[i]? = some (.result r status count res pub) → r.module = none → s.wg? r.wg = some g →
    (g.findThread r.thread = none → ∃ t, exec (.sectionResultArrival i) s = .next t ∧ t.wgs = s.wgs ∧ t.msgs = s.msgs.eraseIdx i) ∧
    ∀ n l b, g.findThread r.thread = some (n, l) → g.status = .resident → s.beam? (.beam r.wg n) = some b → r.slot < 8 →
      b.kept = none → (∀ e ∈ b.frontier, ∀ x y z u, e.kind ≠ .tkwait x y z u) → (∀ x ∈ b.lanes, x.slots.length = 9) →
      l < b.lanes.length → (∀ y ∈ b.parked, ∀ x d, y.2.cause ≠ .nack x d) →
      ∃ t b', exec (.sectionResultArrival i) s = .next t ∧ t.beam? (.beam r.wg n) = some b' ∧ b'.frontier = b.frontier ∧
        (((b.lane l).slot r.slot).state = .pending →
          ((b'.lane l).slot r.slot).state = .done ∧ ((b'.lane l).slot r.slot).status = status ∧
          ((b'.lane l).slot r.slot).count = count ∧
          ∀ j, j < 4 → ((b'.lane l).slot r.slot).word j = if j < count then res.getD j .zero else .zero) ∧
        (((b.lane l).slot r.slot).state ≠ .pending → b' = b) ∧
        ∀ k x, (k, x) ≠ (l, r.slot) → (b'.lane k).slot x = (b.lane k).slot x) ∧
  ∀ (s : State) (w n i l dst wd va : Nat) (far : List (Nat × Nat)) (g : Wg) (b : Beam) (r : Parked) (e : Entry) (p : Nat → Page),
    s.wg? w = some g → g.status = .resident → g.deadline = false → s.beam? (.beam w n) = some b → ParksOne b i r e →
    s.MemWf → r.cause = .split far dst wd → (far.map (·.1)).Nodup → r.lanes = maskOf (far.map (·.1)) → (l, va) ∈ far →
    (∀ x ∈ far, x.2 / 64 = va / 64) → 2 ≤ wd → wd ≤ 4 → (s.core g.core).lines = [] → (s.core g.core).flights = [] →
    (∀ x ∈ far, s.Maps g.core g.ctx .load x.2 (p x.1) ∧ s.resolve (p x.1).loc = (p x.1).loc ∧ (p x.1).loc % 4 = 0 ∧
      (p x.1).rd = false) →
    ∃ t b', exec (.splitGatherArrival (.beam w n) i l) s = .next t ∧ t.beam? (.beam w n) = some b' ∧ s.SameMemory t ∧
      Resumed b b' i (r.pc + if r.prefixed then 8 else 4) r.lanes ∧
      b'.lanes = (b.writes (far.flatMap fun x =>
        (s.homeRange (p x.1).loc (wordsIn (widthBytes wd))).mapIdx fun j y => .v x.1 (dst + j) y)).lanes

/-- R344, R352 to R354, R361, R413: the only head of a core's matrix queue runs one step: `accz` clears its tile, `accld` moves a row of the
scratchpad, `accwr` writes its lanes' words, in their order, `accrd` is chosen, and its path may take its words (that its entry then stays in
its queue for the path is the model's reading, log entry 48), and a multiply writes what its step computes, where no operand was stale; nothing
starts on a spent budget. The copy engine copies one word, which leaves for the scratchpad on its path. -/
def Obligations.EngineSteps : Prop :=
  ∀ (s : State) (c q : Nat) (e : EngEntry) (g : Wg), c < 288 → c < s.cores.length → q < 4 → e.waits = false → e.wrote = [] → e.ck = 0 →
    s.wg? e.wg = some g → g.status = .resident → smSorted g.tiles = true → s.stillReads e = true →
    ((s.core c).matrixQ = [[], [], [], []] → exec (.matrixStep c) s = .next s) ∧
    ((s.core c).matrixQ = (List.replicate 4 []).set q [e] → s.mayStart c = false → exec (.matrixStep c) s = .next s) ∧
    ((s.core c).matrixQ = (List.replicate 4 []).set q [e] → s.mayStart c = true →
      (∀ tile, e.op = .accz tile →
        ∃ t, exec (.matrixStep c) s = .next t ∧ (t.core c).matrixQ = [[], [], [], []] ∧ s.SameMemory t ∧
          ∀ i n, n < 4096 → t.tileWord e.wg i n = if i = tile then .zero else s.tileWord e.wg i n) ∧
      (∀ tile off stride, e.op = .transfer false tile off stride false → e.step < 64 → g.pool = [] →
        off + e.step * stride + 256 ≤ g.sp * 16384 →
        ∃ t, exec (.matrixStep c) s = .next t ∧ s.SameMemory t ∧
          t.subQueue false c q = (if e.step = 63 then [] else [{ e with step := e.step + 1, passed := 0 }]) ∧
          ∀ i n, n < 4096 → t.tileWord e.wg i n =
            if i = tile ∧ n / 64 = e.step then g.scratch.word (off + e.step * stride + 4 * (n % 64)) else s.tileWord e.wg i n) ∧
      (∀ tile ws, e.op = .write tile ws → (∀ y ∈ ws, y.1 < 4096) →
        ∃ t, exec (.matrixStep c) s = .next t ∧ (t.core c).matrixQ = [[], [], [], []] ∧ s.SameMemory t ∧
          ∀ i n, n < 4096 → t.tileWord e.wg i n =
            match ws.reverse.find? fun y => i == tile && y.1 == n with
            | some y => CW.make (.ofNat 32 y.2)
            | none => s.tileWord e.wg i n) ∧
      (∀ tile lanes, e.op = .read tile lanes →
        ∃ t, exec (.matrixStep c) s = .next t ∧ t.subQueue false c q = [{ e with step := 1, passed := 0 }] ∧ t.wgs = s.wgs ∧
          s.SameMemory t) ∧
      (∀ x ws y, e.mstep = some x →
        let u := (s.notePassed c ⟨q, s.toggle e, e.seq, e.passed⟩).wick c (s.wgPlace e.wg).ctx (s.toggle e) x.g.clocks
        x.run ⟨u, q, [], 0, false, false⟩ (s.wgPlace e.wg) = (.ok ws, y) →
        ∃ t, exec (.matrixStep c) s = .next t ∧ ∀ i n,
          match ws.reverse.find? fun z => tileKey z.1 z.2.1 == tileKey i n with
          | some z => y.stale = false → t.tileWord e.wg i n = CW.make (.ofNat 32 z.2.2)
          | none => t.tileWord e.wg i n = s.tileWord e.wg i n)) ∧
    (∀ dst src len rows ds ss, s.subQueue true c q = [e] → e.op = .copy dst src len rows ds ss true true → 4 * e.step < len * rows →
      let at_ := fun (base : Nat) (stride : Int) => (((base : Int) + (4 * e.step / len : Nat) * stride + (4 * e.step % len : Nat)) % 2 ^ 64).toNat
      at_ dst ds + 4 ≤ g.sp * 16384 → at_ src ss + 4 ≤ g.sp * 16384 → g.pool = [] →
      ∃ t, exec (.copyCommandRun c q 1) s = .next t ∧ s.SameMemory t ∧
        t.wg? e.wg = some { g with pool := [⟨1, wordLoc (at_ dst ds), g.scratch.word (at_ src ss)⟩] } ∧
        t.subQueue true c q = if len * rows ≤ 4 * (e.step + 1) then [] else [{ e with step := e.step + 1 }])

/-- R156, R163, R164, R378, R472: the watchdogs raise their causes on the waiting lanes once their limits are reached, and not before; an
engine's cause is delivered on the first runnable path; a pause ends once its clocks have run out. -/
def Obligations.WatchdogsAndDelivery : Prop :=
  ∀ (s : State) (w n : Nat) (g : Wg) (b : Beam), s.wg? w = some g → s.beam? (.beam w n) = some b →
    (∃ t, exec (.pauseExpiry (.beam w n)) s = .next t ∧ s.SameMemory t ∧
      t.beam? (.beam w n) = some (if b.paused = some 0 then { b with paused := none } else b) ∧
      ∀ a, a ≠ .beam w n → t.beam? a = s.beam? a) ∧
    (b.regWait < 2 ^ 20 → exec (.regWaitExpiry (.beam w n)) s = .next s) ∧
    (b.barStall < 2 ^ s.mod.bsl → ∀ k, exec (.barrierStallExpiry (.beam w n) k) s = .next s) ∧
    (b.pauseLoop < 2 ^ s.mod.pll → exec (.pauseLoopExpiry (.beam w n)) s = .next s) ∧
    (b.inh = false → g.trapvec ≠ 0 → g.status = .resident → g.deadline = false → b.fatals = [] →
      let takes := fun (i : Instr) (code detail addr : Nat) (e : Entry) => ∃ t pfx, exec i s = .next t ∧
        Agent.TookTrap (.beam w n) s t g b ⟨code, detail, e.lanes, addr, 0⟩ 0 e.lanes e.pc pfx
      (∀ e, 2 ^ 20 ≤ b.regWait → (∀ x ∈ g.extQueue, x.1 = n) → (b.frontier.find? fun x => x.kind == .extAcq) = some e → takes (.regWaitExpiry (.beam w n)) 0x20 0 0 e) ∧
      (∀ k e, 2 ^ s.mod.bsl ≤ b.barStall → b.frontier[k]? = some e →
        (∀ x ∈ b.frontier.take k, x.kind ≠ .barWg ∧ ∀ c, x.kind ≠ .barCon c) →
        (e.kind = .barWg → takes (.barrierStallExpiry (.beam w n) k) 0x21 0 0 e) ∧
        ∀ c, e.kind = .barCon c → takes (.barrierStallExpiry (.beam w n) k) 0x21 1 c e) ∧
      (∀ e word, 2 ^ s.mod.pll ≤ b.pauseLoop → firstOf b.frontier = some e → s.peek (s.place (.beam w n)) e.pc = some word →
        word.toNat / 2 ^ 24 % 2 ^ 7 = 0x65 → takes (.pauseLoopExpiry (.beam w n)) 0x22 0 0 e) ∧
      ∀ e d, b.entry? false = some e → b.canRun = true → e.lanes ≠ 0 → b.pendD = [d] →
        ∃ t, exec (.engineFaultDelivery (.beam w n)) s = .next t ∧
          Agent.TookTrap (.beam w n) s t g b d.cause 0 e.lanes d.pc false)

/-- R69, R70, R72, R73: a code bit is the parity of the data bits whose columns have it, over the columns of R70 with the form R70 gives
them; a word with its own code checks, a single wrong bit of data or code gives the word back, two wrong bits, or two or more within one
aligned nibble, are uncorrectable; the zero word has code 0; and R73's example. -/
def Obligations.CheckCodes : Prop :=
  let columns : List Nat :=
    [0x31, 0x52, 0x64, 0x98] ++ [0x51, 0x62, 0x94, 0xA8] ++ [0x61, 0x92, 0xA4, 0xC8] ++ [0x91, 0xA2, 0xC4, 0xF8] ++
    [0x13, 0x25, 0x46, 0x89] ++ [0x15, 0x26, 0x49, 0x8A] ++ [0x16, 0x29, 0x4A, 0x8C] ++ [0x19, 0x2A, 0x4C, 0x8F]
  let all := columns ++ [0x01, 0x02, 0x04, 0x08, 0x10, 0x20, 0x40, 0x80]
  let weight8 := fun (x : Nat) => ((List.range 8).filter x.testBit).length
  (∀ (d : Word) (k : Nat), k < 8 → (lccMake d).getLsbD k =
    decide (((List.range 32).filter fun j => d.getLsbD j && (columns.getD j 0).testBit k).length % 2 = 1)) ∧
  all.Nodup ∧ (∀ x ∈ all, weight8 x % 2 = 1) ∧
  (∀ j, j < 16 → columns.getD j 0 % 16 = 2 ^ (j % 4) ∧ columns.getD j 0 / 16 ≠ 0 ∧ weight8 (columns.getD j 0 / 16) % 2 = 0) ∧
  (∀ j, 16 ≤ j → j < 32 →
    columns.getD j 0 / 16 = 2 ^ (j % 4) ∧ columns.getD j 0 % 16 ≠ 0 ∧ weight8 (columns.getD j 0 % 16) % 2 = 0) ∧
  (∀ (d : Word) (e : BitVec 40),
    let w : CW := ⟨d ^^^ e.setWidth 32, lccMake d ^^^ e.extractLsb' 32 8⟩
    let weight := ((List.range 40).filter fun i => e.getLsbD i).length
    (weight = 0 → lccCheck w = .ok d) ∧
    (weight = 1 → lccCheck w = .corrected d) ∧
    (weight = 2 → lccCheck w = .uncorrectable) ∧
    (∀ n, n < 10 → (∀ i, e.getLsbD i = true → i / 4 = n) → 2 ≤ weight → lccCheck w = .uncorrectable)) ∧
  lccMake 0 = 0 ∧ lccCheck ⟨0, 0⟩ = .ok 0 ∧
  lccMake 0x3F800000 = 0x40 ∧ lccMake 0x3E800000 = 0x56 ∧ lccCheck ⟨0x3E800000, 0x40⟩ = .corrected 0x3F800000 ∧
  lccCheck ⟨0x3C800000, 0x40⟩ = .uncorrectable ∧ lccCheck ⟨0x3F800000, 0x50⟩ = .corrected 0x3F800000

/-- R76, R85, R86, R91, R101, R103 to R115: words written out from the spec's encodings decode to their instructions, and words that the spec
assigns to none are refused with the cause it gives them. -/
noncomputable def Obligations.SampleWordsDecode : Prop :=
  let m : Mods := ⟨false, none⟩
  decodeTableWord 32 0x01004103 = some (.add32 m 1 2 3) ∧
  decodeTableWord 32 0x05508082 = some (.cmpLtS32 m 2 1 2) ∧
  decodeTableWord 32 0x17029700 = some (.moviHi m 1 0x9700) ∧
  decodeTableWord 32 0x1A052000 = some (.rgetX m 2 0 0) ∧
  decodeTableWord 32 0x2550C082 = some (.fcmpF32 m 2 3 1 2) ∧
  decodeTableWord 32 0x68200004 = some (.bra m 1 4) ∧
  decodeTableWord 32 0x6B00FFFF = some (.pri m 0xFFFF) ∧
  decodeTableWord 32 0x78800000 = some (.nop m) ∧
  decodeTableWord 32 0xF8800000 = some (.nop ⟨true, none⟩) ∧
  decodeTableWord 64 0xA16146077F542500 =
    some (.fmaF32 ⟨true, some { k := 2, z := true, rm := 2, c := 9, hold := 1, cov := 0, fmt := 0, sel := 0 }⟩ 5 12 7) ∧
  decodeWords [0] = .error .illegalInstruction ∧
  decodeWords [0x80000000] = .error .illegalInstruction ∧
  decodeWords [0xFF000000] = .error .illegalInstruction ∧
  decodeWords [0x7E000000] = .error .illegalInstruction ∧
  decodeWords [0x7F000000, 0x7F000000] = .error .illegalPrefix ∧
  decodeWords [0x7F000001, 0x01004103] = .error .illegalPrefix ∧
  decodeWords [0x7F542500, 0x01004103] = .error .illegalPrefix

/-- R74, R85, R86, R91, R103 to R115: every well-formed instruction has words, which decode to it with every operand, literal and prefix
field as it was, and leave the words after them alone; and what decodes is well-formed, so that the decoder drops no bit of an operand. R85,
R91, R101: what decodes is well-formed, and its words are those the encoder gives: no two words below 2^32 stand for one instruction. -/
def Obligations.EncodingRoundTrip : Prop :=
  (∀ (i : Instr), i.wellFormed = true →
    encode i ≠ [] ∧ (∀ w ∈ encode i, w < 2 ^ 32) ∧ ∀ rest, decodeWords (encode i ++ rest) = .ok (i, rest)) ∧
  (∀ (ws rest : List Nat) (i : Instr), (∀ w ∈ ws, w < 2 ^ 32) → decodeWords ws = .ok (i, rest) →
    i.wellFormed = true ∧ ws = encode i ++ rest)

/-- R74, R85, R86, R91, R537: an issue runs the instruction whose words stand at its path's address (the words that `fetch` reads there are
those of the checked memory words), with the address after them as the next; words that are no instruction raise their cause. R159, R377: a
turn of a quarter issues the path that the beam it chooses offers; where both its ports issue, the second port's instruction runs after the
primary's on the registers as the clock began, and where both take a trap the primary port's stands. A section's turn issues its path. What a
step adds around an instruction (the agenda, settling, the counts of an issue) is the model's form (log entry 1). -/
def Obligations.StepRunsDecodedInstruction : Prop :=
  (∀ (u v : State) (a : Agent) (e : Entry) (second : Bool) (old : Nat) (view : Option Beam) (ws : List Nat),
    u.fetch a e.pc old = (.words ws, v) →
    let x : State := { v with
      cur := some ⟨a, e.pc, e.pc + 4 * ws.length, e.pri, e.lanes, ws.length == 2, ws, none, view⟩ }
    (∀ i, decodeWords ws = .ok (i, []) →
      let y : State := { x with
        cur := some ⟨a, e.pc, e.pc + 4 * ws.length, e.pri, e.lanes, ws.length == 2, ws, heldAt i, view⟩ }
      (∀ t, exec i y = .next t → u.issueEntry a e second old view = .next
        (if synchronises i then (y.issued t a i second).forgetEarly a e.lanes else y.issued t a i second)) ∧
      (∀ r, exec i y = .fault r → u.issueEntry a e second old view = .fault r) ∧
      (∀ r, exec i y = .refused r → u.issueEntry a e second old view = .refused r)) ∧
    (decodeWords ws = .error .illegalInstruction → u.issueEntry a e second old view = exec .illegalInstruction x) ∧
    (decodeWords ws = .error .illegalPrefix → ∀ t, x.refuseWord causePrefix = some t → u.issueEntry a e second old view = .next t)) ∧
  (∀ (s : State) (rest : List Move) (old : Nat),
    let s0 : State := { s with agenda := rest, moves := s.moves + 1, cur := none }
    let steps := fun (o : Host.Outcome State Fault Refusal) => step s = match o with
      | .next t => .next { t.settle with cur := none }
      | .fault r => .fault r
      | .refused r => .refused r
    (∀ (core q : Nat) (busy : List (Nat × Nat)) (swap : Bool) (a : Agent) (s1 : State) (b : Beam),
      s.agenda = .issue core q busy old swap :: rest → s0.chosen core q busy = (some a, s1) → s1.boundary a = none →
      s1.beam? a = some b →
      (∀ e, b.ports = (some e, none) → steps (s1.issueEntry a e false old none)) ∧
      ∀ e e' t1 t2, b.ports = (some e, some e') → s1.issueEntry a e false old none = .next t1 →
        s1.issueEntry a e' true (old / 4) none = .next t2 →
        (s1.stoppedFrom t1 a = false → swap = false → steps (t1.issueEntry a e' true (old / 4) (some b))) ∧
        (s1.stoppedFrom t1 a = true → s1.stoppedFrom t2 a = true → s1.leftFrom t2 a = false → steps (.next t1)) ∧
        (s1.stoppedFrom t1 a = true → s1.stoppedFrom t2 a = false → steps (t2.issueEntry a e false old (some b)))) ∧
    ∀ n r e, s.agenda = .lantern n old :: rest → s0.section? n = some r → r.ending = none → s0.mayIssue (.lantern n) = true →
      s0.spent (.lantern n) = false → r.beam.entry? false = some e → steps (s0.issueEntry (.lantern n) e false old none)) ∧
  ∀ (u : State) (a : Agent) (pc old : Nat),
    (∀ p v d, pc < 2 ^ 72 → u.reach (u.place a).core (u.place a).ctx pc .fetching = (.page p, v) →
      v.codeWord (u.place a) pc p.loc (old.testBit 0) = CW.make d → isPrefix d.toNat = false → u.fetch a pc old = (.words [d.toNat], v)) ∧
    ∀ p q v w d d', pc + 4 < 2 ^ 72 → u.reach (u.place a).core (u.place a).ctx pc .fetching = (.page p, v) →
      v.codeWord (u.place a) pc p.loc (old.testBit 0) = CW.make d → isPrefix d.toNat = true →
      v.reach (u.place a).core (u.place a).ctx (pc + 4) .fetching = (.page q, w) →
      w.codeWord (u.place a) (pc + 4) q.loc (old.testBit 1) = CW.make d' → u.fetch a pc old = (.words [d.toNat, d'.toNat], w)

/-- R364, R388, R404, R433, R436, R466, R467, R470, R471, R477, R479, R488: what the spec says of reset. (READY with every unit sound: what a
self-test finds is its input.) -/
def Obligations.ResetValues : Prop :=
  let s := State.reset
  s.MemWf ∧ (∀ a, a < 2 ^ 57 → s.mem.byte a = 0 ∧ s.mem.word a = CW.make 0) ∧ s.l2 = [] ∧
  s.mod.status = 1 ∧ s.mod.plcause = 0 ∧ s.mod.degr = false ∧ s.mod.number = 0 ∧ s.mod.winbase = 0 ∧ s.mod.domain = 1 ∧
  s.mod.powercap = 3200 ∧ s.mod.patrol = false ∧ s.mod.thresholds = List.replicate 5 0xFFFFFFFF ∧ s.mod.ctxCount = 0 ∧
  (∀ b, b < 4096 → s.mod.star b = b % 128) ∧ (∀ d b, d < 8 → b < 512 → s.mod.sub d b = b % 16) ∧
  (∀ ctx, s.stepLimit ctx = 2 ^ 20) ∧
  (∀ q, q < 64 → s.lq q = .reset) ∧ s.wgs = [] ∧ s.launches = [] ∧ s.msgs = [] ∧
  (∀ n, n < 416 → s.core n = .reset) ∧ Core.reset.nodes = [] ∧ Core.reset.tlb = [] ∧ Core.reset.lines = [] ∧
  Core.reset.pmc = List.replicate 16 0 ∧ Core.reset.pmcsel = List.replicate 16 0 ∧
  (∀ n, n < 41 → s.islands[n]? = some .reset) ∧ Island.reset.cycle = 0 ∧
  s.cur = none

/-- R69, R243, R249: a step from a state whose memory is in canonical form (rising addresses, no byte that an unlisted address reads as), the
stacks' and that of the lines which the slices hold dirty, keeps it. -/
def Obligations.StepKeepsMemoryWf : Prop :=
  ∀ (s t : State), s.MemWf → step s = .next t → t.MemWf
end

