-- ==== Sys2Proof/Laws/Engines.lean ====
section
/-!
SUPPORT. Sys2Proof/Laws/Engines.lean: what an engine step's checked reads answer where every word is readable under its own code (R262,
R267, R340, R358) and no copy writes it: the words, and nothing changed.
-/

namespace Sys2Proof.Machine

/-- A read of a word under its own code. -/
theorem EngWork.word_clean {x : EngWork} {pl : Place} {mem : Bool} {addr : Int} {w : CW} {d : Word}
    (hr : x.s.engRead false x.q pl mem addr = (.ok w, x.s)) (hw : lccCheck w = .ok d)
    (hc : x.s.copyUnderWay pl.wg addr.toNat = false) : x.word pl mem addr = (.ok d, x) := by
  simp [EngWork.word, hr, EngWork.check, hw, Checked.data?, hc]

/-- Consecutive words under their own codes. -/
theorem EngWork.words_clean {x : EngWork} {pl : Place} {mem : Bool} : ∀ (n : Nat) (addr : Int),
    (∀ k < n, ∃ w d, x.s.engRead false x.q pl mem (addr + 4 * (k : Nat)) = (.ok w, x.s) ∧ lccCheck w = .ok d ∧
      x.s.copyUnderWay pl.wg (addr + 4 * (k : Nat)).toNat = false) →
      ∃ ws, x.words pl mem addr n = (.ok ws, x)
  | 0, _, _ => ⟨[], rfl⟩
  | n + 1, addr, h => by
    obtain ⟨w, d, hr, hw, hc⟩ := h 0 (Nat.succ_pos n)
    obtain ⟨ws, hs⟩ := EngWork.words_clean (x := x) (pl := pl) (mem := mem) n (addr + 4) fun k hk => by
      have := h (k + 1) (by omega)
      rwa [show addr + 4 * ((k + 1 : Nat) : Int) = addr + 4 + 4 * (k : Nat) by push_cast; ring] at this
    refine ⟨d :: ws, ?_⟩
    simp only [Nat.cast_zero, mul_zero, add_zero] at hr hc
    simp only [EngWork.words, EngWork.word_clean hr hw hc, hs]

/-- Rows of words under their own codes. -/
theorem EngWork.rows_clean {x : EngWork} {pl : Place} {mem : Bool} {n : Nat} : ∀ (as : List Int),
    (∀ a ∈ as, ∃ ws, x.words pl mem a n = (.ok ws, x)) → ∃ rs, x.rows pl mem n as = (.ok rs, x)
  | [], _ => ⟨[], rfl⟩
  | a :: as, h => by
    obtain ⟨ws, hw⟩ := h a (.head _)
    obtain ⟨rs, hr⟩ := EngWork.rows_clean as fun b hb => h b (.tail _ hb)
    exact ⟨ws :: rs, by simp only [EngWork.rows, hw, hr]⟩

end Sys2Proof.Machine
end

