-- ==== Sys2Proof/Laws/Masks.lean ====
section
/-!
SUPPORT. Sys2Proof/Laws/Masks.lean: the bits of lane masks.
-/

namespace Sys2Proof.Machine

theorem land_mod_two (a b : Nat) : (a &&& b) % 2 = 1 ↔ a % 2 = 1 ∧ b % 2 = 1 := by simp

theorem land_mod_two_le (a b : Nat) : (a &&& b) % 2 ≤ a % 2 := by
  have := land_mod_two a b; omega

theorem sub_land_half (a b : Nat) : (a - (a &&& b)) / 2 = a / 2 - (a / 2 &&& b / 2) := by
  have h1 := land_mod_two_le a b
  have h2 : (a &&& b) / 2 = a / 2 &&& b / 2 := Nat.and_div_two
  have h3 : a &&& b ≤ a := Nat.and_le_left
  omega

@[simp] theorem testBit_maskSub (a b i : Nat) : (maskSub a b).testBit i = (a.testBit i && !b.testBit i) := by
  unfold maskSub
  induction i generalizing a b with
  | zero =>
    have h1 := land_mod_two a b
    have h3 : a &&& b ≤ a := Nat.and_le_left
    simp only [Nat.testBit_zero]
    rw [Bool.eq_iff_iff]; simp; omega
  | succ i ih => rw [Nat.testBit_succ, sub_land_half, ih, Nat.testBit_succ, Nat.testBit_succ]

theorem maskSub_zero (a : Nat) : maskSub a 0 = a := by simp [maskSub]

theorem mem_lanesOf {l m w : Nat} : l ∈ lanesOf m w ↔ l < w ∧ m.testBit l = true := by simp [lanesOf]

theorem testBit_maskOf (ls : List Nat) (i : Nat) : (maskOf ls).testBit i = decide (i ∈ ls) := by
  induction ls with
  | nil => simp [maskOf]
  | cons l ls ih =>
    simp only [maskOf, Nat.testBit_or, ih, laneBit, Nat.testBit_two_pow, List.mem_cons]
    rw [Bool.eq_iff_iff]; simp [eq_comm (a := i)]

end Sys2Proof.Machine
end

