-- ==== Sys2Proof/Laws/Frontier.lean ====
section
/-!
SUPPORT. Sys2Proof/Laws/Frontier.lean: where lanes stand after the operations on a frontier.
-/

namespace Sys2Proof.Machine

theorem Stands_nil (l p : Nat) (k : EntryKind) : ¬ Stands [] l p k := by simp [Stands]

theorem Stands_cons (e : Entry) (fr : List Entry) (l p : Nat) (k : EntryKind) :
    Stands (e :: fr) l p k ↔ (e.lanes.testBit l = true ∧ e.pc = p ∧ e.kind = k) ∨ Stands fr l p k := by
  simp [Stands]

theorem Stands_placeEntry (fr : List Entry) (e : Entry) (l p : Nat) (k : EntryKind) :
    Stands (placeEntry fr e) l p k ↔ Stands fr l p k ∨ (e.lanes.testBit l = true ∧ e.pc = p ∧ e.kind = k) := by
  induction fr with
  | nil =>
    by_cases h : e.lanes = 0 <;> simp [placeEntry, h, Stands]
  | cons x xs ih =>
    by_cases h : e.lanes = 0
    · simp [placeEntry, h]
    · by_cases h2 : x.kind = .runnable ∧ e.kind = .runnable ∧ x.pc = e.pc ∧ x.pri = e.pri
      · simp only [placeEntry, h, h2, if_true, if_false, and_self, Stands_cons, Nat.testBit_or, Bool.or_eq_true]
        obtain ⟨hx, he, hp, -⟩ := h2
        tauto
      · simp only [placeEntry, h, h2, if_false, Stands_cons, ih]
        tauto

theorem Stands_placeEntries (es fr : List Entry) (l p : Nat) (k : EntryKind) :
    Stands (placeEntries fr es) l p k ↔ Stands fr l p k ∨ Stands es l p k := by
  induction es generalizing fr with
  | nil => simp [placeEntries, Stands]
  | cons e es ih =>
    have : placeEntries fr (e :: es) = placeEntries (placeEntry fr e) es := rfl
    rw [this, ih, Stands_placeEntry, Stands_cons]; tauto

theorem Stands_removeLanes (fr : List Entry) (m l p : Nat) (k : EntryKind) :
    Stands (removeLanes fr m) l p k ↔ m.testBit l = false ∧ Stands fr l p k := by
  simp only [Stands, removeLanes, List.mem_filter, List.mem_map]
  constructor
  · rintro ⟨e, ⟨⟨x, hx, rfl⟩, -⟩, hb, hp, hk⟩
    simp only [testBit_maskSub, Bool.and_eq_true, Bool.not_eq_true'] at hb
    exact ⟨hb.2, x, hx, hb.1, hp, hk⟩
  · rintro ⟨hm, x, hx, hb, hp, hk⟩
    refine ⟨_, ⟨⟨x, hx, rfl⟩, ?_⟩, ?_, hp, hk⟩
    · have : (maskSub x.lanes m).testBit l = true := by simp [hb, hm]
      simp only [bne_iff_ne, ne_eq]
      intro h0; simp [h0] at this
    · simp [hb, hm]

theorem Stands_flatMap (g : Entry → List Entry) (fr : List Entry) (l p : Nat) (k : EntryKind) :
    Stands (fr.flatMap g) l p k ↔ ∃ x ∈ fr, Stands (g x) l p k := by
  simp only [Stands, List.mem_flatMap]
  constructor
  · rintro ⟨e, ⟨x, hx, he⟩, h⟩; exact ⟨x, hx, e, he, h⟩
  · rintro ⟨x, hx, e, he, h⟩; exact ⟨e, ⟨x, hx, he⟩, h⟩

/-- Priorities and merging leave every lane where it stands. -/
theorem Stands_settlePri (s : State) (pl : Place) (was fr : List Entry) : SameStands fr (s.settlePri pl was fr) := by
  intro l p k
  rw [State.settlePri, Stands_placeEntries, or_iff_right (Stands_nil l p k), Stands_flatMap]
  refine exists_congr fun x => and_congr_right fun _ => ?_
  dsimp only
  split
  · simp [Stands_cons, Stands_nil]
  · simp only [Stands_cons, Stands_nil, testBit_maskSub]
    cases x.lanes.testBit l <;> cases (stoodAt was x.pc).testBit l <;> simp

theorem SameStands.trans {a b c : List Entry} (h : SameStands a b) (h' : SameStands b c) : SameStands a c :=
  fun l p k => (h' l p k).trans (h l p k)

theorem SameStands.refl (a : List Entry) : SameStands a a := fun _ _ _ => Iff.rfl

/-- Where lanes stand once the path has gone on and the priorities are settled. -/
theorem advanced_move (s : State) (pl : Place) (was : List Entry) (b : Beam) (lanes pc pri hold : Nat) :
    Advanced b.frontier (s.settlePri pl was (b.move lanes [{ Entry.run pc pri lanes 0 with hold := hold }]).frontier) lanes pc := by
  intro l p k
  rw [Stands_settlePri, Beam.move]
  simp only [Stands_placeEntries, Stands_removeLanes, Stands_cons, Stands_nil, Entry.run]
  constructor
  · rintro (h | h | h)
    · exact .inr h
    · exact .inl ⟨h.1, h.2.1.symm, h.2.2.symm⟩
    · exact h.elim
  · rintro (h | h)
    · exact .inr (.inl ⟨h.1, h.2.1.symm, h.2.2.symm⟩)
    · exact .inl h

end Sys2Proof.Machine
end

