-- ==== Sys2Proof/Laws/Maps.lean ====
section
/-!
SUPPORT. Sys2Proof/Laws/Maps.lean: reading after writing, for the sparse maps of State.
-/

namespace Sys2Proof.Machine

variable {α : Type}

@[simp] theorem smGet?_set_self (m : SMap α) (k : Nat) (v : α) : smGet? (smSet m k v) k = some v := by
  induction m with
  | nil => simp [smSet, smGet?]
  | cons x xs ih =>
    obtain ⟨k', v'⟩ := x
    by_cases h : k < k'
    · simp [smSet, smGet?, h]
    · by_cases h' : k = k'
      · simp [smSet, smGet?, h']
      · simp [smSet, smGet?, h, h', ih]

theorem smGet?_set_other (m : SMap α) {k j : Nat} (v : α) (h : j ≠ k) : smGet? (smSet m k v) j = smGet? m j := by
  induction m with
  | nil => simp [smSet, smGet?, h]
  | cons x xs ih =>
    obtain ⟨k', v'⟩ := x
    by_cases h1 : k < k'
    · simp [smSet, smGet?, h1, h]
    · by_cases h2 : k = k'
      · subst h2; simp [smSet, smGet?, h]
      · simp [smSet, smGet?, h1, h2, ih]

@[simp] theorem smSet_set (m : SMap α) (k : Nat) (v w : α) : smSet (smSet m k v) k w = smSet m k w := by
  induction m with
  | nil => simp [smSet]
  | cons x xs ih =>
    obtain ⟨k', v'⟩ := x
    by_cases h : k < k'
    · simp [smSet, h]
    · by_cases h' : k = k'
      · simp [smSet, h']
      · simp [smSet, h, h', ih]

@[simp] theorem smGet?_modify_self (m : SMap α) (k : Nat) (f : α → α) : smGet? (smModify m k f) k = (smGet? m k).map f := by
  unfold smModify; cases h : smGet? m k <;> simp [h]

theorem smGet?_modify_other (m : SMap α) {k j : Nat} (f : α → α) (h : j ≠ k) : smGet? (smModify m k f) j = smGet? m j := by
  unfold smModify; cases smGet? m k <;> simp [smGet?_set_other, h]

@[simp] theorem smModify_modify (m : SMap α) (k : Nat) (f g : α → α) :
    smModify (smModify m k f) k g = smModify m k (fun v => g (f v)) := by
  unfold smModify; cases h : smGet? m k <;> simp [h]

theorem smModify_congr (m : SMap α) (k : Nat) {f g : α → α} (h : ∀ v, smGet? m k = some v → f v = g v) :
    smModify m k f = smModify m k g := by
  unfold smModify; cases h' : smGet? m k <;> simp_all

end Sys2Proof.Machine
end

