-- ==== Sys2Proof/Laws/State.lean ====
section
/-!
SUPPORT. Sys2Proof/Laws/State.lean: one lemma per field per update of a part of State, and how the updates of beams compose.
-/

namespace Sys2Proof.Machine

variable (s : State)

/-! ## modCore -/

@[simp] theorem modCore_mem (c : Nat) (f : Core → Core) : (s.modCore c f).mem = s.mem := rfl
@[simp] theorem modCore_l2 (c : Nat) (f : Core → Core) : (s.modCore c f).l2 = s.l2 := rfl
@[simp] theorem modCore_l2mem (c : Nat) (f : Core → Core) : (s.modCore c f).l2mem = s.l2mem := rfl
@[simp] theorem modCore_l2uses (c : Nat) (f : Core → Core) : (s.modCore c f).l2uses = s.l2uses := rfl
@[simp] theorem modCore_tags (c : Nat) (f : Core → Core) : (s.modCore c f).tags = s.tags := rfl
@[simp] theorem modCore_stamps (c : Nat) (f : Core → Core) : (s.modCore c f).stamps = s.stamps := rfl
@[simp] theorem modCore_twins (c : Nat) (f : Core → Core) : (s.modCore c f).twins = s.twins := rfl
@[simp] theorem modCore_lqs (c : Nat) (f : Core → Core) : (s.modCore c f).lqs = s.lqs := rfl
@[simp] theorem modCore_lastQueue (c : Nat) (f : Core → Core) : (s.modCore c f).lastQueue = s.lastQueue := rfl
@[simp] theorem modCore_launches (c : Nat) (f : Core → Core) : (s.modCore c f).launches = s.launches := rfl
@[simp] theorem modCore_nextLaunch (c : Nat) (f : Core → Core) : (s.modCore c f).nextLaunch = s.nextLaunch := rfl
@[simp] theorem modCore_eligibleCount (c : Nat) (f : Core → Core) : (s.modCore c f).eligibleCount = s.eligibleCount := rfl
@[simp] theorem modCore_wgs (c : Nat) (f : Core → Core) : (s.modCore c f).wgs = s.wgs := rfl
@[simp] theorem modCore_dispatchCount (c : Nat) (f : Core → Core) : (s.modCore c f).dispatchCount = s.dispatchCount := rfl
@[simp] theorem modCore_cores (c : Nat) (f : Core → Core) : (s.modCore c f).cores = s.cores.modify c f := rfl
@[simp] theorem modCore_lanterns (c : Nat) (f : Core → Core) : (s.modCore c f).lanterns = s.lanterns := rfl
@[simp] theorem modCore_dies (c : Nat) (f : Core → Core) : (s.modCore c f).dies = s.dies := rfl
@[simp] theorem modCore_slices (c : Nat) (f : Core → Core) : (s.modCore c f).slices = s.slices := rfl
@[simp] theorem modCore_channels (c : Nat) (f : Core → Core) : (s.modCore c f).channels = s.channels := rfl
@[simp] theorem modCore_bridge (c : Nat) (f : Core → Core) : (s.modCore c f).bridge = s.bridge := rfl
@[simp] theorem modCore_ctxs (c : Nat) (f : Core → Core) : (s.modCore c f).ctxs = s.ctxs := rfl
@[simp] theorem modCore_msgs (c : Nat) (f : Core → Core) : (s.modCore c f).msgs = s.msgs := rfl
@[simp] theorem modCore_lockSets (c : Nat) (f : Core → Core) : (s.modCore c f).lockSets = s.lockSets := rfl
@[simp] theorem modCore_islands (c : Nat) (f : Core → Core) : (s.modCore c f).islands = s.islands := rfl
@[simp] theorem modCore_qos (c : Nat) (f : Core → Core) : (s.modCore c f).qos = s.qos := rfl
@[simp] theorem modCore_hints (c : Nat) (f : Core → Core) : (s.modCore c f).hints = s.hints := rfl
@[simp] theorem modCore_mod (c : Nat) (f : Core → Core) : (s.modCore c f).mod = s.mod := rfl
@[simp] theorem modCore_engSeq (c : Nat) (f : Core → Core) : (s.modCore c f).engSeq = s.engSeq := rfl
@[simp] theorem modCore_agenda (c : Nat) (f : Core → Core) : (s.modCore c f).agenda = s.agenda := rfl
@[simp] theorem modCore_moves (c : Nat) (f : Core → Core) : (s.modCore c f).moves = s.moves := rfl
@[simp] theorem modCore_sweep (c : Nat) (f : Core → Core) : (s.modCore c f).sweep = s.sweep := rfl
@[simp] theorem modCore_cur (c : Nat) (f : Core → Core) : (s.modCore c f).cur = s.cur := rfl
@[simp] theorem modCore_free (c : Nat) (f : Core → Core) : (s.modCore c f).free = s.free := rfl

/-! ## modDie -/

@[simp] theorem modDie_mem (d : Nat) (f : Die → Die) : (s.modDie d f).mem = s.mem := rfl
@[simp] theorem modDie_l2 (d : Nat) (f : Die → Die) : (s.modDie d f).l2 = s.l2 := rfl
@[simp] theorem modDie_l2mem (d : Nat) (f : Die → Die) : (s.modDie d f).l2mem = s.l2mem := rfl
@[simp] theorem modDie_l2uses (d : Nat) (f : Die → Die) : (s.modDie d f).l2uses = s.l2uses := rfl
@[simp] theorem modDie_tags (d : Nat) (f : Die → Die) : (s.modDie d f).tags = s.tags := rfl
@[simp] theorem modDie_stamps (d : Nat) (f : Die → Die) : (s.modDie d f).stamps = s.stamps := rfl
@[simp] theorem modDie_twins (d : Nat) (f : Die → Die) : (s.modDie d f).twins = s.twins := rfl
@[simp] theorem modDie_lqs (d : Nat) (f : Die → Die) : (s.modDie d f).lqs = s.lqs := rfl
@[simp] theorem modDie_lastQueue (d : Nat) (f : Die → Die) : (s.modDie d f).lastQueue = s.lastQueue := rfl
@[simp] theorem modDie_launches (d : Nat) (f : Die → Die) : (s.modDie d f).launches = s.launches := rfl
@[simp] theorem modDie_nextLaunch (d : Nat) (f : Die → Die) : (s.modDie d f).nextLaunch = s.nextLaunch := rfl
@[simp] theorem modDie_eligibleCount (d : Nat) (f : Die → Die) : (s.modDie d f).eligibleCount = s.eligibleCount := rfl
@[simp] theorem modDie_wgs (d : Nat) (f : Die → Die) : (s.modDie d f).wgs = s.wgs := rfl
@[simp] theorem modDie_dispatchCount (d : Nat) (f : Die → Die) : (s.modDie d f).dispatchCount = s.dispatchCount := rfl
@[simp] theorem modDie_cores (d : Nat) (f : Die → Die) : (s.modDie d f).cores = s.cores := rfl
@[simp] theorem modDie_lanterns (d : Nat) (f : Die → Die) : (s.modDie d f).lanterns = s.lanterns := rfl
@[simp] theorem modDie_dies (d : Nat) (f : Die → Die) : (s.modDie d f).dies = s.dies.modify d f := rfl
@[simp] theorem modDie_slices (d : Nat) (f : Die → Die) : (s.modDie d f).slices = s.slices := rfl
@[simp] theorem modDie_channels (d : Nat) (f : Die → Die) : (s.modDie d f).channels = s.channels := rfl
@[simp] theorem modDie_bridge (d : Nat) (f : Die → Die) : (s.modDie d f).bridge = s.bridge := rfl
@[simp] theorem modDie_ctxs (d : Nat) (f : Die → Die) : (s.modDie d f).ctxs = s.ctxs := rfl
@[simp] theorem modDie_msgs (d : Nat) (f : Die → Die) : (s.modDie d f).msgs = s.msgs := rfl
@[simp] theorem modDie_lockSets (d : Nat) (f : Die → Die) : (s.modDie d f).lockSets = s.lockSets := rfl
@[simp] theorem modDie_islands (d : Nat) (f : Die → Die) : (s.modDie d f).islands = s.islands := rfl
@[simp] theorem modDie_qos (d : Nat) (f : Die → Die) : (s.modDie d f).qos = s.qos := rfl
@[simp] theorem modDie_hints (d : Nat) (f : Die → Die) : (s.modDie d f).hints = s.hints := rfl
@[simp] theorem modDie_mod (d : Nat) (f : Die → Die) : (s.modDie d f).mod = s.mod := rfl
@[simp] theorem modDie_engSeq (d : Nat) (f : Die → Die) : (s.modDie d f).engSeq = s.engSeq := rfl
@[simp] theorem modDie_agenda (d : Nat) (f : Die → Die) : (s.modDie d f).agenda = s.agenda := rfl
@[simp] theorem modDie_moves (d : Nat) (f : Die → Die) : (s.modDie d f).moves = s.moves := rfl
@[simp] theorem modDie_sweep (d : Nat) (f : Die → Die) : (s.modDie d f).sweep = s.sweep := rfl
@[simp] theorem modDie_cur (d : Nat) (f : Die → Die) : (s.modDie d f).cur = s.cur := rfl
@[simp] theorem modDie_free (d : Nat) (f : Die → Die) : (s.modDie d f).free = s.free := rfl

/-! ## modLantern -/

@[simp] theorem modLantern_mem (n : Nat) (f : Lantern → Lantern) : (s.modLantern n f).mem = s.mem := rfl
@[simp] theorem modLantern_l2 (n : Nat) (f : Lantern → Lantern) : (s.modLantern n f).l2 = s.l2 := rfl
@[simp] theorem modLantern_l2mem (n : Nat) (f : Lantern → Lantern) : (s.modLantern n f).l2mem = s.l2mem := rfl
@[simp] theorem modLantern_l2uses (n : Nat) (f : Lantern → Lantern) : (s.modLantern n f).l2uses = s.l2uses := rfl
@[simp] theorem modLantern_tags (n : Nat) (f : Lantern → Lantern) : (s.modLantern n f).tags = s.tags := rfl
@[simp] theorem modLantern_stamps (n : Nat) (f : Lantern → Lantern) : (s.modLantern n f).stamps = s.stamps := rfl
@[simp] theorem modLantern_twins (n : Nat) (f : Lantern → Lantern) : (s.modLantern n f).twins = s.twins := rfl
@[simp] theorem modLantern_lqs (n : Nat) (f : Lantern → Lantern) : (s.modLantern n f).lqs = s.lqs := rfl
@[simp] theorem modLantern_lastQueue (n : Nat) (f : Lantern → Lantern) : (s.modLantern n f).lastQueue = s.lastQueue := rfl
@[simp] theorem modLantern_launches (n : Nat) (f : Lantern → Lantern) : (s.modLantern n f).launches = s.launches := rfl
@[simp] theorem modLantern_nextLaunch (n : Nat) (f : Lantern → Lantern) : (s.modLantern n f).nextLaunch = s.nextLaunch := rfl
@[simp] theorem modLantern_eligibleCount (n : Nat) (f : Lantern → Lantern) : (s.modLantern n f).eligibleCount = s.eligibleCount := rfl
@[simp] theorem modLantern_wgs (n : Nat) (f : Lantern → Lantern) : (s.modLantern n f).wgs = s.wgs := rfl
@[simp] theorem modLantern_dispatchCount (n : Nat) (f : Lantern → Lantern) : (s.modLantern n f).dispatchCount = s.dispatchCount := rfl
@[simp] theorem modLantern_cores (n : Nat) (f : Lantern → Lantern) : (s.modLantern n f).cores = s.cores := rfl
@[simp] theorem modLantern_lanterns (n : Nat) (f : Lantern → Lantern) : (s.modLantern n f).lanterns = s.lanterns.modify n f := rfl
@[simp] theorem modLantern_dies (n : Nat) (f : Lantern → Lantern) : (s.modLantern n f).dies = s.dies := rfl
@[simp] theorem modLantern_slices (n : Nat) (f : Lantern → Lantern) : (s.modLantern n f).slices = s.slices := rfl
@[simp] theorem modLantern_channels (n : Nat) (f : Lantern → Lantern) : (s.modLantern n f).channels = s.channels := rfl
@[simp] theorem modLantern_bridge (n : Nat) (f : Lantern → Lantern) : (s.modLantern n f).bridge = s.bridge := rfl
@[simp] theorem modLantern_ctxs (n : Nat) (f : Lantern → Lantern) : (s.modLantern n f).ctxs = s.ctxs := rfl
@[simp] theorem modLantern_msgs (n : Nat) (f : Lantern → Lantern) : (s.modLantern n f).msgs = s.msgs := rfl
@[simp] theorem modLantern_lockSets (n : Nat) (f : Lantern → Lantern) : (s.modLantern n f).lockSets = s.lockSets := rfl
@[simp] theorem modLantern_islands (n : Nat) (f : Lantern → Lantern) : (s.modLantern n f).islands = s.islands := rfl
@[simp] theorem modLantern_qos (n : Nat) (f : Lantern → Lantern) : (s.modLantern n f).qos = s.qos := rfl
@[simp] theorem modLantern_hints (n : Nat) (f : Lantern → Lantern) : (s.modLantern n f).hints = s.hints := rfl
@[simp] theorem modLantern_mod (n : Nat) (f : Lantern → Lantern) : (s.modLantern n f).mod = s.mod := rfl
@[simp] theorem modLantern_engSeq (n : Nat) (f : Lantern → Lantern) : (s.modLantern n f).engSeq = s.engSeq := rfl
@[simp] theorem modLantern_agenda (n : Nat) (f : Lantern → Lantern) : (s.modLantern n f).agenda = s.agenda := rfl
@[simp] theorem modLantern_moves (n : Nat) (f : Lantern → Lantern) : (s.modLantern n f).moves = s.moves := rfl
@[simp] theorem modLantern_sweep (n : Nat) (f : Lantern → Lantern) : (s.modLantern n f).sweep = s.sweep := rfl
@[simp] theorem modLantern_cur (n : Nat) (f : Lantern → Lantern) : (s.modLantern n f).cur = s.cur := rfl
@[simp] theorem modLantern_free (n : Nat) (f : Lantern → Lantern) : (s.modLantern n f).free = s.free := rfl

/-! ## setWg -/

@[simp] theorem setWg_mem (w : Nat) (g : Wg) : (s.setWg w g).mem = s.mem := rfl
@[simp] theorem setWg_l2 (w : Nat) (g : Wg) : (s.setWg w g).l2 = s.l2 := rfl
@[simp] theorem setWg_l2mem (w : Nat) (g : Wg) : (s.setWg w g).l2mem = s.l2mem := rfl
@[simp] theorem setWg_l2uses (w : Nat) (g : Wg) : (s.setWg w g).l2uses = s.l2uses := rfl
@[simp] theorem setWg_tags (w : Nat) (g : Wg) : (s.setWg w g).tags = s.tags := rfl
@[simp] theorem setWg_stamps (w : Nat) (g : Wg) : (s.setWg w g).stamps = s.stamps := rfl
@[simp] theorem setWg_twins (w : Nat) (g : Wg) : (s.setWg w g).twins = s.twins := rfl
@[simp] theorem setWg_lqs (w : Nat) (g : Wg) : (s.setWg w g).lqs = s.lqs := rfl
@[simp] theorem setWg_lastQueue (w : Nat) (g : Wg) : (s.setWg w g).lastQueue = s.lastQueue := rfl
@[simp] theorem setWg_launches (w : Nat) (g : Wg) : (s.setWg w g).launches = s.launches := rfl
@[simp] theorem setWg_nextLaunch (w : Nat) (g : Wg) : (s.setWg w g).nextLaunch = s.nextLaunch := rfl
@[simp] theorem setWg_eligibleCount (w : Nat) (g : Wg) : (s.setWg w g).eligibleCount = s.eligibleCount := rfl
@[simp] theorem setWg_wgs (w : Nat) (g : Wg) : (s.setWg w g).wgs = smSet s.wgs w g := rfl
@[simp] theorem setWg_dispatchCount (w : Nat) (g : Wg) : (s.setWg w g).dispatchCount = s.dispatchCount := rfl
@[simp] theorem setWg_cores (w : Nat) (g : Wg) : (s.setWg w g).cores = s.cores := rfl
@[simp] theorem setWg_lanterns (w : Nat) (g : Wg) : (s.setWg w g).lanterns = s.lanterns := rfl
@[simp] theorem setWg_dies (w : Nat) (g : Wg) : (s.setWg w g).dies = s.dies := rfl
@[simp] theorem setWg_slices (w : Nat) (g : Wg) : (s.setWg w g).slices = s.slices := rfl
@[simp] theorem setWg_channels (w : Nat) (g : Wg) : (s.setWg w g).channels = s.channels := rfl
@[simp] theorem setWg_bridge (w : Nat) (g : Wg) : (s.setWg w g).bridge = s.bridge := rfl
@[simp] theorem setWg_ctxs (w : Nat) (g : Wg) : (s.setWg w g).ctxs = s.ctxs := rfl
@[simp] theorem setWg_msgs (w : Nat) (g : Wg) : (s.setWg w g).msgs = s.msgs := rfl
@[simp] theorem setWg_lockSets (w : Nat) (g : Wg) : (s.setWg w g).lockSets = s.lockSets := rfl
@[simp] theorem setWg_islands (w : Nat) (g : Wg) : (s.setWg w g).islands = s.islands := rfl
@[simp] theorem setWg_qos (w : Nat) (g : Wg) : (s.setWg w g).qos = s.qos := rfl
@[simp] theorem setWg_hints (w : Nat) (g : Wg) : (s.setWg w g).hints = s.hints := rfl
@[simp] theorem setWg_mod (w : Nat) (g : Wg) : (s.setWg w g).mod = s.mod := rfl
@[simp] theorem setWg_engSeq (w : Nat) (g : Wg) : (s.setWg w g).engSeq = s.engSeq := rfl
@[simp] theorem setWg_agenda (w : Nat) (g : Wg) : (s.setWg w g).agenda = s.agenda := rfl
@[simp] theorem setWg_moves (w : Nat) (g : Wg) : (s.setWg w g).moves = s.moves := rfl
@[simp] theorem setWg_sweep (w : Nat) (g : Wg) : (s.setWg w g).sweep = s.sweep := rfl
@[simp] theorem setWg_cur (w : Nat) (g : Wg) : (s.setWg w g).cur = s.cur := rfl
@[simp] theorem setWg_free (w : Nat) (g : Wg) : (s.setWg w g).free = s.free := rfl

/-! ## modWg -/

@[simp] theorem modWg_mem (w : Nat) (f : Wg → Wg) : (s.modWg w f).mem = s.mem := rfl
@[simp] theorem modWg_l2 (w : Nat) (f : Wg → Wg) : (s.modWg w f).l2 = s.l2 := rfl
@[simp] theorem modWg_l2mem (w : Nat) (f : Wg → Wg) : (s.modWg w f).l2mem = s.l2mem := rfl
@[simp] theorem modWg_l2uses (w : Nat) (f : Wg → Wg) : (s.modWg w f).l2uses = s.l2uses := rfl
@[simp] theorem modWg_tags (w : Nat) (f : Wg → Wg) : (s.modWg w f).tags = s.tags := rfl
@[simp] theorem modWg_stamps (w : Nat) (f : Wg → Wg) : (s.modWg w f).stamps = s.stamps := rfl
@[simp] theorem modWg_twins (w : Nat) (f : Wg → Wg) : (s.modWg w f).twins = s.twins := rfl
@[simp] theorem modWg_lqs (w : Nat) (f : Wg → Wg) : (s.modWg w f).lqs = s.lqs := rfl
@[simp] theorem modWg_lastQueue (w : Nat) (f : Wg → Wg) : (s.modWg w f).lastQueue = s.lastQueue := rfl
@[simp] theorem modWg_launches (w : Nat) (f : Wg → Wg) : (s.modWg w f).launches = s.launches := rfl
@[simp] theorem modWg_nextLaunch (w : Nat) (f : Wg → Wg) : (s.modWg w f).nextLaunch = s.nextLaunch := rfl
@[simp] theorem modWg_eligibleCount (w : Nat) (f : Wg → Wg) : (s.modWg w f).eligibleCount = s.eligibleCount := rfl
@[simp] theorem modWg_wgs (w : Nat) (f : Wg → Wg) : (s.modWg w f).wgs = smModify s.wgs w f := rfl
@[simp] theorem modWg_dispatchCount (w : Nat) (f : Wg → Wg) : (s.modWg w f).dispatchCount = s.dispatchCount := rfl
@[simp] theorem modWg_cores (w : Nat) (f : Wg → Wg) : (s.modWg w f).cores = s.cores := rfl
@[simp] theorem modWg_lanterns (w : Nat) (f : Wg → Wg) : (s.modWg w f).lanterns = s.lanterns := rfl
@[simp] theorem modWg_dies (w : Nat) (f : Wg → Wg) : (s.modWg w f).dies = s.dies := rfl
@[simp] theorem modWg_slices (w : Nat) (f : Wg → Wg) : (s.modWg w f).slices = s.slices := rfl
@[simp] theorem modWg_channels (w : Nat) (f : Wg → Wg) : (s.modWg w f).channels = s.channels := rfl
@[simp] theorem modWg_bridge (w : Nat) (f : Wg → Wg) : (s.modWg w f).bridge = s.bridge := rfl
@[simp] theorem modWg_ctxs (w : Nat) (f : Wg → Wg) : (s.modWg w f).ctxs = s.ctxs := rfl
@[simp] theorem modWg_msgs (w : Nat) (f : Wg → Wg) : (s.modWg w f).msgs = s.msgs := rfl
@[simp] theorem modWg_lockSets (w : Nat) (f : Wg → Wg) : (s.modWg w f).lockSets = s.lockSets := rfl
@[simp] theorem modWg_islands (w : Nat) (f : Wg → Wg) : (s.modWg w f).islands = s.islands := rfl
@[simp] theorem modWg_qos (w : Nat) (f : Wg → Wg) : (s.modWg w f).qos = s.qos := rfl
@[simp] theorem modWg_hints (w : Nat) (f : Wg → Wg) : (s.modWg w f).hints = s.hints := rfl
@[simp] theorem modWg_mod (w : Nat) (f : Wg → Wg) : (s.modWg w f).mod = s.mod := rfl
@[simp] theorem modWg_engSeq (w : Nat) (f : Wg → Wg) : (s.modWg w f).engSeq = s.engSeq := rfl
@[simp] theorem modWg_agenda (w : Nat) (f : Wg → Wg) : (s.modWg w f).agenda = s.agenda := rfl
@[simp] theorem modWg_moves (w : Nat) (f : Wg → Wg) : (s.modWg w f).moves = s.moves := rfl
@[simp] theorem modWg_sweep (w : Nat) (f : Wg → Wg) : (s.modWg w f).sweep = s.sweep := rfl
@[simp] theorem modWg_cur (w : Nat) (f : Wg → Wg) : (s.modWg w f).cur = s.cur := rfl
@[simp] theorem modWg_free (w : Nat) (f : Wg → Wg) : (s.modWg w f).free = s.free := rfl

/-! ## modLaunch -/

@[simp] theorem modLaunch_mem (l : Nat) (f : Launch → Launch) : (s.modLaunch l f).mem = s.mem := rfl
@[simp] theorem modLaunch_l2 (l : Nat) (f : Launch → Launch) : (s.modLaunch l f).l2 = s.l2 := rfl
@[simp] theorem modLaunch_l2mem (l : Nat) (f : Launch → Launch) : (s.modLaunch l f).l2mem = s.l2mem := rfl
@[simp] theorem modLaunch_l2uses (l : Nat) (f : Launch → Launch) : (s.modLaunch l f).l2uses = s.l2uses := rfl
@[simp] theorem modLaunch_tags (l : Nat) (f : Launch → Launch) : (s.modLaunch l f).tags = s.tags := rfl
@[simp] theorem modLaunch_stamps (l : Nat) (f : Launch → Launch) : (s.modLaunch l f).stamps = s.stamps := rfl
@[simp] theorem modLaunch_twins (l : Nat) (f : Launch → Launch) : (s.modLaunch l f).twins = s.twins := rfl
@[simp] theorem modLaunch_lqs (l : Nat) (f : Launch → Launch) : (s.modLaunch l f).lqs = s.lqs := rfl
@[simp] theorem modLaunch_lastQueue (l : Nat) (f : Launch → Launch) : (s.modLaunch l f).lastQueue = s.lastQueue := rfl
@[simp] theorem modLaunch_launches (l : Nat) (f : Launch → Launch) : (s.modLaunch l f).launches = smModify s.launches l f := rfl
@[simp] theorem modLaunch_nextLaunch (l : Nat) (f : Launch → Launch) : (s.modLaunch l f).nextLaunch = s.nextLaunch := rfl
@[simp] theorem modLaunch_eligibleCount (l : Nat) (f : Launch → Launch) : (s.modLaunch l f).eligibleCount = s.eligibleCount := rfl
@[simp] theorem modLaunch_wgs (l : Nat) (f : Launch → Launch) : (s.modLaunch l f).wgs = s.wgs := rfl
@[simp] theorem modLaunch_dispatchCount (l : Nat) (f : Launch → Launch) : (s.modLaunch l f).dispatchCount = s.dispatchCount := rfl
@[simp] theorem modLaunch_cores (l : Nat) (f : Launch → Launch) : (s.modLaunch l f).cores = s.cores := rfl
@[simp] theorem modLaunch_lanterns (l : Nat) (f : Launch → Launch) : (s.modLaunch l f).lanterns = s.lanterns := rfl
@[simp] theorem modLaunch_dies (l : Nat) (f : Launch → Launch) : (s.modLaunch l f).dies = s.dies := rfl
@[simp] theorem modLaunch_slices (l : Nat) (f : Launch → Launch) : (s.modLaunch l f).slices = s.slices := rfl
@[simp] theorem modLaunch_channels (l : Nat) (f : Launch → Launch) : (s.modLaunch l f).channels = s.channels := rfl
@[simp] theorem modLaunch_bridge (l : Nat) (f : Launch → Launch) : (s.modLaunch l f).bridge = s.bridge := rfl
@[simp] theorem modLaunch_ctxs (l : Nat) (f : Launch → Launch) : (s.modLaunch l f).ctxs = s.ctxs := rfl
@[simp] theorem modLaunch_msgs (l : Nat) (f : Launch → Launch) : (s.modLaunch l f).msgs = s.msgs := rfl
@[simp] theorem modLaunch_lockSets (l : Nat) (f : Launch → Launch) : (s.modLaunch l f).lockSets = s.lockSets := rfl
@[simp] theorem modLaunch_islands (l : Nat) (f : Launch → Launch) : (s.modLaunch l f).islands = s.islands := rfl
@[simp] theorem modLaunch_qos (l : Nat) (f : Launch → Launch) : (s.modLaunch l f).qos = s.qos := rfl
@[simp] theorem modLaunch_hints (l : Nat) (f : Launch → Launch) : (s.modLaunch l f).hints = s.hints := rfl
@[simp] theorem modLaunch_mod (l : Nat) (f : Launch → Launch) : (s.modLaunch l f).mod = s.mod := rfl
@[simp] theorem modLaunch_engSeq (l : Nat) (f : Launch → Launch) : (s.modLaunch l f).engSeq = s.engSeq := rfl
@[simp] theorem modLaunch_agenda (l : Nat) (f : Launch → Launch) : (s.modLaunch l f).agenda = s.agenda := rfl
@[simp] theorem modLaunch_moves (l : Nat) (f : Launch → Launch) : (s.modLaunch l f).moves = s.moves := rfl
@[simp] theorem modLaunch_sweep (l : Nat) (f : Launch → Launch) : (s.modLaunch l f).sweep = s.sweep := rfl
@[simp] theorem modLaunch_cur (l : Nat) (f : Launch → Launch) : (s.modLaunch l f).cur = s.cur := rfl
@[simp] theorem modLaunch_free (l : Nat) (f : Launch → Launch) : (s.modLaunch l f).free = s.free := rfl

/-! ## modMod -/

@[simp] theorem modMod_mem (f : Module → Module) : (s.modMod f).mem = s.mem := rfl
@[simp] theorem modMod_l2 (f : Module → Module) : (s.modMod f).l2 = s.l2 := rfl
@[simp] theorem modMod_l2mem (f : Module → Module) : (s.modMod f).l2mem = s.l2mem := rfl
@[simp] theorem modMod_l2uses (f : Module → Module) : (s.modMod f).l2uses = s.l2uses := rfl
@[simp] theorem modMod_tags (f : Module → Module) : (s.modMod f).tags = s.tags := rfl
@[simp] theorem modMod_stamps (f : Module → Module) : (s.modMod f).stamps = s.stamps := rfl
@[simp] theorem modMod_twins (f : Module → Module) : (s.modMod f).twins = s.twins := rfl
@[simp] theorem modMod_lqs (f : Module → Module) : (s.modMod f).lqs = s.lqs := rfl
@[simp] theorem modMod_lastQueue (f : Module → Module) : (s.modMod f).lastQueue = s.lastQueue := rfl
@[simp] theorem modMod_launches (f : Module → Module) : (s.modMod f).launches = s.launches := rfl
@[simp] theorem modMod_nextLaunch (f : Module → Module) : (s.modMod f).nextLaunch = s.nextLaunch := rfl
@[simp] theorem modMod_eligibleCount (f : Module → Module) : (s.modMod f).eligibleCount = s.eligibleCount := rfl
@[simp] theorem modMod_wgs (f : Module → Module) : (s.modMod f).wgs = s.wgs := rfl
@[simp] theorem modMod_dispatchCount (f : Module → Module) : (s.modMod f).dispatchCount = s.dispatchCount := rfl
@[simp] theorem modMod_cores (f : Module → Module) : (s.modMod f).cores = s.cores := rfl
@[simp] theorem modMod_lanterns (f : Module → Module) : (s.modMod f).lanterns = s.lanterns := rfl
@[simp] theorem modMod_dies (f : Module → Module) : (s.modMod f).dies = s.dies := rfl
@[simp] theorem modMod_slices (f : Module → Module) : (s.modMod f).slices = s.slices := rfl
@[simp] theorem modMod_channels (f : Module → Module) : (s.modMod f).channels = s.channels := rfl
@[simp] theorem modMod_bridge (f : Module → Module) : (s.modMod f).bridge = s.bridge := rfl
@[simp] theorem modMod_ctxs (f : Module → Module) : (s.modMod f).ctxs = s.ctxs := rfl
@[simp] theorem modMod_msgs (f : Module → Module) : (s.modMod f).msgs = s.msgs := rfl
@[simp] theorem modMod_lockSets (f : Module → Module) : (s.modMod f).lockSets = s.lockSets := rfl
@[simp] theorem modMod_islands (f : Module → Module) : (s.modMod f).islands = s.islands := rfl
@[simp] theorem modMod_qos (f : Module → Module) : (s.modMod f).qos = s.qos := rfl
@[simp] theorem modMod_hints (f : Module → Module) : (s.modMod f).hints = s.hints := rfl
@[simp] theorem modMod_mod (f : Module → Module) : (s.modMod f).mod = f s.mod := rfl
@[simp] theorem modMod_engSeq (f : Module → Module) : (s.modMod f).engSeq = s.engSeq := rfl
@[simp] theorem modMod_agenda (f : Module → Module) : (s.modMod f).agenda = s.agenda := rfl
@[simp] theorem modMod_moves (f : Module → Module) : (s.modMod f).moves = s.moves := rfl
@[simp] theorem modMod_sweep (f : Module → Module) : (s.modMod f).sweep = s.sweep := rfl
@[simp] theorem modMod_cur (f : Module → Module) : (s.modMod f).cur = s.cur := rfl
@[simp] theorem modMod_free (f : Module → Module) : (s.modMod f).free = s.free := rfl

/-! ## modLq -/

@[simp] theorem modLq_mem (q : Nat) (f : LaunchQueue → LaunchQueue) : (s.modLq q f).mem = s.mem := rfl
@[simp] theorem modLq_l2 (q : Nat) (f : LaunchQueue → LaunchQueue) : (s.modLq q f).l2 = s.l2 := rfl
@[simp] theorem modLq_l2mem (q : Nat) (f : LaunchQueue → LaunchQueue) : (s.modLq q f).l2mem = s.l2mem := rfl
@[simp] theorem modLq_l2uses (q : Nat) (f : LaunchQueue → LaunchQueue) : (s.modLq q f).l2uses = s.l2uses := rfl
@[simp] theorem modLq_tags (q : Nat) (f : LaunchQueue → LaunchQueue) : (s.modLq q f).tags = s.tags := rfl
@[simp] theorem modLq_stamps (q : Nat) (f : LaunchQueue → LaunchQueue) : (s.modLq q f).stamps = s.stamps := rfl
@[simp] theorem modLq_twins (q : Nat) (f : LaunchQueue → LaunchQueue) : (s.modLq q f).twins = s.twins := rfl
@[simp] theorem modLq_lqs (q : Nat) (f : LaunchQueue → LaunchQueue) : (s.modLq q f).lqs = s.lqs.modify q f := rfl
@[simp] theorem modLq_lastQueue (q : Nat) (f : LaunchQueue → LaunchQueue) : (s.modLq q f).lastQueue = s.lastQueue := rfl
@[simp] theorem modLq_launches (q : Nat) (f : LaunchQueue → LaunchQueue) : (s.modLq q f).launches = s.launches := rfl
@[simp] theorem modLq_nextLaunch (q : Nat) (f : LaunchQueue → LaunchQueue) : (s.modLq q f).nextLaunch = s.nextLaunch := rfl
@[simp] theorem modLq_eligibleCount (q : Nat) (f : LaunchQueue → LaunchQueue) : (s.modLq q f).eligibleCount = s.eligibleCount := rfl
@[simp] theorem modLq_wgs (q : Nat) (f : LaunchQueue → LaunchQueue) : (s.modLq q f).wgs = s.wgs := rfl
@[simp] theorem modLq_dispatchCount (q : Nat) (f : LaunchQueue → LaunchQueue) : (s.modLq q f).dispatchCount = s.dispatchCount := rfl
@[simp] theorem modLq_cores (q : Nat) (f : LaunchQueue → LaunchQueue) : (s.modLq q f).cores = s.cores := rfl
@[simp] theorem modLq_lanterns (q : Nat) (f : LaunchQueue → LaunchQueue) : (s.modLq q f).lanterns = s.lanterns := rfl
@[simp] theorem modLq_dies (q : Nat) (f : LaunchQueue → LaunchQueue) : (s.modLq q f).dies = s.dies := rfl
@[simp] theorem modLq_slices (q : Nat) (f : LaunchQueue → LaunchQueue) : (s.modLq q f).slices = s.slices := rfl
@[simp] theorem modLq_channels (q : Nat) (f : LaunchQueue → LaunchQueue) : (s.modLq q f).channels = s.channels := rfl
@[simp] theorem modLq_bridge (q : Nat) (f : LaunchQueue → LaunchQueue) : (s.modLq q f).bridge = s.bridge := rfl
@[simp] theorem modLq_ctxs (q : Nat) (f : LaunchQueue → LaunchQueue) : (s.modLq q f).ctxs = s.ctxs := rfl
@[simp] theorem modLq_msgs (q : Nat) (f : LaunchQueue → LaunchQueue) : (s.modLq q f).msgs = s.msgs := rfl
@[simp] theorem modLq_lockSets (q : Nat) (f : LaunchQueue → LaunchQueue) : (s.modLq q f).lockSets = s.lockSets := rfl
@[simp] theorem modLq_islands (q : Nat) (f : LaunchQueue → LaunchQueue) : (s.modLq q f).islands = s.islands := rfl
@[simp] theorem modLq_qos (q : Nat) (f : LaunchQueue → LaunchQueue) : (s.modLq q f).qos = s.qos := rfl
@[simp] theorem modLq_hints (q : Nat) (f : LaunchQueue → LaunchQueue) : (s.modLq q f).hints = s.hints := rfl
@[simp] theorem modLq_mod (q : Nat) (f : LaunchQueue → LaunchQueue) : (s.modLq q f).mod = s.mod := rfl
@[simp] theorem modLq_engSeq (q : Nat) (f : LaunchQueue → LaunchQueue) : (s.modLq q f).engSeq = s.engSeq := rfl
@[simp] theorem modLq_agenda (q : Nat) (f : LaunchQueue → LaunchQueue) : (s.modLq q f).agenda = s.agenda := rfl
@[simp] theorem modLq_moves (q : Nat) (f : LaunchQueue → LaunchQueue) : (s.modLq q f).moves = s.moves := rfl
@[simp] theorem modLq_sweep (q : Nat) (f : LaunchQueue → LaunchQueue) : (s.modLq q f).sweep = s.sweep := rfl
@[simp] theorem modLq_cur (q : Nat) (f : LaunchQueue → LaunchQueue) : (s.modLq q f).cur = s.cur := rfl
@[simp] theorem modLq_free (q : Nat) (f : LaunchQueue → LaunchQueue) : (s.modLq q f).free = s.free := rfl

/-! ## modCtx -/

@[simp] theorem modCtx_mem (c : Nat) (f : Ctx → Ctx) : (s.modCtx c f).mem = s.mem := rfl
@[simp] theorem modCtx_l2 (c : Nat) (f : Ctx → Ctx) : (s.modCtx c f).l2 = s.l2 := rfl
@[simp] theorem modCtx_l2mem (c : Nat) (f : Ctx → Ctx) : (s.modCtx c f).l2mem = s.l2mem := rfl
@[simp] theorem modCtx_l2uses (c : Nat) (f : Ctx → Ctx) : (s.modCtx c f).l2uses = s.l2uses := rfl
@[simp] theorem modCtx_tags (c : Nat) (f : Ctx → Ctx) : (s.modCtx c f).tags = s.tags := rfl
@[simp] theorem modCtx_stamps (c : Nat) (f : Ctx → Ctx) : (s.modCtx c f).stamps = s.stamps := rfl
@[simp] theorem modCtx_twins (c : Nat) (f : Ctx → Ctx) : (s.modCtx c f).twins = s.twins := rfl
@[simp] theorem modCtx_lqs (c : Nat) (f : Ctx → Ctx) : (s.modCtx c f).lqs = s.lqs := rfl
@[simp] theorem modCtx_lastQueue (c : Nat) (f : Ctx → Ctx) : (s.modCtx c f).lastQueue = s.lastQueue := rfl
@[simp] theorem modCtx_launches (c : Nat) (f : Ctx → Ctx) : (s.modCtx c f).launches = s.launches := rfl
@[simp] theorem modCtx_nextLaunch (c : Nat) (f : Ctx → Ctx) : (s.modCtx c f).nextLaunch = s.nextLaunch := rfl
@[simp] theorem modCtx_eligibleCount (c : Nat) (f : Ctx → Ctx) : (s.modCtx c f).eligibleCount = s.eligibleCount := rfl
@[simp] theorem modCtx_wgs (c : Nat) (f : Ctx → Ctx) : (s.modCtx c f).wgs = s.wgs := rfl
@[simp] theorem modCtx_dispatchCount (c : Nat) (f : Ctx → Ctx) : (s.modCtx c f).dispatchCount = s.dispatchCount := rfl
@[simp] theorem modCtx_cores (c : Nat) (f : Ctx → Ctx) : (s.modCtx c f).cores = s.cores := rfl
@[simp] theorem modCtx_lanterns (c : Nat) (f : Ctx → Ctx) : (s.modCtx c f).lanterns = s.lanterns := rfl
@[simp] theorem modCtx_dies (c : Nat) (f : Ctx → Ctx) : (s.modCtx c f).dies = s.dies := rfl
@[simp] theorem modCtx_slices (c : Nat) (f : Ctx → Ctx) : (s.modCtx c f).slices = s.slices := rfl
@[simp] theorem modCtx_channels (c : Nat) (f : Ctx → Ctx) : (s.modCtx c f).channels = s.channels := rfl
@[simp] theorem modCtx_bridge (c : Nat) (f : Ctx → Ctx) : (s.modCtx c f).bridge = s.bridge := rfl
@[simp] theorem modCtx_ctxs (c : Nat) (f : Ctx → Ctx) : (s.modCtx c f).ctxs = smSet s.ctxs c (f (s.ctx c)) := rfl
@[simp] theorem modCtx_msgs (c : Nat) (f : Ctx → Ctx) : (s.modCtx c f).msgs = s.msgs := rfl
@[simp] theorem modCtx_lockSets (c : Nat) (f : Ctx → Ctx) : (s.modCtx c f).lockSets = s.lockSets := rfl
@[simp] theorem modCtx_islands (c : Nat) (f : Ctx → Ctx) : (s.modCtx c f).islands = s.islands := rfl
@[simp] theorem modCtx_qos (c : Nat) (f : Ctx → Ctx) : (s.modCtx c f).qos = s.qos := rfl
@[simp] theorem modCtx_hints (c : Nat) (f : Ctx → Ctx) : (s.modCtx c f).hints = s.hints := rfl
@[simp] theorem modCtx_mod (c : Nat) (f : Ctx → Ctx) : (s.modCtx c f).mod = s.mod := rfl
@[simp] theorem modCtx_engSeq (c : Nat) (f : Ctx → Ctx) : (s.modCtx c f).engSeq = s.engSeq := rfl
@[simp] theorem modCtx_agenda (c : Nat) (f : Ctx → Ctx) : (s.modCtx c f).agenda = s.agenda := rfl
@[simp] theorem modCtx_moves (c : Nat) (f : Ctx → Ctx) : (s.modCtx c f).moves = s.moves := rfl
@[simp] theorem modCtx_sweep (c : Nat) (f : Ctx → Ctx) : (s.modCtx c f).sweep = s.sweep := rfl
@[simp] theorem modCtx_cur (c : Nat) (f : Ctx → Ctx) : (s.modCtx c f).cur = s.cur := rfl
@[simp] theorem modCtx_free (c : Nat) (f : Ctx → Ctx) : (s.modCtx c f).free = s.free := rfl

/-! ## modIsland -/

@[simp] theorem modIsland_mem (i : Nat) (f : Island → Island) : (s.modIsland i f).mem = s.mem := rfl
@[simp] theorem modIsland_l2 (i : Nat) (f : Island → Island) : (s.modIsland i f).l2 = s.l2 := rfl
@[simp] theorem modIsland_l2mem (i : Nat) (f : Island → Island) : (s.modIsland i f).l2mem = s.l2mem := rfl
@[simp] theorem modIsland_l2uses (i : Nat) (f : Island → Island) : (s.modIsland i f).l2uses = s.l2uses := rfl
@[simp] theorem modIsland_tags (i : Nat) (f : Island → Island) : (s.modIsland i f).tags = s.tags := rfl
@[simp] theorem modIsland_stamps (i : Nat) (f : Island → Island) : (s.modIsland i f).stamps = s.stamps := rfl
@[simp] theorem modIsland_twins (i : Nat) (f : Island → Island) : (s.modIsland i f).twins = s.twins := rfl
@[simp] theorem modIsland_lqs (i : Nat) (f : Island → Island) : (s.modIsland i f).lqs = s.lqs := rfl
@[simp] theorem modIsland_lastQueue (i : Nat) (f : Island → Island) : (s.modIsland i f).lastQueue = s.lastQueue := rfl
@[simp] theorem modIsland_launches (i : Nat) (f : Island → Island) : (s.modIsland i f).launches = s.launches := rfl
@[simp] theorem modIsland_nextLaunch (i : Nat) (f : Island → Island) : (s.modIsland i f).nextLaunch = s.nextLaunch := rfl
@[simp] theorem modIsland_eligibleCount (i : Nat) (f : Island → Island) : (s.modIsland i f).eligibleCount = s.eligibleCount := rfl
@[simp] theorem modIsland_wgs (i : Nat) (f : Island → Island) : (s.modIsland i f).wgs = s.wgs := rfl
@[simp] theorem modIsland_dispatchCount (i : Nat) (f : Island → Island) : (s.modIsland i f).dispatchCount = s.dispatchCount := rfl
@[simp] theorem modIsland_cores (i : Nat) (f : Island → Island) : (s.modIsland i f).cores = s.cores := rfl
@[simp] theorem modIsland_lanterns (i : Nat) (f : Island → Island) : (s.modIsland i f).lanterns = s.lanterns := rfl
@[simp] theorem modIsland_dies (i : Nat) (f : Island → Island) : (s.modIsland i f).dies = s.dies := rfl
@[simp] theorem modIsland_slices (i : Nat) (f : Island → Island) : (s.modIsland i f).slices = s.slices := rfl
@[simp] theorem modIsland_channels (i : Nat) (f : Island → Island) : (s.modIsland i f).channels = s.channels := rfl
@[simp] theorem modIsland_bridge (i : Nat) (f : Island → Island) : (s.modIsland i f).bridge = s.bridge := rfl
@[simp] theorem modIsland_ctxs (i : Nat) (f : Island → Island) : (s.modIsland i f).ctxs = s.ctxs := rfl
@[simp] theorem modIsland_msgs (i : Nat) (f : Island → Island) : (s.modIsland i f).msgs = s.msgs := rfl
@[simp] theorem modIsland_lockSets (i : Nat) (f : Island → Island) : (s.modIsland i f).lockSets = s.lockSets := rfl
@[simp] theorem modIsland_islands (i : Nat) (f : Island → Island) : (s.modIsland i f).islands = s.islands.modify i f := rfl
@[simp] theorem modIsland_qos (i : Nat) (f : Island → Island) : (s.modIsland i f).qos = s.qos := rfl
@[simp] theorem modIsland_hints (i : Nat) (f : Island → Island) : (s.modIsland i f).hints = s.hints := rfl
@[simp] theorem modIsland_mod (i : Nat) (f : Island → Island) : (s.modIsland i f).mod = s.mod := rfl
@[simp] theorem modIsland_engSeq (i : Nat) (f : Island → Island) : (s.modIsland i f).engSeq = s.engSeq := rfl
@[simp] theorem modIsland_agenda (i : Nat) (f : Island → Island) : (s.modIsland i f).agenda = s.agenda := rfl
@[simp] theorem modIsland_moves (i : Nat) (f : Island → Island) : (s.modIsland i f).moves = s.moves := rfl
@[simp] theorem modIsland_sweep (i : Nat) (f : Island → Island) : (s.modIsland i f).sweep = s.sweep := rfl
@[simp] theorem modIsland_cur (i : Nat) (f : Island → Island) : (s.modIsland i f).cur = s.cur := rfl
@[simp] theorem modIsland_free (i : Nat) (f : Island → Island) : (s.modIsland i f).free = s.free := rfl

/-! ## Updates of one beam -/

@[simp] theorem modBeam_mem (a : Agent) (f : Beam → Beam) : (s.modBeam a f).mem = s.mem := by cases a <;> rfl
@[simp] theorem setBeam_mem (a : Agent) (b : Beam) : (s.setBeam a b).mem = s.mem := by cases a <;> rfl
@[simp] theorem modBeam_l2 (a : Agent) (f : Beam → Beam) : (s.modBeam a f).l2 = s.l2 := by cases a <;> rfl
@[simp] theorem setBeam_l2 (a : Agent) (b : Beam) : (s.setBeam a b).l2 = s.l2 := by cases a <;> rfl
@[simp] theorem modBeam_l2mem (a : Agent) (f : Beam → Beam) : (s.modBeam a f).l2mem = s.l2mem := by cases a <;> rfl
@[simp] theorem setBeam_l2mem (a : Agent) (b : Beam) : (s.setBeam a b).l2mem = s.l2mem := by cases a <;> rfl
@[simp] theorem modBeam_l2uses (a : Agent) (f : Beam → Beam) : (s.modBeam a f).l2uses = s.l2uses := by cases a <;> rfl
@[simp] theorem setBeam_l2uses (a : Agent) (b : Beam) : (s.setBeam a b).l2uses = s.l2uses := by cases a <;> rfl
@[simp] theorem modBeam_tags (a : Agent) (f : Beam → Beam) : (s.modBeam a f).tags = s.tags := by cases a <;> rfl
@[simp] theorem setBeam_tags (a : Agent) (b : Beam) : (s.setBeam a b).tags = s.tags := by cases a <;> rfl
@[simp] theorem modBeam_stamps (a : Agent) (f : Beam → Beam) : (s.modBeam a f).stamps = s.stamps := by cases a <;> rfl
@[simp] theorem setBeam_stamps (a : Agent) (b : Beam) : (s.setBeam a b).stamps = s.stamps := by cases a <;> rfl
@[simp] theorem modBeam_twins (a : Agent) (f : Beam → Beam) : (s.modBeam a f).twins = s.twins := by cases a <;> rfl
@[simp] theorem setBeam_twins (a : Agent) (b : Beam) : (s.setBeam a b).twins = s.twins := by cases a <;> rfl
@[simp] theorem modBeam_lqs (a : Agent) (f : Beam → Beam) : (s.modBeam a f).lqs = s.lqs := by cases a <;> rfl
@[simp] theorem setBeam_lqs (a : Agent) (b : Beam) : (s.setBeam a b).lqs = s.lqs := by cases a <;> rfl
@[simp] theorem modBeam_lastQueue (a : Agent) (f : Beam → Beam) : (s.modBeam a f).lastQueue = s.lastQueue := by cases a <;> rfl
@[simp] theorem setBeam_lastQueue (a : Agent) (b : Beam) : (s.setBeam a b).lastQueue = s.lastQueue := by cases a <;> rfl
@[simp] theorem modBeam_launches (a : Agent) (f : Beam → Beam) : (s.modBeam a f).launches = s.launches := by cases a <;> rfl
@[simp] theorem setBeam_launches (a : Agent) (b : Beam) : (s.setBeam a b).launches = s.launches := by cases a <;> rfl
@[simp] theorem modBeam_nextLaunch (a : Agent) (f : Beam → Beam) : (s.modBeam a f).nextLaunch = s.nextLaunch := by cases a <;> rfl
@[simp] theorem setBeam_nextLaunch (a : Agent) (b : Beam) : (s.setBeam a b).nextLaunch = s.nextLaunch := by cases a <;> rfl
@[simp] theorem modBeam_eligibleCount (a : Agent) (f : Beam → Beam) : (s.modBeam a f).eligibleCount = s.eligibleCount := by cases a <;> rfl
@[simp] theorem setBeam_eligibleCount (a : Agent) (b : Beam) : (s.setBeam a b).eligibleCount = s.eligibleCount := by cases a <;> rfl
@[simp] theorem modBeam_dispatchCount (a : Agent) (f : Beam → Beam) : (s.modBeam a f).dispatchCount = s.dispatchCount := by cases a <;> rfl
@[simp] theorem setBeam_dispatchCount (a : Agent) (b : Beam) : (s.setBeam a b).dispatchCount = s.dispatchCount := by cases a <;> rfl
@[simp] theorem modBeam_cores (a : Agent) (f : Beam → Beam) : (s.modBeam a f).cores = s.cores := by cases a <;> rfl
@[simp] theorem setBeam_cores (a : Agent) (b : Beam) : (s.setBeam a b).cores = s.cores := by cases a <;> rfl
@[simp] theorem modBeam_dies (a : Agent) (f : Beam → Beam) : (s.modBeam a f).dies = s.dies := by cases a <;> rfl
@[simp] theorem setBeam_dies (a : Agent) (b : Beam) : (s.setBeam a b).dies = s.dies := by cases a <;> rfl
@[simp] theorem modBeam_slices (a : Agent) (f : Beam → Beam) : (s.modBeam a f).slices = s.slices := by cases a <;> rfl
@[simp] theorem setBeam_slices (a : Agent) (b : Beam) : (s.setBeam a b).slices = s.slices := by cases a <;> rfl
@[simp] theorem modBeam_channels (a : Agent) (f : Beam → Beam) : (s.modBeam a f).channels = s.channels := by cases a <;> rfl
@[simp] theorem setBeam_channels (a : Agent) (b : Beam) : (s.setBeam a b).channels = s.channels := by cases a <;> rfl
@[simp] theorem modBeam_bridge (a : Agent) (f : Beam → Beam) : (s.modBeam a f).bridge = s.bridge := by cases a <;> rfl
@[simp] theorem setBeam_bridge (a : Agent) (b : Beam) : (s.setBeam a b).bridge = s.bridge := by cases a <;> rfl
@[simp] theorem modBeam_ctxs (a : Agent) (f : Beam → Beam) : (s.modBeam a f).ctxs = s.ctxs := by cases a <;> rfl
@[simp] theorem setBeam_ctxs (a : Agent) (b : Beam) : (s.setBeam a b).ctxs = s.ctxs := by cases a <;> rfl
@[simp] theorem modBeam_msgs (a : Agent) (f : Beam → Beam) : (s.modBeam a f).msgs = s.msgs := by cases a <;> rfl
@[simp] theorem setBeam_msgs (a : Agent) (b : Beam) : (s.setBeam a b).msgs = s.msgs := by cases a <;> rfl
@[simp] theorem modBeam_lockSets (a : Agent) (f : Beam → Beam) : (s.modBeam a f).lockSets = s.lockSets := by cases a <;> rfl
@[simp] theorem setBeam_lockSets (a : Agent) (b : Beam) : (s.setBeam a b).lockSets = s.lockSets := by cases a <;> rfl
@[simp] theorem modBeam_islands (a : Agent) (f : Beam → Beam) : (s.modBeam a f).islands = s.islands := by cases a <;> rfl
@[simp] theorem setBeam_islands (a : Agent) (b : Beam) : (s.setBeam a b).islands = s.islands := by cases a <;> rfl
@[simp] theorem modBeam_qos (a : Agent) (f : Beam → Beam) : (s.modBeam a f).qos = s.qos := by cases a <;> rfl
@[simp] theorem setBeam_qos (a : Agent) (b : Beam) : (s.setBeam a b).qos = s.qos := by cases a <;> rfl
@[simp] theorem modBeam_hints (a : Agent) (f : Beam → Beam) : (s.modBeam a f).hints = s.hints := by cases a <;> rfl
@[simp] theorem setBeam_hints (a : Agent) (b : Beam) : (s.setBeam a b).hints = s.hints := by cases a <;> rfl
@[simp] theorem modBeam_mod (a : Agent) (f : Beam → Beam) : (s.modBeam a f).mod = s.mod := by cases a <;> rfl
@[simp] theorem setBeam_mod (a : Agent) (b : Beam) : (s.setBeam a b).mod = s.mod := by cases a <;> rfl
@[simp] theorem modBeam_engSeq (a : Agent) (f : Beam → Beam) : (s.modBeam a f).engSeq = s.engSeq := by cases a <;> rfl
@[simp] theorem setBeam_engSeq (a : Agent) (b : Beam) : (s.setBeam a b).engSeq = s.engSeq := by cases a <;> rfl
@[simp] theorem modBeam_agenda (a : Agent) (f : Beam → Beam) : (s.modBeam a f).agenda = s.agenda := by cases a <;> rfl
@[simp] theorem setBeam_agenda (a : Agent) (b : Beam) : (s.setBeam a b).agenda = s.agenda := by cases a <;> rfl
@[simp] theorem modBeam_moves (a : Agent) (f : Beam → Beam) : (s.modBeam a f).moves = s.moves := by cases a <;> rfl
@[simp] theorem setBeam_moves (a : Agent) (b : Beam) : (s.setBeam a b).moves = s.moves := by cases a <;> rfl
@[simp] theorem modBeam_sweep (a : Agent) (f : Beam → Beam) : (s.modBeam a f).sweep = s.sweep := by cases a <;> rfl
@[simp] theorem setBeam_sweep (a : Agent) (b : Beam) : (s.setBeam a b).sweep = s.sweep := by cases a <;> rfl
@[simp] theorem modBeam_cur (a : Agent) (f : Beam → Beam) : (s.modBeam a f).cur = s.cur := by cases a <;> rfl
@[simp] theorem setBeam_cur (a : Agent) (b : Beam) : (s.setBeam a b).cur = s.cur := by cases a <;> rfl
@[simp] theorem modBeam_free (a : Agent) (f : Beam → Beam) : (s.modBeam a f).free = s.free := by cases a <;> rfl
@[simp] theorem setBeam_free (a : Agent) (b : Beam) : (s.setBeam a b).free = s.free := by cases a <;> rfl

theorem modBeam_modBeam (a : Agent) (f g : Beam → Beam) : (s.modBeam a f).modBeam a g = s.modBeam a fun b => g (f b) := by
  cases a with
  | beam w n => simp [State.modBeam, State.modWg]
  | lantern n =>
    simp only [State.modBeam, State.modLantern, List.modify_modify_eq]
    congr 2; funext l; simp [Function.comp]; cases l.running <;> rfl

theorem beam?_modBeam (a : Agent) (f : Beam → Beam) : (s.modBeam a f).beam? a = (s.beam? a).map f := by
  cases a with
  | beam w n =>
    simp only [State.modBeam, State.beam?, State.wg?, modWg_wgs, smGet?_modify_self]
    cases smGet? s.wgs w <;> simp
  | lantern n =>
    simp only [State.modBeam, State.beam?, State.section?, State.lantern, modLantern_lanterns]
    by_cases h : n < s.lanterns.length
    · simp only [List.getD_eq_getElem?_getD, List.getElem?_modify_eq, List.getElem?_eq_getElem h]
      simp; cases (s.lanterns[n]).running <;> rfl
    · simp only [List.getD_eq_getElem?_getD, List.getElem?_modify_eq, List.getElem?_eq_none (Nat.le_of_not_lt h)]; rfl

theorem beam?_setBeam (a : Agent) (b : Beam) : (s.setBeam a b).beam? a = (s.beam? a).map fun _ => b := beam?_modBeam s a _

theorem setBeam_setBeam (a : Agent) (b c : Beam) : (s.setBeam a b).setBeam a c = s.setBeam a c := modBeam_modBeam s a _ _

theorem modBeam_eq_setBeam {s : State} {a : Agent} {b : Beam} (h : s.beam? a = some b) (f : Beam → Beam) :
    s.modBeam a f = s.setBeam a (f b) := by
  cases a with
  | beam w n =>
    simp only [State.setBeam, State.modBeam, State.modWg]
    congr 1
    refine smModify_congr _ _ fun g hg => ?_
    congr 1
    refine smModify_congr _ _ fun b' hb => ?_
    have : b' = b := by simpa [State.beam?, State.wg?, hg, hb] using h
    rw [this]
  | lantern n =>
    simp only [State.setBeam, State.modBeam, State.modLantern]
    congr 1
    apply List.ext_getElem?
    intro i
    simp only [List.getElem?_modify]
    by_cases hi : n = i
    · subst hi
      simp only [if_pos]
      by_cases hl : n < s.lanterns.length
      · simp only [List.getElem?_eq_getElem hl]
        have : ((s.lanterns[n]).running).map (·.beam) = some b := by
          simpa [State.beam?, State.section?, State.lantern, List.getD_eq_getElem?_getD, hl] using h
        simp only [Option.map_eq_some_iff] at this
        obtain ⟨r, hr, rfl⟩ := this
        simp [hr]
      · simp [hl]
    · simp [hi]

theorem modBeam_setBeam (a : Agent) (b : Beam) (f : Beam → Beam) : (s.setBeam a b).modBeam a f = s.setBeam a (f b) :=
  modBeam_modBeam s a _ _

end Sys2Proof.Machine
end

