-- ==== Sys2Proof/Laws/Retire.lean ====
section
/-!
SUPPORT. Sys2Proof/Laws/Retire.lean: what an instruction that goes on has done to the state, and that counting errors commutes with
changing a beam.
-/

namespace Sys2Proof.Machine

/-! ## Counting errors -/

@[simp] theorem charge_zero (s : State) (p : Payer) : s.charge p 0 0 0 = s := by simp [State.charge]

theorem flag_modBeam (s : State) (a : Agent) (f : Beam → Beam) (part result : Nat) :
    (s.modBeam a f).flag part result = (s.flag part result).modBeam a f := by cases a <;> rfl

theorem setErrs_modBeam (s : State) (a : Agent) (f : Beam → Beam) (p : Payer) (e : Errs) :
    (s.modBeam a f).setErrs p e = (s.setErrs p e).modBeam a f := by cases a <;> cases p <;> rfl

theorem errs_modBeam (s : State) (a : Agent) (f : Beam → Beam) (p : Payer) : (s.modBeam a f).errs p = s.errs p := by
  cases a <;> cases p <;> rfl

theorem charge_modBeam (s : State) (a : Agent) (f : Beam → Beam) (p : Payer) (x y z : Nat) :
    (s.modBeam a f).charge p x y z = (s.charge p x y z).modBeam a f := by
  unfold State.charge
  simp only [errs_modBeam, modBeam_mod, setErrs_modBeam, flag_modBeam]
  split
  · rfl
  · split <;> rfl

theorem charge_setBeam (s : State) (a : Agent) (b : Beam) (p : Payer) (x y z : Nat) :
    (s.setBeam a b).charge p x y z = (s.charge p x y z).setBeam a b := charge_modBeam s a _ p x y z

theorem beam?_charge (s : State) (a : Agent) (p : Payer) (x y z : Nat) : (s.charge p x y z).beam? a = s.beam? a := by
  unfold State.charge
  split
  · rfl
  · cases a <;> cases p <;> simp only [] <;> split <;> rfl

/-! ## Memory that stays -/

/-- What words read from: memory, the slices, the module's number, and what the caches hold and have sent. -/
structure State.SameStores (s t : State) : Prop where
  mem : t.mem = s.mem
  l2 : t.l2 = s.l2
  l2mem : t.l2mem = s.l2mem
  twins : t.twins = s.twins
  number : t.mod.number = s.mod.number
  lines : ∀ c, (t.core c).lines = (s.core c).lines
  flights : ∀ c, (t.core c).flights = (s.core c).flights

theorem State.SameStores.trans {s t u : State} (h : s.SameStores t) (h' : t.SameStores u) : s.SameStores u :=
  ⟨h'.mem.trans h.mem, h'.l2.trans h.l2, h'.l2mem.trans h.l2mem, h'.twins.trans h.twins, h'.number.trans h.number,
    fun c => (h'.lines c).trans (h.lines c), fun c => (h'.flights c).trans (h.flights c)⟩

theorem State.SameStores.homeWord {s t : State} (h : s.SameStores t) (x : Nat) : t.homeWord x = s.homeWord x := by
  have hr : ∀ y, t.resolve y = s.resolve y := fun y => by simp only [State.resolve, h.number]
  have hc : ∀ y, t.cellWord y = s.cellWord y := fun y => by
    unfold State.cellWord State.sliceDirty; rw [h.mem, h.l2, h.l2mem]
  have ht : t.twin? x = s.twin? x := by simp only [State.twin?, hr, h.twins]
  unfold State.homeWord
  rw [hr, hc, ht]

theorem State.SameStores.memory {s t : State} (h : s.SameStores t) : s.SameMemory t := fun x _ =>
  ⟨h.homeWord x, fun c => by simp only [State.coreWord, State.sentWord, h.lines, h.flights, h.homeWord]⟩

theorem sameStores_modBeam (s : State) (a : Agent) (f : Beam → Beam) : s.SameStores (s.modBeam a f) := by
  cases a <;> exact ⟨rfl, rfl, rfl, rfl, rfl, fun _ => rfl, fun _ => rfl⟩

theorem core_modCore_lines (s : State) (c d : Nat) (f : Core → Core) (h : ∀ k, (f k).lines = k.lines) :
    ((s.modCore c f).core d).lines = (s.core d).lines := by
  simp only [State.core, State.modCore, List.getD_eq_getElem?_getD, List.getElem?_modify]
  split
  · cases s.cores[d]? <;> simp [h]
  · cases s.cores[d]? <;> rfl

theorem core_modCore_flights (s : State) (c d : Nat) (f : Core → Core) (h : ∀ k, (f k).flights = k.flights) :
    ((s.modCore c f).core d).flights = (s.core d).flights := by
  simp only [State.core, State.modCore, List.getD_eq_getElem?_getD, List.getElem?_modify]
  split
  · cases s.cores[d]? <;> simp [h]
  · cases s.cores[d]? <;> rfl

theorem sameStores_setErrs (s : State) (p : Payer) (e : Errs) : s.SameStores (s.setErrs p e) := by
  cases p with
  | core c => exact ⟨rfl, rfl, rfl, rfl, rfl, fun d => core_modCore_lines s c d _ fun _ => rfl,
      fun d => core_modCore_flights s c d _ fun _ => rfl⟩
  | _ => exact ⟨rfl, rfl, rfl, rfl, rfl, fun _ => rfl, fun _ => rfl⟩

theorem sameStores_charge (s : State) (p : Payer) (x y z : Nat) : s.SameStores (s.charge p x y z) := by
  unfold State.charge
  split
  · exact ⟨rfl, rfl, rfl, rfl, rfl, fun _ => rfl, fun _ => rfl⟩
  · simp only []
    split
    · refine (sameStores_setErrs s p _).trans ⟨rfl, rfl, rfl, rfl, ?_, fun _ => rfl, fun _ => rfl⟩
      simp only [State.flag, State.modMod, Module.flag]
      split
      · rfl
      · simp only [Module.addReport]; split <;> rfl
    · exact sameStores_setErrs s p _

theorem State.Counted.stores {s u : State} {c : Nat} (h : State.Counted c s u) : s.SameStores u := by
  induction h with
  | same => exact ⟨rfl, rfl, rfl, rfl, rfl, fun _ => rfl, fun _ => rfl⟩
  | more n k _ ih => exact ih.trans (sameStores_charge ..)

theorem State.Counted.beam? {s u : State} {c : Nat} (h : State.Counted c s u) (a : Agent) : u.beam? a = s.beam? a := by
  induction h with
  | same => rfl
  | more n k _ ih => rw [beam?_charge, ih]

/-! ## Going on -/

theorem modFrontier_eq {s : State} {a : Agent} {b : Beam} (h : s.beam? a = some b) (f : Beam → Beam) :
    ∃ s' was was', s.modFrontier a f = s.setBeam a { f b with
      frontier := State.settlePri s' (s'.place a) was (f b).frontier
      kept := (f b).kept.map (State.settlePri s' (s'.place a) was') } := by
  refine ⟨s.setBeam a (f b), (b.wasAt (f b)).1, (b.wasAt (f b)).2, ?_⟩
  simp only [State.modFrontier, h, modBeam_eq_setBeam h, modBeam_setBeam, Option.getD_some]

/-- A wait that is over changes an entry's `hold` alone. -/
theorem freed_eq (b : Beam) (e : Entry) (x : Nat) : ∃ y, b.freed { e with hold := x } = { e with hold := y } := by
  unfold Beam.freed
  split
  · exact ⟨0, rfl⟩
  · exact ⟨x, rfl⟩

/-- An instruction without faults or parked lanes goes on: only its beam's frontiers change. -/
theorem retire_none {s0 s : State} {f : Frame} {b : Beam} (h : s.beam? f.a = some b) :
    ∃ fr kept, State.retire s0 s f .none = s.setBeam f.a { b with frontier := fr, kept := kept } ∧
      Advanced b.frontier fr f.i.lanes f.i.next ∧ kept.isSome = b.kept.isSome ∧
      SameStands (b.kept.getD []) (kept.getD []) := by
  have key : ∀ (s' : State) (pl : Place) (was was' : List Entry) (hold : Nat) (b' : Beam),
      b' = b.move f.i.lanes [{ Entry.run f.i.next f.i.pri f.i.lanes 0 with hold := hold }] →
      ∃ fr kept, s.setBeam f.a { b' with frontier := s'.settlePri pl was b'.frontier, kept := b'.kept.map (s'.settlePri pl was') } =
          s.setBeam f.a { b with frontier := fr, kept := kept } ∧
        Advanced b.frontier fr f.i.lanes f.i.next ∧ kept.isSome = b.kept.isSome ∧
        SameStands (b.kept.getD []) (kept.getD []) := by
    rintro s' pl was was' hold b' rfl
    refine ⟨_, _, rfl, advanced_move s' pl was b f.i.lanes f.i.next f.i.pri hold, ?_, ?_⟩
    · simp [Beam.move]
    · simp only [Beam.move]
      cases b.kept with
      | none => exact .refl _
      | some k => exact Stands_settlePri s' pl was' k
  cases ha : f.a with
  | lantern n =>
    rw [ha] at h key
    simp only [State.retire, ha, Outcomes.none, decide_, List.map_nil, groupParks, Option.getD_none]
    obtain ⟨s', was, was', hs⟩ := modFrontier_eq h fun b => b.move f.i.lanes [.run f.i.next f.i.pri f.i.lanes 0]
    rw [hs]
    exact key s' _ was was' 0 _ rfl
  | beam w n =>
    rw [ha] at h key
    obtain ⟨y, hy⟩ := freed_eq b (Entry.run f.i.next f.i.pri f.i.lanes 0) (if f.sw = true then f.i.lanes else 0)
    simp only [State.retire, ha, Outcomes.none, decide_, List.map_nil, groupParks, Option.getD_none, h, Option.bind_some,
      Beam.park, maskOf, Nat.or_self, maskSub_zero, List.foldl_nil, List.map_cons, hy]
    have hb : (s.setBeam (.beam w n) b).beam? (.beam w n) = some b := by simp [beam?_setBeam, h]
    obtain ⟨s', was, was', hs⟩ := modFrontier_eq hb fun b => b.move f.i.lanes [{ Entry.run f.i.next f.i.pri f.i.lanes 0 with
      hold := y }]
    rw [hs, setBeam_setBeam]
    exact key s' _ was was' _ _ rfl

/-- Writing results changes the beam as `Frame.wrote` says, but for its latch. -/
theorem results_eq {s : State} {f : Frame} {latch : List (Nat × Nat × Nat)}
    (h : s.beam? f.a = some { f.b with latch := latch }) (late : Bool) (ws : List RegWrite) :
    ∃ latch', s.results f late ws = s.setBeam f.a { f.wrote late ws with latch := latch' } := by
  have hw : ∀ (ws : List RegWrite) (b : Beam) (x : List (Nat × Nat × Nat)),
      Beam.writes { b with latch := x } ws = { b.writes ws with latch := x } := by
    intro ws
    induction ws with
    | nil => intros; rfl
    | cons w ws ih =>
      intro b x
      have : Beam.write { b with latch := x } w = { b.write w with latch := x } := by
        cases w with
        | k n r => by_cases hn : n = 0 <;> simp [Beam.write, hn]
        | _ => rfl
      simp only [Beam.writes, List.foldl_cons] at ih ⊢
      rw [this, ih]
  unfold State.results Frame.wrote
  split
  · exact ⟨latch, by rw [modBeam_eq_setBeam h]⟩
  · exact ⟨_, by rw [modBeam_eq_setBeam h, hw]; rfl⟩

theorem wrote_frontier (f : Frame) (late : Bool) (ws : List RegWrite) :
    (f.wrote late ws).frontier = f.b.frontier ∧ (f.wrote late ws).kept = f.b.kept := by
  have hw : ∀ (ws : List RegWrite) (b : Beam), (b.writes ws).frontier = b.frontier ∧ (b.writes ws).kept = b.kept := by
    intro ws
    induction ws with
    | nil => intros; exact ⟨rfl, rfl⟩
    | cons w ws ih =>
      intro b
      have : (b.write w).frontier = b.frontier ∧ (b.write w).kept = b.kept := by
        cases w with
        | k n r => by_cases hn : n = 0 <;> simp [Beam.write, hn]
        | _ => exact ⟨rfl, rfl⟩
      simpa [Beam.writes, this] using ih (b.write w)
  unfold Frame.wrote
  split
  · exact ⟨rfl, rfl⟩
  · exact hw ws f.b

/-- `x` is `s` but for counted corrections and the latch of the beam that issues. -/
structure Frame.Begun (f : Frame) (s x : State) : Prop where
  counted : ∃ u, State.Counted f.pl.core s u ∧ ∀ b, x.setBeam f.a b = u.setBeam f.a b
  beam : ∃ latch, x.beam? f.a = some { f.b with latch := latch }

/-- Results are written and the instruction goes on. -/
theorem goesOn_results {s x s0 : State} {f : Frame} (h : f.Begun s x) (late : Bool) (ws : List RegWrite) :
    f.GoesOn s (State.retire s0 (x.results f late ws) f .none) (f.wrote late ws) := by
  obtain ⟨⟨u, hc, hx⟩, latch, hb'⟩ := h
  obtain ⟨l', hr⟩ := results_eq hb' late ws
  rw [hr]
  have hb2 : (x.setBeam f.a { f.wrote late ws with latch := l' }).beam? f.a = some { f.wrote late ws with latch := l' } := by
    rw [beam?_setBeam, hb']; rfl
  obtain ⟨fr, kept, hs, h1, h2, h3⟩ := retire_none (s0 := s0) hb2
  refine ⟨u, fr, kept, l', hc, ?_, h1, h2, h3, ?_⟩
  · rw [hs, setBeam_setBeam, hx]
  · rw [hs, setBeam_setBeam, hx]
    exact (hc.stores.trans (sameStores_modBeam ..)).memory

/-- The instruction goes on with its beam as it was. -/
theorem goesOn_none {s x s0 : State} {f : Frame} (h : f.Begun s x) : f.GoesOn s (State.retire s0 x f .none) f.b := by
  obtain ⟨⟨u, hc, hx⟩, latch, hb'⟩ := h
  obtain ⟨fr, kept, hs, h1, h2, h3⟩ := retire_none (s0 := s0) hb'
  refine ⟨u, fr, kept, latch, hc, ?_, h1, h2, h3, ?_⟩
  · rw [hs, hx]
  · rw [hs, hx]
    exact (hc.stores.trans (sameStores_modBeam ..)).memory

end Sys2Proof.Machine
end

