-- ==== Sys2Proof/Laws/Operands.lean ====
section
/-!
SUPPORT. Sys2Proof/Laws/Operands.lean: what the shared operand forms do on an instruction that completes.
-/

namespace Sys2Proof.Machine

/-! ## Reading -/

theorem checkedData_some {ws : List CW} {ds : List Word} (h : checkedData ws = some ds) :
    ∀ w ∈ ws, (lccCheck w).data?.isSome = true := by
  induction ws generalizing ds with
  | nil => simp
  | cons w ws ih =>
    unfold checkedData at h
    split at h
    · rename_i d ds' h1 h2
      simp only [List.mem_cons, forall_eq_or_imp]
      exact ⟨by simp [h1], ih h2⟩
    · cases h

theorem dataOf_some {ws : List CW} {v : Nat} (h : dataOf ws = some v) : ∀ w ∈ ws, (lccCheck w).data?.isSome = true := by
  unfold dataOf at h
  cases hc : checkedData ws with
  | none => simp [hc] at h
  | some ds => exact checkedData_some hc

/-- An operand whose value is read stands in words that all check. -/
theorem value_some {f : Frame} {l v : Nat} {o : Opnd} (h : f.value l o = some v) :
    ∀ x ∈ f.words l o, (lccCheck x.2).data?.isSome = true := by
  have pairs : ∀ (ws : List CW) (v : Nat) (k : Nat → RegName × Nat), dataOf ws = some v →
      ∀ x ∈ ws.mapIdx (fun i w => (k i, w)), (lccCheck x.2).data?.isSome = true := by
    intro ws v k hd x hx
    obtain ⟨i, hi, rfl⟩ := List.mem_mapIdx.mp hx
    exact dataOf_some hd _ (List.getElem_mem hi)
  cases o with
  | v n cnt =>
    simp only [Frame.value] at h
    intro x hx
    exact dataOf_some h _ (List.mem_map.mpr ⟨x, hx, rfl⟩)
  | m n =>
    simp only [Frame.value] at h
    intro x hx
    exact dataOf_some h _ (List.mem_map.mpr ⟨x, hx, rfl⟩)
  | s n =>
    unfold Frame.value at h
    unfold Frame.words
    dsimp only at h ⊢
    by_cases h1 : n < 64
    · simp only [h1, if_true, Option.map_eq_some_iff] at h ⊢
      obtain ⟨a, ha, -⟩ := h
      exact pairs _ a (fun i => (.s n, i)) ha
    · by_cases h2 : n = 64
      · simp [h2, isK]
      · by_cases h3 : isK n = true
        · simp only [h1, h2, h3, if_true, if_false] at h ⊢
          exact pairs _ v (fun i => (.k (n - 64), i)) h
        · by_cases h4 : isX n = true
          · simp only [h1, h2, h3, h4, if_true, if_false] at h ⊢
            have h : (dataOf [(f.b.xreg l (n - 72)).word]).map (fun v => wrap 72 (signedBits 32 v)) = some v := h
            rw [Option.map_eq_some_iff] at h
            obtain ⟨a, ha, -⟩ := h
            intro x hx
            have hx : x = ((.x (n - 72), 0), (f.b.xreg l (n - 72)).word) := by simpa using hx
            subst hx
            exact dataOf_some ha _ (by simp)
          · simp [h1, h3, h4]

theorem mem_dedupWords {ws : List ((RegName × Nat) × CW)} {seen : List (RegName × Nat)} {w : CW}
    (h : w ∈ dedupWords seen ws) : ∃ x ∈ ws, x.2 = w := by
  induction ws generalizing seen with
  | nil => simp [dedupWords] at h
  | cons x xs ih =>
    obtain ⟨k, y⟩ := x
    unfold dedupWords at h
    split at h
    · obtain ⟨z, hz, e⟩ := ih h; exact ⟨z, by simp [hz], e⟩
    · rcases List.mem_cons.mp h with rfl | h
      · exact ⟨(k, w), by simp, rfl⟩
      · obtain ⟨z, hz, e⟩ := ih h; exact ⟨z, by simp [hz], e⟩

/-- Reading operands whose values are all readable answers those values, and counts nothing uncorrectable. -/
theorem get_ok {f : Frame} {l : Nat} {os : List Opnd} {vs : List Nat}
    (h : os.map (f.value l) = vs.map some) : (f.get l os).vals = .ok vs ∧ (f.get l os).unc = 0 := by
  have hv : ∀ o ∈ os, ∃ v, f.value l o = some v := by
    intro o ho
    have : f.value l o ∈ vs.map some := h ▸ List.mem_map.mpr ⟨o, ho, rfl⟩
    obtain ⟨v, -, hv⟩ := List.mem_map.mp this
    exact ⟨v, hv.symm⟩
  have good : ∀ w ∈ dedupWords [] (os.flatMap (f.words l)), (lccCheck w).data?.isSome = true := by
    intro w hw
    obtain ⟨x, hx, rfl⟩ := mem_dedupWords hw
    obtain ⟨o, ho, hx⟩ := List.mem_flatMap.mp hx
    obtain ⟨v, hv⟩ := hv o ho
    exact value_some hv x hx
  have hmap : os.map (fun o => (f.value l o).getD 0) = vs := by
    have := congrArg (List.map fun x : Option Nat => x.getD 0) h
    simpa [List.map_map, Function.comp_def] using this
  constructor
  · have : firstBad (dedupWords [] (os.flatMap (f.words l))) = none := by
      rw [firstBad, List.find?_eq_none]
      intro w hw; simp [Option.isSome_iff_ne_none.mp (good w hw)]
    simp only [Frame.get, this, hmap]
  · simp only [Frame.get, tally]
    rw [List.countP_eq_zero]
    intro w hw; simp [Option.isSome_iff_ne_none.mp (good w hw)]

/-! ## The checks before -/

theorem hazardLanes_ok {s : State} {f : Frame} {m : Mods} (hr : f.Ready s m) (names : List RegName) (more : Nat → List RegName) :
    f.hazardLanes names more = [] := by
  unfold Frame.hazardLanes
  rcases hr.calm with h | h | h <;> simp [h, Beam.hazard]

/-- Operands within the allocation, with no result outstanding that R82 would report: the instruction takes its effect. -/
theorem guarded_ok {s : State} {f : Frame} {m : Mods} (hr : f.Ready s m) {rs ws : List Opnd} (hb : ∀ o ∈ rs ++ ws, f.inBounds o = true)
    (k : State → State) : s.guarded f rs ws k = k (s.latch f rs) := by
  have h1 : (rs ++ ws).all f.inBounds = true := List.all_eq_true.mpr hb
  simp only [State.guarded, State.bounded, State.unhazarded, h1, if_true, hazardLanes_ok hr, List.isEmpty_nil]

/-- The latch changes the beam that issues alone. -/
theorem begun_latch {s : State} {f : Frame} {m : Mods} (hr : f.Ready s m) (os : List Opnd) : f.Begun s (s.latch f os) := by
  unfold State.latch
  split
  · exact ⟨⟨s, .same, fun _ => rfl⟩, f.b.latch, hr.here⟩
  · refine ⟨⟨s, .same, fun b => modBeam_modBeam s f.a _ _⟩, ?_⟩
    rw [beam?_modBeam, hr.here]
    exact ⟨_, rfl⟩

theorem begun_charge {s x : State} {f : Frame} (h : f.Begun s x) (n k : Nat) :
    f.Begun s (x.charge (.core f.pl.core) n 0 k) := by
  obtain ⟨⟨u, hc, hx⟩, hb⟩ := h
  refine ⟨⟨_, .more n k hc, fun b => ?_⟩, ?_⟩
  · rw [← charge_setBeam, ← charge_setBeam, hx]
  · simpa [beam?_charge] using hb

/-! ## Instructions made of lanes -/

theorem eachLane_ok {f : Frame} {os : List Opnd} {g : Nat → List Nat → LaneDone} {vs : Nat → List Nat}
    {ws : Nat → List RegWrite} (ls : List Nat) (hv : ∀ l ∈ ls, os.map (f.value l) = (vs l).map some)
    (hg : ∀ l ∈ ls, (g l (vs l)).out = .ok (ws l)) :
    (f.eachLane os g ls).writes = ls.flatMap ws ∧ (f.eachLane os g ls).faults = [] ∧ (f.eachLane os g ls).unc = 0 := by
  induction ls with
  | nil => exact ⟨rfl, rfl, rfl⟩
  | cons l ls ih =>
    obtain ⟨h1, h2, h3⟩ := ih (fun x hx => hv x (by simp [hx])) fun x hx => hg x (by simp [hx])
    obtain ⟨g1, g2⟩ := get_ok (hv l (by simp))
    simp only [Frame.eachLane, g1, hg l (by simp), h1, h2, h3, g2, List.flatMap_cons, and_self]

/-- An instruction made of lanes, on readable sources, writes what its lanes answer and goes on. -/
theorem laneOp_goesOn {s : State} {f : Frame} {m : Mods} (hr : f.Ready s m) {bsrc lsrc : List Opnd} {dst : Opnd} {late : Bool}
    {g : Nat → List Nat → List Nat → LaneDone} {bs : List Nat} {vs : Nat → List Nat} {ws : Nat → List RegWrite}
    (hi : ∀ o ∈ bsrc ++ lsrc ++ [dst], f.inBounds o = true)
    (hbs : bsrc.map (f.value f.elected) = bs.map some)
    (hv : ∀ l ∈ f.lanes, lsrc.map (f.value l) = (vs l).map some)
    (hg : ∀ l ∈ f.lanes, (g l bs (vs l)).out = .ok (ws l)) :
    f.GoesOn s (s.laneOp f bsrc lsrc dst late g) (f.wrote late (f.lanes.flatMap ws ++ f.zeroes dst)) := by
  unfold State.laneOp
  rw [guarded_ok hr hi]
  obtain ⟨g1, g2⟩ := get_ok hbs
  obtain ⟨e1, e2, e3⟩ := eachLane_ok (g := fun l vs => g l bs vs) f.lanes hv hg
  simp only [g1, g2, e1, e2, e3]
  exact goesOn_results (begun_charge (begun_charge (begun_latch hr _) _ _) _ _) late _

/-- An instruction that computes once for the issue, on readable sources. -/
theorem onceOp_goesOn {s : State} {f : Frame} {m : Mods} (hr : f.Ready s m) {src : List Opnd} {dst : Opnd} {late : Bool}
    {g : List Nat → Nat} {vs : List Nat} (hi : ∀ o ∈ src ++ [dst], f.inBounds o = true)
    (hv : src.map (f.value f.elected) = vs.map some) :
    f.GoesOn s (s.onceOp f src dst late g) (f.wrote late (f.put f.elected dst (g vs))) := by
  unfold State.onceOp
  rw [guarded_ok hr hi]
  obtain ⟨g1, g2⟩ := get_ok hv
  simp only [g1, g2]
  exact goesOn_results (begun_charge (begun_latch hr src) _ _) late _

theorem eachState_ok {f : Frame} {os : List Opnd} {g : State → Nat → List Nat → LaneOut × State} {vs : Nat → List Nat}
    {ws : Nat → List RegWrite} {s0 : State} (ls : List Nat) (hv : ∀ l ∈ ls, os.map (f.value l) = (vs l).map some)
    (hg : ∀ l ∈ ls, ∀ s, ∃ n k, g s l (vs l) = (.done (ws l), s.charge (.core f.pl.core) n 0 k)) (r : StateDone)
    (hr : f.Begun s0 r.s) :
    (f.eachState os g ls r).writes = r.writes ++ ls.flatMap ws ∧ (f.eachState os g ls r).faults = r.faults ∧
      (f.eachState os g ls r).parks = r.parks ∧ f.Begun s0 (f.eachState os g ls r).s := by
  induction ls generalizing r with
  | nil => exact ⟨by simp [Frame.eachState], rfl, rfl, hr⟩
  | cons l ls ih =>
    obtain ⟨g1, g2⟩ := get_ok (hv l (by simp))
    obtain ⟨n, k, hgl⟩ := hg l (by simp) (r.s.charge (.core f.pl.core) (f.get l os).corr 0 0)
    obtain ⟨h1, h2, h3, h4⟩ := ih (fun x hx => hv x (by simp [hx])) (fun x hx => hg x (by simp [hx]))
      { r with s := (r.s.charge (.core f.pl.core) (f.get l os).corr 0 0).charge (.core f.pl.core) n 0 k, writes := r.writes ++ ws l }
      (begun_charge (begun_charge hr _ _) _ _)
    simp only [Frame.eachState, g1, g2, hgl]
    refine ⟨by simpa using h1, h2, h3, h4⟩

/-- An instruction whose lanes act on the state, where each only counts and answers its writes. -/
theorem stateOp_goesOn {s : State} {f : Frame} {m : Mods} (hr : f.Ready s m) {bsrc lsrc extra : List Opnd} {dst : Option Opnd}
    {late : Bool} {g : State → Nat → List Nat → List Nat → LaneOut × State} {bs : List Nat} {vs : Nat → List Nat}
    {ws : Nat → List RegWrite} (hi : ∀ o ∈ bsrc ++ lsrc ++ extra ++ dst.toList, f.inBounds o = true)
    (hbs : bsrc.map (f.value f.elected) = bs.map some)
    (hv : ∀ l ∈ f.lanes, lsrc.map (f.value l) = (vs l).map some)
    (hg : ∀ l ∈ f.lanes, ∀ s, ∃ n k, g s l bs (vs l) = (.done (ws l), s.charge (.core f.pl.core) n 0 k)) :
    f.GoesOn s (s.stateOp f bsrc lsrc extra dst late g)
      (f.wrote late (f.lanes.flatMap ws ++ dst.elim [] f.zeroes)) := by
  unfold State.stateOp
  rw [guarded_ok hr hi]
  obtain ⟨g1, g2⟩ := get_ok hbs
  simp only [g1, g2]
  obtain ⟨e1, e2, e3, e4⟩ := eachState_ok (g := fun s l vs => g s l bs vs) (s0 := s) f.lanes hv hg
    ⟨(s.latch f (bsrc ++ lsrc ++ extra)).charge (.core f.pl.core) (f.get f.elected bsrc).corr 0 0, [], [], []⟩ (begun_charge (begun_latch hr _) _ _)
  simp only [e1, e2, e3, List.nil_append]
  cases dst <;> exact goesOn_results e4 late _

theorem eachTest_ok {f : Frame} {os : List Opnd} {g : Nat → List Nat → Bool} {vs : Nat → List Nat} (ls : List Nat)
    (hv : ∀ l ∈ ls, os.map (f.value l) = (vs l).map some) :
    (f.eachTest os g ls).done = maskOf ls ∧ (f.eachTest os g ls).bits = maskOf (ls.filter fun l => g l (vs l)) ∧
      (f.eachTest os g ls).faults = [] ∧ (f.eachTest os g ls).unc = 0 := by
  induction ls with
  | nil => exact ⟨rfl, rfl, rfl, rfl⟩
  | cons l ls ih =>
    obtain ⟨h1, h2, h3, h4⟩ := ih (fun x hx => hv x (by simp [hx]))
    obtain ⟨g1, g2⟩ := get_ok (hv l (by simp))
    simp only [Frame.eachTest, g1, g2, h1, h2, h3, h4, maskOf, List.filter_cons, Nat.add_zero, and_true]
    refine ⟨Nat.or_comm _ _, ?_⟩
    by_cases hg : g l (vs l) = true
    · simp [hg, maskOf, Nat.or_comm]
    · simp [hg]

theorem setMask_eq {s : State} {f : Frame} {latch : List (Nat × Nat × Nat)}
    (h : s.beam? f.a = some { f.b with latch := latch }) (k lanes bits_ : Nat) :
    s.setMask f k lanes bits_ = s.results f false (f.b.maskBits k lanes bits_) := by
  simp only [State.setMask, State.results, Bool.false_and, Bool.false_eq_true, if_false, modBeam_eq_setBeam h]
  congr 1
  by_cases hk : k = 0
  · simp [Beam.maskBits, hk, Beam.writes, Beam.unlatch]
  · simp [Beam.maskBits, hk, Beam.writes, Beam.write, Beam.unlatch, Beam.kreg, RegWrite.name]
    exact (List.filter_eq_self.mpr fun x _ => rfl).symm

/-- A test per lane, on readable sources, writes the bits of its active lanes and goes on. -/
theorem maskOp_goesOn {s : State} {f : Frame} {m : Mods} (hr : f.Ready s m) {k : Nat} {bsrc lsrc : List Opnd}
    {g : Nat → List Nat → List Nat → Bool} {bs : List Nat} {vs : Nat → List Nat}
    (hi : ∀ o ∈ bsrc ++ lsrc, f.inBounds o = true)
    (hbs : bsrc.map (f.value f.elected) = bs.map some)
    (hv : ∀ l ∈ f.lanes, lsrc.map (f.value l) = (vs l).map some) :
    f.GoesOn s (s.maskOp f k bsrc lsrc g)
      (f.wrote false (f.b.maskBits k (maskOf f.lanes) (maskOf (f.lanes.filter fun l => g l bs (vs l))))) := by
  unfold State.maskOp
  rw [guarded_ok hr (by
    intro o ho
    rcases List.mem_append.mp ho with h | h
    · exact hi o h
    · simp at h; subst h; rfl)]
  obtain ⟨g1, g2⟩ := get_ok hbs
  obtain ⟨e1, e2, e3, e4⟩ := eachTest_ok (g := fun l vs => g l bs vs) f.lanes hv
  simp only [g1, g2, e1, e2, e3, e4]
  have hb := begun_charge (begun_charge (begun_latch hr (bsrc ++ lsrc)) (f.get f.elected bsrc).corr 0)
    (f.eachTest lsrc (fun l vs => g l bs vs) f.lanes).corr 0
  obtain ⟨latch, hl⟩ := hb.beam
  rw [setMask_eq hl]
  exact goesOn_results hb false _

/-! ## The frame of a coded instruction -/

theorem coded_next {s : State} {f : Frame} {m : Mods} (hr : f.Ready s m) (body : Frame → State → State) :
    coded m true body s = .next (body f s) := by
  simp [coded, hr.frame, hr.active]

/-- A coded instruction that is issued answers the state its body makes. -/
theorem coded_goesOn {s : State} {f : Frame} {m : Mods} {b : Beam} {body : Frame → State → State}
    (hr : f.Ready s m) (hg : f.GoesOn s (body f s) b) : ∃ t, coded m true body s = .next t ∧ f.GoesOn s t b :=
  ⟨_, coded_next hr body, hg⟩

end Sys2Proof.Machine
end

