-- ==== Sys2Proof/Laws/Forms.lean ====
section
/-!
SUPPORT. Sys2Proof/Laws/Forms.lean: the shared operand forms have the shapes of Safety.lean: one lemma per form.
-/

namespace Sys2Proof.Machine

theorem lanes_ne_nil {s : State} {f : Frame} {m : Mods} (hr : f.Ready s m) : f.lanes ≠ [] := by
  intro h
  have hz : f.active = 0 := by
    have hf := hr.frame
    unfold State.frame? at hf
    split at hf
    · cases hf
    · split at hf
      · cases hf
      · simp only [Option.some.injEq] at hf
        subst hf
        apply Nat.eq_of_testBit_eq
        intro i
        simp only [Frame.lanes, lanesOf, List.filter_eq_nil_iff, List.mem_range] at h
        rename_i b _
        by_cases hi : i < b.count
        · simpa using h i hi
        · simp only [Nat.testBit_and, Nat.testBit_two_pow_sub_one, decide_eq_false hi, Bool.and_false, Nat.zero_testBit]
  exact hr.active hz

theorem elected_mem {s : State} {f : Frame} {m : Mods} (hr : f.Ready s m) : f.elected ∈ f.lanes := by
  unfold Frame.elected
  cases h : f.lanes with
  | nil => exact absurd h (lanes_ne_nil hr)
  | cons l ls => simp

/-- A per-beam operand has one value for all lanes. -/
theorem value_perBeam {f : Frame} {o : Opnd} (h : o.perBeam = true) (l l' : Nat) : f.value l o = f.value l' o := by
  cases o with
  | v n c => cases h
  | m n => cases h
  | s n =>
    unfold Frame.value
    dsimp only
    by_cases h1 : n < 64
    · simp [h1]
    · by_cases h2 : n = 64
      · simp [h2]
      · by_cases h3 : isK n = true
        · simp [h1, h2, h3]
        · have h4 : n = 76 := by
            simp only [Opnd.perBeam, Bool.or_eq_true, decide_eq_true_eq, beq_iff_eq] at h
            rcases h with h | h
            · simp [isK] at h3; omega
            · exact h
          simp [h4, isK, isX]

theorem laneForm_laneOp {i : Instr} {m : Mods} {src : Frame → List Opnd} {dst : Opnd} {late : Bool}
    {val : State → Frame → Nat → List Nat → Nat} {g : State → Frame → Nat → List Nat → List Nat → LaneDone}
    (he : ∀ s, exec i s = coded m true (fun f s => s.laneOp f [] (src f) dst late (g s f)) s)
    (hg : ∀ s f l v, (g s f l [] v).out = .ok (f.put l dst (val s f l v))) : LaneForm i m src dst late val := by
  intro s f x hr hi hx
  refine ⟨_, (he s).trans (coded_next hr _), ?_⟩
  exact laneOp_goesOn hr (bs := []) (vs := x) (by simpa [Frame.Fits] using hi) rfl hx fun l _ => hg s f l (x l)

theorem maskForm_maskOp {i : Instr} {m : Mods} {src : Frame → List Opnd} {d : Nat} {test : Frame → List Nat → Bool}
    {g : Frame → Nat → List Nat → List Nat → Bool}
    (he : ∀ s, exec i s = coded m true (fun f s => s.maskOp f d [] (src f) (g f)) s)
    (hg : ∀ f l v, g f l [] v = test f v) : MaskForm i m src d test := by
  intro s f x hr hi hx
  refine ⟨_, (he s).trans (coded_next hr _), ?_⟩
  have := maskOp_goesOn hr (k := d) (g := g f) (bs := []) (vs := x) (bsrc := []) (by simpa [Frame.Fits] using hi) rfl hx
  simpa only [Beam.maskBits, hg] using this

theorem reads_split {f : Frame} {os : List Opnd} {x : Nat → List Nat} (p : Opnd → Bool) (hx : f.Reads os x) :
    ∃ y : Nat → List Nat, ∀ l ∈ f.lanes, (os.filter p).map (f.value l) = (y l).map some := by
  refine ⟨fun l => (os.filter p).map fun o => (f.value l o).getD 0, fun l hl => ?_⟩
  rw [List.map_map]
  apply List.map_congr_left
  intro o ho
  have : f.value l o ∈ (x l).map some := hx l hl ▸ List.mem_map.mpr ⟨o, (List.mem_filter.mp ho).1, rfl⟩
  obtain ⟨v, -, hv⟩ := List.mem_map.mp this
  simp [← hv]

theorem reads_getD {f : Frame} {os : List Opnd} {x : Nat → List Nat} (hx : f.Reads os x) {l : Nat} (hl : l ∈ f.lanes) :
    os.map (fun o => (f.value l o).getD 0) = x l := by
  have := congrArg (List.map fun v : Option Nat => v.getD 0) (hx l hl)
  simpa [List.map_map, Function.comp_def] using this

theorem scalarForm_scalarOp {i : Instr} {m : Mods} {src : Frame → List Nat} {d : Nat} {late : Bool} {val : List Nat → Nat}
    (he : ∀ s, exec i s = coded m true (fun f s => s.scalarOp f (src f) d late val) s) :
    ScalarForm i m (fun f => (src f).map Opnd.s) d late val := by
  intro s f x hr hi hx
  refine ⟨_, (he s).trans (coded_next hr _), ?_⟩
  unfold State.scalarOp
  by_cases hd : isX d = true
  · simp only [hd, if_true]
    obtain ⟨bs, hb⟩ := reads_split Opnd.perBeam hx
    obtain ⟨vs, hv⟩ := reads_split (fun o => !o.perBeam) hx
    refine laneOp_goesOn hr (bs := bs f.elected) (vs := vs) ?_ (hb _ (elected_mem hr)) hv fun l hl => ?_
    · intro o ho
      simp only [List.append_assoc, List.mem_append, List.mem_filter, List.mem_singleton] at ho
      rcases ho with ⟨h, -⟩ | ⟨h, -⟩ | rfl
      · exact hi o h
      · exact hi o h
      · rfl
    · simp only [LaneDone.ok]
      rw [reads_getD hx hl]
  · simp only [hd, if_false, Bool.false_eq_true]
    refine onceOp_goesOn hr ?_ (hx _ (elected_mem hr))
    intro o ho
    rcases List.mem_append.mp ho with h | h
    · exact hi o h
    · have : o = .s d := by simpa using h
      subst this; rfl

end Sys2Proof.Machine
end

