-- ==== Sys2Proof/Laws/Lanes.lean ====
section
/-!
SUPPORT. Sys2Proof/Laws/Lanes.lean: what the cross-lane and the scaled operand forms do on an instruction that completes.
-/

namespace Sys2Proof.Machine

theorem firstBad_none {ws : List CW} (h : ∀ w ∈ ws, (lccCheck w).data?.isSome = true) : firstBad ws = none := by
  rw [firstBad, List.find?_eq_none]
  intro w hw; simp [Option.isSome_iff_ne_none.mp (h w hw)]

theorem tally_good {ws : List CW} (h : ∀ w ∈ ws, (lccCheck w).data?.isSome = true) : (tally ws).2 = 0 := by
  simp only [tally, List.countP_eq_zero]
  intro w hw; simp [Option.isSome_iff_ne_none.mp (h w hw)]

theorem reads_mem {f : Frame} {os : List Opnd} {x : Nat → List Nat} (hx : f.Reads os x) {l : Nat} (hl : l ∈ f.lanes) {o : Opnd}
    (ho : o ∈ os) : ∃ v, f.value l o = some v := by
  have : f.value l o ∈ (x l).map some := hx l hl ▸ List.mem_map.mpr ⟨o, ho, rfl⟩
  obtain ⟨v, -, hv⟩ := List.mem_map.mp this
  exact ⟨v, hv.symm⟩

/-- What the combining instructions read where every word is readable. -/
theorem crossIn_ok {f : Frame} {regs : List Nat} {x : Nat → List Nat} (hx : f.Reads (regs.map (Opnd.v · 1)) x) :
    (f.crossIn regs).bad = [] ∧ (f.crossIn regs).unc = 0 ∧ (f.crossIn regs).parts = f.lanes ∧
      ∀ l ∈ f.lanes, ∀ j < regs.length, (f.crossIn regs).val j l = (x l).getD j 0 := by
  have good : ∀ l ∈ f.lanes, ∀ n ∈ regs, ∀ y ∈ f.words l (.v n 1), (lccCheck y.2).data?.isSome = true := by
    intro l hl n hn y hy
    obtain ⟨v, hv⟩ := reads_mem hx hl (List.mem_map.mpr ⟨n, hn, rfl⟩)
    exact value_some hv y hy
  refine ⟨?_, ?_, rfl, ?_⟩
  · simp only [Frame.crossIn, List.filterMap_eq_nil_iff, List.mem_flatMap, Option.map_eq_none_iff]
    rintro ⟨i, l, n⟩ ⟨l', hl, hm⟩
    obtain ⟨k, hk, he⟩ := List.mem_mapIdx.mp hm
    simp only [Prod.mk.injEq] at he
    obtain ⟨rfl, rfl, rfl⟩ := he
    apply firstBad_none
    intro w hw
    obtain ⟨y, hy, rfl⟩ := List.mem_map.mp hw
    exact good _ hl _ (List.getElem_mem hk) y hy
  · simp only [Frame.crossIn]
    apply tally_good
    intro w hw
    obtain ⟨l, hl, hw⟩ := List.mem_flatMap.mp hw
    obtain ⟨y, hy, rfl⟩ := mem_dedupWords hw
    obtain ⟨n, hn, hy⟩ := List.mem_flatMap.mp hy
    exact good l hl n hn y hy
  · intro l hl j hj
    have h := congrArg (fun ys => ys[j]?) (hx l hl)
    simp only [List.map_map, List.getElem?_map, List.getElem?_eq_getElem hj, Option.map_some, Function.comp] at h
    simp only [Frame.crossIn, List.getD_eq_getElem?_getD, List.getElem?_eq_getElem hj, Option.getD_some]
    cases hj2 : (x l)[j]? with
    | none => simp [hj2] at h
    | some v => simp only [hj2, Option.map_some] at h; injection h with h; simp [h]

/-- A combining instruction on readable words writes what it computes and goes on. -/
theorem crossOp_goesOn {s : State} {f : Frame} {m : Mods} (hr : f.Ready s m) {regs : List Nat} {d : Nat}
    {charged : CrossIn → Nat → Option CW} {g : CrossIn → List (Nat × Nat)}
    (hi : f.Fits ((regs ++ [d]).map (Opnd.v · 1))) {x : Nat → List Nat} (hx : f.Reads (regs.map (Opnd.v · 1)) x)
    (hc : ∀ l, charged (f.crossIn regs) l = none) :
    f.GoesOn s (s.crossOp f regs d charged g true)
      (f.wrote false (((g (f.crossIn regs)).flatMap fun (l, v) => f.put l (.v d 1) v) ++ f.zeroes (.v d 1))) := by
  unfold State.crossOp
  rw [guarded_ok hr (by simpa [Frame.Fits] using hi)]
  have hf : (f.lanes.filterMap fun l => (charged (f.crossIn regs) l).map fun w => (l, Cause.lcc 0 w)) = [] := by
    simp [hc]
  have hfil : ∀ ys : List (Nat × Nat), (ys.filter fun (_ : Nat × Nat) => !([] : List (Nat × Cause)).any fun _ => false) = ys := by
    intro ys; simp
  simp only [hf, (crossIn_ok hx).2.1, List.any_nil, Bool.not_false, List.filter_true, if_true]
  exact goesOn_results (begun_charge (begun_latch hr _) _ _) false _

theorem chargeAll_ok {f : Frame} {regs : List Nat} {x : Nat → List Nat} (hx : f.Reads (regs.map (Opnd.v · 1)) x) (l : Nat) :
    chargeAll (f.crossIn regs) l = none := by simp [chargeAll, (crossIn_ok hx).1]
theorem chargeAbove_ok {f : Frame} {regs : List Nat} {x : Nat → List Nat} (hx : f.Reads (regs.map (Opnd.v · 1)) x) (l : Nat) :
    chargeAbove (f.crossIn regs) l = none := by simp [chargeAbove, (crossIn_ok hx).1]
theorem chargeGroup_ok {f : Frame} {regs : List Nat} {x : Nat → List Nat} (hx : f.Reads (regs.map (Opnd.v · 1)) x) (l : Nat) :
    chargeGroup (f.crossIn regs) l = none := by simp [chargeGroup, (crossIn_ok hx).1]

/-- Keeping the first of each key keeps only words of the list. -/
theorem mem_once {κ : Type} [BEq κ] (xs acc : List (κ × CW)) {y : κ × CW}
    (h : y ∈ xs.foldl (fun acc x => if acc.any (·.1 == x.1) then acc else acc ++ [x]) acc) : y ∈ acc ∨ y ∈ xs := by
  induction xs generalizing acc with
  | nil => exact .inl h
  | cons x xs ih =>
    rcases ih _ h with h | h
    · dsimp only at h
      split at h
      · exact .inl h
      · rcases List.mem_append.mp h with h | h
        · exact .inl h
        · right; simp at h; simp [h]
    · right; simp [h]

theorem laneFaults_ok (ls : List Nat) (g : Nat → List RegWrite) :
    laneFaults (ls.map fun l => (l, (Except.ok (g l) : Except Cause (List RegWrite)))) = [] := by
  induction ls with
  | nil => rfl
  | cons l ls ih => simpa [laneFaults] using ih

theorem laneWrites_ok (ls : List Nat) (g : Nat → List RegWrite) :
    laneWrites (ls.map fun l => (l, (Except.ok (g l) : Except Cause (List RegWrite)))) = ls.flatMap g := by
  induction ls with
  | nil => rfl
  | cons l ls ih => simpa [laneWrites] using ih

/-- A scaled instruction on readable words, once it has begun (`guarded_ok`, `begun_latch`), writes what its lanes compute and goes on. -/
theorem scaledOp_goesOn {s u : State} {f : Frame} (hb : f.Begun s u) {own : List Opnd} {b : Nat} {d : Opnd}
    {g : Nat → List Nat → List RegWrite} {x : Nat → List Nat} (hx : f.Reads own x)
    (hz : ∀ l ∈ f.lanes, (f.value (scaleLane l) (.v b 1)).isSome = true) :
    f.GoesOn s (u.scaledOp f own b d g) (f.wrote false ((f.lanes.flatMap fun l => g l (x l)) ++ f.zeroes d)) := by
  have good : ∀ l ∈ f.lanes, ∀ y ∈ own.flatMap (f.words l) ++ f.words (scaleLane l) (.v b 1),
      (lccCheck y.2).data?.isSome = true := by
    intro l hl y hy
    rcases List.mem_append.mp hy with hy | hy
    · obtain ⟨o, ho, hy⟩ := List.mem_flatMap.mp hy
      obtain ⟨v, hv⟩ := reads_mem hx hl ho
      exact value_some hv y hy
    · obtain ⟨v, hv⟩ := Option.isSome_iff_exists.mp (hz l hl)
      exact value_some hv y hy
  unfold State.scaledOp
  have hout : (f.lanes.map fun l => (l, f.scaledLane own b g l)) =
      f.lanes.map fun l => (l, (Except.ok (g l (x l)) : Except Cause (List RegWrite))) := by
    apply List.map_congr_left
    intro l hl
    have : firstBad (((own.take 1).flatMap (f.words l) ++ f.words (scaleLane l) (.v b 1) ++ (own.drop 1).flatMap (f.words l)).map (·.2)) =
        none := by
      apply firstBad_none
      intro w hw
      obtain ⟨y, hy, rfl⟩ := List.mem_map.mp hw
      refine good l hl y ?_
      simp only [List.mem_append, List.mem_flatMap] at hy ⊢
      rcases hy with (⟨o, ho, hy⟩ | hy) | ⟨o, ho, hy⟩
      · exact .inl ⟨o, List.mem_of_mem_take ho, hy⟩
      · exact .inr hy
      · exact .inl ⟨o, List.mem_of_mem_drop ho, hy⟩
    simp only [Frame.scaledLane, this, reads_getD hx hl]
  simp only [hout, laneFaults_ok, laneWrites_ok]
  rw [tally_good]
  · exact goesOn_results (begun_charge hb _ _) false _
  · intro w hw
    obtain ⟨y, hy, rfl⟩ := List.mem_map.mp hw
    rcases mem_once _ _ hy with h | h
    · simp at h
    · obtain ⟨l, hl, hy⟩ := List.mem_flatMap.mp h
      rcases List.mem_append.mp hy with h | h
      · obtain ⟨z, hz, rfl⟩ := List.mem_map.mp h
        exact good l hl z (List.mem_append_left _ hz)
      · obtain ⟨z, hz, rfl⟩ := List.mem_map.mp h
        exact good l hl z (List.mem_append_right _ hz)

end Sys2Proof.Machine
end

