-- ==== Sys2Proof/Laws/Memory.lean ====
section
/-!
SUPPORT. Sys2Proof/Laws/Memory.lean: every memory operation keeps the canonical form, a word that is written reads back, and every other
byte and code stays (R69, R243).
-/

namespace Sys2Proof.Machine

variable {α : Type}

/-! ## Rising keys -/

theorem smSorted_iff (m : SMap α) : smSorted m = true ↔ (m.map (·.1)).Pairwise (· < ·) := by
  induction m with
  | nil => simp [smSorted]
  | cons x xs ih =>
    obtain ⟨a, v⟩ := x
    cases xs with
    | nil => simp [smSorted]
    | cons y ys =>
      obtain ⟨b, w⟩ := y
      simp only [smSorted, Bool.and_eq_true, decide_eq_true_eq, ih, List.map_cons, List.pairwise_cons, List.mem_cons]
      constructor
      · rintro ⟨h, h1, h2⟩
        refine ⟨?_, h1, h2⟩
        rintro z (rfl | hz)
        · exact h
        · exact Nat.lt_trans h (h1 z hz)
      · rintro ⟨h, h1, h2⟩
        exact ⟨h b (Or.inl rfl), h1, h2⟩

/-- Keys after a write: the new one and the old ones. -/
theorem mem_smSet {m : SMap α} {k j : Nat} {v : α} (h : j ∈ (smSet m k v).map (·.1)) : j = k ∨ j ∈ m.map (·.1) := by
  induction m with
  | nil => simp_all [smSet]
  | cons x xs ih =>
    obtain ⟨k', v'⟩ := x
    simp only [smSet] at h
    split at h
    · simpa using h
    · split at h
      · simp_all
      · simp only [List.map_cons, List.mem_cons] at h ⊢
        rcases h with rfl | h
        · exact .inr (.inl rfl)
        · exact (ih h).imp_right .inr

theorem smSorted_set (m : SMap α) (k : Nat) (v : α) (h : smSorted m = true) : smSorted (smSet m k v) = true := by
  rw [smSorted_iff] at *
  induction m with
  | nil => simp [smSet]
  | cons x xs ih =>
    obtain ⟨k', v'⟩ := x
    simp only [List.map_cons, List.pairwise_cons] at h
    simp only [smSet]
    split
    · rename_i hk
      simp only [List.map_cons, List.pairwise_cons, List.mem_cons]
      refine ⟨?_, h.1, h.2⟩
      rintro z (rfl | hz)
      · exact hk
      · exact Nat.lt_trans hk (h.1 z hz)
    · split
      · rename_i hk; subst hk; simpa using h
      · rename_i h1 h2
        simp only [List.map_cons, List.pairwise_cons]
        refine ⟨fun z hz => ?_, ih h.2⟩
        rcases mem_smSet hz with rfl | hz
        · omega
        · exact h.1 z hz

theorem smErase_sublist (m : SMap α) (k : Nat) : (smErase m k).Sublist m := by
  induction m with
  | nil => exact .slnil
  | cons x xs ih =>
    obtain ⟨k', v⟩ := x
    simp only [smErase]
    split
    · exact .cons _ (.refl _)
    · exact ih.cons_cons _

theorem smSorted_sublist {m m' : SMap α} (h : m'.Sublist m) (hm : smSorted m = true) : smSorted m' = true := by
  rw [smSorted_iff] at *
  exact hm.sublist (h.map _)

theorem smGet?_erase_other (m : SMap α) {k j : Nat} (h : j ≠ k) : smGet? (smErase m k) j = smGet? m j := by
  induction m with
  | nil => rfl
  | cons x xs ih =>
    obtain ⟨k', v⟩ := x
    by_cases hk : k = k'
    · subst hk; simp [smErase, smGet?, h]
    · simp [smErase, smGet?, hk, ih]

theorem smGet?_none_of_lt (m : SMap α) (k : Nat) (h : ∀ j ∈ m.map (·.1), k < j) : smGet? m k = none := by
  induction m with
  | nil => rfl
  | cons x xs ih =>
    obtain ⟨k', v⟩ := x
    have h0 : k < k' := h k' (by simp)
    have h1 : k ≠ k' := by omega
    simp only [smGet?, h1, if_false]
    exact ih fun j hj => h j (by simp only [List.map_cons, List.mem_cons]; exact .inr hj)

theorem smGet?_erase_self (m : SMap α) (k : Nat) (h : smSorted m = true) : smGet? (smErase m k) k = none := by
  rw [smSorted_iff] at h
  induction m with
  | nil => rfl
  | cons x xs ih =>
    obtain ⟨k', v⟩ := x
    simp only [List.map_cons, List.pairwise_cons] at h
    by_cases hk : k = k'
    · subst hk
      simpa [smErase] using smGet?_none_of_lt xs k h.1
    · simp [smErase, smGet?, hk, ih h.2]

/-! ## Cells -/

theorem cellsWf_iff (m : List Host.Cell) : cellsWf m = true ↔ smSorted m = true ∧ ∀ c ∈ m, c.2 ≠ 0 := by
  simp [cellsWf]

theorem mem_smSet_cell {m : List Host.Cell} {k : Nat} {v : Byte} {c : Host.Cell} (h : c ∈ smSet m k v) : c = (k, v) ∨ c ∈ m := by
  induction m with
  | nil => simp_all [smSet]
  | cons x xs ih =>
    obtain ⟨k', v'⟩ := x
    simp only [smSet] at h
    split at h
    · simpa using h
    · split at h
      · rcases List.mem_cons.1 h with h | h
        · exact .inl h
        · exact .inr (List.mem_cons_of_mem _ h)
      · rcases List.mem_cons.1 h with rfl | h
        · exact .inr (List.mem_cons_self ..)
        · exact (ih h).imp_right (List.mem_cons_of_mem _)

/-- Writing a byte keeps the canonical form. -/
theorem cellSet_wf (m : List Host.Cell) (a : Nat) (b : Byte) (h : cellsWf m = true) : cellsWf (cellSet m a b) = true := by
  rw [cellsWf_iff] at *
  unfold cellSet
  split
  · exact ⟨smSorted_sublist (smErase_sublist m a) h.1, fun c hc => h.2 c ((smErase_sublist m a).subset hc)⟩
  · refine ⟨smSorted_set m a b h.1, fun c hc => ?_⟩
    rcases mem_smSet_cell hc with rfl | hc
    · assumption
    · exact h.2 c hc

/-- A byte that is written reads back, in a canonical memory. -/
theorem cellGet_set_self (m : List Host.Cell) (a : Nat) (b : Byte) (h : cellsWf m = true) : cellGet (cellSet m a b) a = b := by
  unfold cellGet cellSet
  split
  · rename_i hb; simp [smGet?_erase_self m a ((cellsWf_iff m).1 h).1, hb]
  · simp

/-- Every other byte stays. -/
theorem cellGet_set_other (m : List Host.Cell) {a x : Nat} (b : Byte) (h : x ≠ a) : cellGet (cellSet m a b) x = cellGet m x := by
  unfold cellGet cellSet
  split
  · rw [smGet?_erase_other m h]
  · rw [smGet?_set_other m b h]

/-! ## Words -/

theorem setBytes_wf (m : List Host.Cell) (a : Nat) (d : Word) (h : cellsWf m = true) : cellsWf (setBytes m a d) = true :=
  cellSet_wf _ _ _ (cellSet_wf _ _ _ (cellSet_wf _ _ _ (cellSet_wf _ _ _ h)))

theorem Mem.wf_iff (m : Mem) : m.wf = true ↔ cellsWf m.data = true ∧ cellsWf m.codes = true := by
  simp [Mem.wf]

/-- Writing a word keeps the canonical form. -/
theorem Mem.setWord_wf (m : Mem) (a : Nat) (c : CW) (h : m.wf = true) : (m.setWord a c).wf = true := by
  rw [Mem.wf_iff] at *
  exact ⟨setBytes_wf _ _ _ h.1, cellSet_wf _ _ _ h.2⟩

theorem Mem.setWords_wf (m : Mem) (a : Nat) (cs : List CW) (h : m.wf = true) : (m.setWords a cs).wf = true := by
  induction cs generalizing m a with
  | nil => exact h
  | cons c cs ih => exact ih _ _ (m.setWord_wf a c h)

/-- A byte outside the word that is written stays. -/
theorem Mem.byte_setWord_other (m : Mem) (a x : Nat) (c : CW) (h : x / 4 ≠ a / 4) : (m.setWord a c).byte x = m.byte x := by
  have e : a - a % 4 = 4 * (a / 4) := by omega
  simp only [Mem.byte, Mem.setWord, setBytes]
  rw [cellGet_set_other _ _ (by omega), cellGet_set_other _ _ (by omega), cellGet_set_other _ _ (by omega),
    cellGet_set_other _ _ (by omega)]

theorem Mem.code_setWord_other (m : Mem) (a x : Nat) (c : CW) (h : x ≠ a - a % 4) :
    cellGet (m.setWord a c).codes x = cellGet m.codes x :=
  cellGet_set_other _ _ h

/-- A word other than the one that is written stays. -/
theorem Mem.word_setWord_other (m : Mem) (a x : Nat) (c : CW) (h : x / 4 ≠ a / 4) : (m.setWord a c).word x = m.word x := by
  have hx : x - x % 4 = 4 * (x / 4) := by omega
  simp only [Mem.word]
  rw [m.byte_setWord_other _ _ _ (by omega), m.byte_setWord_other _ _ _ (by omega), m.byte_setWord_other _ _ _ (by omega),
    m.byte_setWord_other _ _ _ (by omega), m.code_setWord_other _ _ _ (by omega)]

theorem bytes_of_word (d : Word) : d.extractLsb' 24 8 ++ d.extractLsb' 16 8 ++ d.extractLsb' 8 8 ++ d.setWidth 8 = d := by
  refine BitVec.eq_of_getLsbD_eq fun i hi => ?_
  rw [BitVec.getLsbD_append, BitVec.getLsbD_append, BitVec.getLsbD_append]
  simp only [BitVec.getLsbD_extractLsb', BitVec.getLsbD_setWidth]
  interval_cases i <;> rfl

/-- A word that is written reads back, data and code. -/
theorem Mem.word_setWord_self (m : Mem) (a : Nat) (c : CW) (h : m.wf = true) : (m.setWord a c).word a = c := by
  have hw := (Mem.wf_iff m).1 h
  have h0 := hw.1
  simp only [Mem.word, Mem.setWord, setBytes, Mem.byte]
  have h1 := cellSet_wf m.data (a - a % 4) (c.data.setWidth 8) h0
  have h2 := cellSet_wf _ (a - a % 4 + 1) (c.data.extractLsb' 8 8) h1
  have h3 := cellSet_wf _ (a - a % 4 + 2) (c.data.extractLsb' 16 8) h2
  rw [cellGet_set_self _ _ _ h3, cellGet_set_other _ (x := a - a % 4 + 2) _ (by omega), cellGet_set_self _ _ _ h2,
    cellGet_set_other _ (x := a - a % 4 + 1) _ (by omega), cellGet_set_other _ (x := a - a % 4 + 1) _ (by omega),
    cellGet_set_self _ _ _ h1, cellGet_set_other _ (x := a - a % 4) _ (by omega),
    cellGet_set_other _ (x := a - a % 4) _ (by omega), cellGet_set_other _ (x := a - a % 4) _ (by omega),
    cellGet_set_self _ _ _ h0, cellGet_set_self _ _ _ hw.2]
  rw [bytes_of_word]

/-! ## Lines -/

theorem Mem.word_align (m : Mem) (x : Nat) : m.word (x - x % 4) = m.word x := by
  have h : x - x % 4 - (x - x % 4) % 4 = x - x % 4 := by omega
  simp only [Mem.word, h]

theorem copyWords_wf (src : Mem) (ln : Nat) (is : List Nat) (dst : Mem) (h : dst.wf = true) :
    (is.foldl (fun m i => m.setWord (ln * 64 + 4 * i) (src.word (ln * 64 + 4 * i))) dst).wf = true := by
  induction is generalizing dst with
  | nil => exact h
  | cons i is ih => exact ih _ (Mem.setWord_wf _ _ _ h)

theorem copyLine_wf (src dst : Mem) (ln : Nat) (h : dst.wf = true) : (copyLine src dst ln).wf = true := copyWords_wf src ln _ dst h

theorem word_copyWords (src : Mem) (ln x : Nat) (is : List Nat) (dst : Mem) (h : dst.wf = true) :
    (is.foldl (fun m i => m.setWord (ln * 64 + 4 * i) (src.word (ln * 64 + 4 * i))) dst).word x =
      if x / 4 ∈ is.map (ln * 16 + ·) then src.word x else dst.word x := by
  induction is generalizing dst with
  | nil => simp
  | cons i is ih =>
    rw [List.foldl_cons, ih _ (Mem.setWord_wf _ _ _ h)]
    by_cases hx : x / 4 = ln * 16 + i
    · have e : x - x % 4 = ln * 64 + 4 * i := by omega
      have hw : (dst.setWord (ln * 64 + 4 * i) (src.word (ln * 64 + 4 * i))).word x = src.word x := by
        rw [← Mem.word_align _ x, e, Mem.word_setWord_self _ _ _ h, ← e, Mem.word_align]
      simp [hw, hx]
    · rw [Mem.word_setWord_other _ _ _ _ (by omega)]
      simp only [List.map_cons, List.mem_cons, hx, false_or]

/-- A copied line reads as its source, every other word as it read. -/
theorem word_copyLine (src dst : Mem) (ln x : Nat) (h : dst.wf = true) :
    (copyLine src dst ln).word x = if x / 64 = ln then src.word x else dst.word x := by
  rw [copyLine, word_copyWords src ln x _ dst h]
  have : x / 4 ∈ (List.range 16).map (ln * 16 + ·) ↔ x / 64 = ln := by
    simp only [List.mem_map, List.mem_range]
    constructor
    · rintro ⟨i, hi, h⟩; omega
    · intro h; exact ⟨x / 4 - ln * 16, by omega, by omega⟩
  simp only [this]

/-! ## Slices -/

theorem smGet?_map (m : SMap α) (g : Nat → α → α) (k : Nat) : smGet? (m.map fun (j, v) => (j, g j v)) k = (smGet? m k).map (g k) := by
  induction m with
  | nil => rfl
  | cons x xs ih =>
    obtain ⟨j, v⟩ := x
    simp only [List.map_cons, smGet?, ih]
    split
    · rename_i h; subst h; rfl
    · rfl

theorem smGet?_filterKey (m : SMap α) (k j : Nat) :
    smGet? (m.filter fun x => x.1 != k) j = if j = k then none else smGet? m j := by
  induction m with
  | nil => simp [smGet?]
  | cons x xs ih =>
    obtain ⟨i, v⟩ := x
    by_cases hi : i = k
    · subst hi
      simp only [List.filter_cons, bne_self_eq_false, Bool.false_eq_true, if_false, ih, smGet?]
      split <;> rfl
    · simp only [List.filter_cons, bne_iff_ne, ne_eq, hi, not_false_eq_true, if_true, smGet?, ih]
      by_cases hj : j = i
      · subst hj; simp [hi]
      · simp [hj]

theorem cellWord_congr {s t : State} {x : Nat} (hd : t.sliceDirty (x / 64) = s.sliceDirty (x / 64))
    (h : t.l2mem.word x = s.l2mem.word x) (h' : t.mem.word x = s.mem.word x) : t.cellWord x = s.cellWord x := by
  unfold State.cellWord
  rw [hd, h, h']

theorem cellWord_dirty {s : State} {x : Nat} (h : s.sliceDirty (x / 64) = true) : s.cellWord x = s.l2mem.word x := by
  simp [State.cellWord, h]

theorem cellWord_clean {s : State} {x : Nat} (h : s.sliceDirty (x / 64) = false) : s.cellWord x = s.mem.word x := by
  simp [State.cellWord, h]

/-- Slices have moved lines between themselves and the stacks; every cell reads as it read, and the memories keep their form. -/
structure State.Rehoused (s t : State) : Prop where
  cells : ∀ x, t.cellWord x = s.cellWord x
  wf : t.MemWf
  rest : t = { s with mem := t.mem, l2 := t.l2, l2mem := t.l2mem, l2uses := t.l2uses, tags := t.tags }

theorem State.Rehoused.refl {s : State} (h : s.MemWf) : s.Rehoused s := ⟨fun _ => rfl, h, rfl⟩

theorem State.Rehoused.trans {s t u : State} (h : s.Rehoused t) (h' : t.Rehoused u) : s.Rehoused u :=
  ⟨fun x => (h'.cells x).trans (h.cells x), h'.wf, h'.rest.trans (by rw [h.rest])⟩

theorem State.Rehoused.homeWord {s t : State} (h : s.Rehoused t) (x : Nat) : t.homeWord x = s.homeWord x := by
  have hr : ∀ y, t.resolve y = s.resolve y := fun y => by rw [h.rest]; rfl
  have ht : t.twin? x = s.twin? x := by rw [h.rest]; rfl
  unfold State.homeWord
  rw [hr, h.cells, ht]

theorem State.Rehoused.memory {s t : State} (h : s.Rehoused t) : s.SameMemory t := fun x _ =>
  ⟨h.homeWord x, fun c => by
    have hc : t.core c = s.core c := by rw [h.rest]; rfl
    simp only [State.coreWord, State.sentWord, hc, h.homeWord]⟩

theorem sliceClean_dirty (s : State) (ln k : Nat) : (s.sliceClean ln).sliceDirty k = (s.sliceDirty k && decide (k ≠ ln)) := by
  unfold State.sliceClean
  split
  · simp only [State.sliceDirty, smGet?_map s.l2 fun k l => if k = ln then { l with dirty := false } else l]
    cases smGet? s.l2 k <;> by_cases hk : k = ln <;> simp [hk]
  · rename_i h
    by_cases hk : k = ln
    · subst hk; simpa using h
    · simp [hk]

theorem sliceClean_rehoused (s : State) (ln : Nat) (h : s.MemWf) : s.Rehoused (s.sliceClean ln) := by
  by_cases hd : s.sliceDirty ln = true
  · have hc : ∀ k, (s.sliceClean ln).sliceDirty k = (s.sliceDirty k && decide (k ≠ ln)) := sliceClean_dirty s ln
    have hm : (s.sliceClean ln).mem = copyLine s.l2mem s.mem ln := by simp [State.sliceClean, hd]
    have hl : (s.sliceClean ln).l2mem = copyLine .empty s.l2mem ln := by simp [State.sliceClean, hd]
    refine ⟨fun x => ?_, ⟨hm ▸ copyLine_wf _ _ _ h.1, hl ▸ copyLine_wf _ _ _ h.2⟩, by simp [State.sliceClean, hd]⟩
    by_cases hx : x / 64 = ln
    · rw [cellWord_clean (by simp [hc, hx]), cellWord_dirty (by rw [hx, hd]), hm, word_copyLine _ _ _ _ h.1, if_pos hx]
    · exact cellWord_congr (by simp [hc, hx]) (by rw [hl, word_copyLine _ _ _ _ h.2, if_neg hx])
        (by rw [hm, word_copyLine _ _ _ _ h.1, if_neg hx])
  · have : s.sliceClean ln = s := by simp [State.sliceClean, hd]
    rw [this]; exact .refl h

theorem sliceEvict_rehoused (s : State) (ln : Nat) (h : s.MemWf) : s.Rehoused (s.sliceEvict ln) := by
  unfold State.sliceEvict
  split
  · exact .refl h
  · have hc := sliceClean_rehoused s ln h
    refine hc.trans ⟨fun x => cellWord_congr ?_ rfl rfl, hc.wf, rfl⟩
    have := sliceClean_dirty s ln (x / 64)
    simp only [State.sliceDirty, smGet?_filterKey] at this ⊢
    by_cases hx : x / 64 = ln
    · simpa [hx] using this.symm
    · simp [hx]

theorem sliceTake_rehoused (s : State) (ln evp : Nat) (h : s.MemWf) : s.Rehoused (s.sliceTake ln evp) := by
  unfold State.sliceTake
  cases hl : smGet? s.l2 ln with
  | some l =>
    refine ⟨fun x => cellWord_congr ?_ rfl rfl, h, rfl⟩
    simp only [State.sliceDirty]
    by_cases hx : x / 64 = ln
    · simp [hx, hl]
    · simp [smGet?_set_other _ _ hx]
  | none =>
    dsimp only
    have key : ∀ t : State, s.Rehoused t → smGet? t.l2 ln = none →
        s.Rehoused { t with l2uses := s.l2uses + 1, l2 := smSet t.l2 ln ⟨evp, s.l2uses + 1, false⟩ } := by
      intro t ht hn
      refine ht.trans ⟨fun x => cellWord_congr ?_ rfl rfl, ht.wf, rfl⟩
      simp only [State.sliceDirty]
      by_cases hx : x / 64 = ln
      · simp [hx, hn]
      · simp [smGet?_set_other _ _ hx]
    split
    · exact key s (.refl h) hl
    · split
      · rename_i v _
        refine key _ (sliceEvict_rehoused s v h) ?_
        unfold State.sliceEvict
        split
        · exact hl
        · simp only [smGet?_filterKey]
          split
          · rfl
          · unfold State.sliceClean
            split
            · rw [smGet?_map s.l2 fun k l => if k = v then { l with dirty := false } else l, hl]; rfl
            · exact hl
      · exact key s (.refl h) hl

theorem sliceRead_rehoused (s : State) (loc : Nat) (alloc : Option Nat) (h : s.MemWf) : s.Rehoused (s.sliceRead loc alloc) := by
  unfold State.sliceRead
  split
  · split
    · exact .refl h
    · exact sliceTake_rehoused s _ _ h
  · exact .refl h

/-! ## Memory of the machine -/

theorem setCell_wf (s : State) (loc : Nat) (w : CW) (alloc : Option Nat) (h : s.MemWf) : (s.setCell loc w alloc).MemWf := by
  have hr := (sliceRead_rehoused s loc alloc h).wf
  unfold State.setCell
  dsimp only
  split
  · refine ⟨hr.1, Mem.setWord_wf _ _ _ ?_⟩
    split
    · exact hr.2
    · exact copyLine_wf _ _ _ hr.2
  · exact ⟨Mem.setWord_wf _ _ _ hr.1, hr.2⟩

/-- A cell that is written reads as the word written, every other cell as it read. -/
theorem setCell_cells (s : State) (loc : Nat) (w : CW) (alloc : Option Nat) (h : s.MemWf) (x : Nat) :
    (s.setCell loc w alloc).cellWord x = if x / 4 = loc / 4 then w else s.cellWord x := by
  have hr := sliceRead_rehoused s loc alloc h
  have hself : ∀ m : Mem, m.wf = true → x / 4 = loc / 4 → (m.setWord loc w).word x = w := fun m hm h4 => by
    have e : x - x % 4 = loc - loc % 4 := by omega
    rw [← Mem.word_align _ x, e, Mem.word_align, Mem.word_setWord_self _ _ _ hm]
  rw [← hr.cells x]
  unfold State.setCell
  dsimp only
  generalize s.sliceRead loc alloc = t at hr ⊢
  cases hl : smGet? t.l2 (loc / 64) with
  | some l =>
    have hm : (if l.dirty = true then t.l2mem else copyLine t.mem t.l2mem (loc / 64)).wf = true := by
      split
      · exact hr.wf.2
      · exact copyLine_wf _ _ _ hr.wf.2
    have hv : x / 64 = loc / 64 → (if l.dirty = true then t.l2mem else copyLine t.mem t.l2mem (loc / 64)).word x = t.cellWord x := by
      intro e
      by_cases hd : l.dirty = true
      · rw [if_pos hd, cellWord_dirty (by simp [State.sliceDirty, e, hl, hd])]
      · rw [if_neg hd, word_copyLine _ _ _ _ hr.wf.2, if_pos e, cellWord_clean (by simp [State.sliceDirty, e, hl, hd])]
    by_cases e : x / 64 = loc / 64
    · rw [cellWord_dirty (by simp [State.sliceDirty, e])]
      by_cases h4 : x / 4 = loc / 4
      · rw [if_pos h4]; exact hself _ hm h4
      · rw [if_neg h4, ← hv e]; exact Mem.word_setWord_other _ _ _ _ h4
    · rw [if_neg (by omega)]
      refine cellWord_congr (by simp [State.sliceDirty, smGet?_set_other _ _ e]) ?_ rfl
      rw [Mem.word_setWord_other _ _ _ _ (by omega)]
      split
      · rfl
      · rw [word_copyLine _ _ _ _ hr.wf.2, if_neg e]
  | none =>
    by_cases h4 : x / 4 = loc / 4
    · have e : x / 64 = loc / 64 := by omega
      rw [if_pos h4, cellWord_clean (by simp [State.sliceDirty, e, hl])]
      exact hself _ hr.wf.1 h4
    · rw [if_neg h4]
      exact cellWord_congr rfl rfl (Mem.word_setWord_other _ _ _ _ h4)

theorem State.perform_wf (s : State) (f : Flight) (h : s.MemWf) : (s.perform f).MemWf := by
  unfold State.perform
  dsimp only
  split
  · exact setCell_wf s _ _ _ h
  · exact h

/-- At a location that is no system address of this module, the word at home is the cell's. -/
theorem State.homeWord_of_resolve (s : State) (loc : Nat) (h : s.resolve loc = loc) : s.homeWord loc = s.cellWord loc := by
  simp [State.homeWord, State.twin?, h]

theorem State.performAll_wf (s : State) (fs : List Flight) (h : s.MemWf) : (s.performAll fs).MemWf := by
  unfold State.performAll
  induction fs generalizing s with
  | nil => exact h
  | cons f fs ih => exact ih _ (s.perform_wf f h)

theorem State.deviceWords_wf (s : State) (pa : Nat) (ws : List CW) (h : s.MemWf) : (s.deviceWords pa ws).MemWf := by
  induction ws generalizing s pa with
  | nil => exact h
  | cons w ws ih =>
    simp only [State.deviceWords]
    refine ih _ _ ?_
    cases physLoc pa with
    | none => exact h
    | some loc => exact s.perform_wf _ h

/-- What a reset keeps of memory is canonical. -/
theorem Mem.system_wf (m : Mem) (h : m.wf = true) : m.system.wf = true := by
  rw [Mem.wf_iff] at *
  simp only [cellsWf_iff] at *
  exact ⟨⟨smSorted_sublist List.filter_sublist h.1.1, fun c hc => h.1.2 c (List.filter_sublist.subset hc)⟩,
    ⟨smSorted_sublist List.filter_sublist h.2.1, fun c hc => h.2.2 c (List.filter_sublist.subset hc)⟩⟩

theorem State.reset_mem_wf : State.reset.MemWf := ⟨rfl, rfl⟩

/-- A core with neither lines nor writes in flight has nothing to send home. -/
theorem State.passCache_clean (s : State) (core loc : Nat) (hl : (s.core core).lines = []) (hf : (s.core core).flights = []) :
    s.passCache core loc = s := by
  have hu : (s.unload core (loc / 64) fun _ => true) = s := by simp [State.unload, hl, smGet?]
  simp [State.passCache, State.dropLine, State.drainLine, State.drain, hu, hl, hf, smGet?]

/-- Reads of words whose addresses all translate, with nothing to send home, give the words at home and change nothing. -/
theorem State.homeRead_clean (s : State) (core ctx : Nat) (hl : (s.core core).lines = []) (hf : (s.core core).flights = []) :
    ∀ (n va : Nat) (p : Nat → Page), (∀ k < n, s.reach core ctx ((va + 4 * k) % 2 ^ 72) .load = (.page (p k), s)) →
      s.homeRead core ctx va n = (.ok ((List.range n).map fun k => s.homeWord (p k).loc), s)
  | 0, _, _, _ => rfl
  | n + 1, va, p, h => by
    have h0 := h 0 (Nat.succ_pos n)
    have ih := State.homeRead_clean s core ctx hl hf n (va + 4) (fun k => p (k + 1)) fun k hk => by
      have := h (k + 1) (by omega)
      rwa [show va + 4 * (k + 1) = va + 4 + 4 * k by omega] at this
    simp only [Nat.mul_zero, Nat.add_zero] at h0
    simp only [State.homeRead, h0, State.passCache_clean s core _ hl hf, ih, List.range_succ_eq_map, List.map_cons, List.map_map]
    rfl

/-- One level of a walk: a valid, well-formed entry with readable words is the leaf, or names the next table (R259). -/
theorem walk_entry {s : State} {ctx va level table pa : Nat} {ds : List Word}
    (hp : table + 16 * bits va (levelShift (level + 1)) (levelBits (level + 1)) = pa) (hd : checkedData (s.physWords pa 4) = some ds)
    (hs : (match physLoc pa with
      | some loc => chargeHome s loc (tally (s.physWords pa 4)).1 (tally (s.physWords pa 4)).2
      | none => s) = s)
    (hv : (natOfWords ds).testBit 0 = true) (hm : pteMalformed (level + 1) (natOfWords ds) = false) :
    walk s ctx va (level + 1) table = if pteLeaf (natOfWords ds) then (.leaf ⟨ctx, spanBase (level + 1) va, level + 1, natOfWords ds⟩, s)
      else walk s ctx va level (pteAddr (natOfWords ds)) := by
  rw [walk]
  cases h : physLoc pa with
  | none => simp only [hp, h, hd, hv, hm, Bool.not_true, Bool.false_eq_true, if_false]
  | some loc =>
    simp only [h] at hs
    simp only [hp, h, hd, hv, hm, Bool.not_true, Bool.false_eq_true, if_false]
    rw [hs]

end Sys2Proof.Machine
end

