-- ==== Sys2Proof/Laws/PerInstr.lean ====
section
/-!
SUPPORT. Sys2Proof/Laws/PerInstr.lean: the family `Encoding`: the fields of each coded instruction fit the segments of its word (R76), with
the laws that read them back. The round trip of the encoder rests on it.
-/

namespace Sys2Proof.Laws

/-- Field values fit the fields of a word, one each, and fixed values their bits. -/
def SegsFit : List Seg → List Nat → Prop
  | [], vs => vs = []
  | .fix n v :: rest, vs => v < 2 ^ n ∧ SegsFit rest vs
  | .fld n :: rest, v :: vs => v < 2 ^ n ∧ SegsFit rest vs
  | .fld _ :: _, [] => False

/-- Bits that segments take. -/
def segsWidth : List Seg → Nat
  | [] => 0
  | .fix n _ :: rest => n + segsWidth rest
  | .fld n :: rest => n + segsWidth rest

/-- Values that fit take no more bits than the segments. -/
theorem packSegs_lt (segs : List Seg) (vs : List Nat) (h : SegsFit segs vs) : packSegs segs vs < 2 ^ segsWidth segs := by
  induction segs generalizing vs with
  | nil => simp [packSegs, segsWidth]
  | cons x rest ih =>
    cases x with
    | fix n v =>
      obtain ⟨hv, hr⟩ := h
      have := ih vs hr
      simp only [packSegs, segsWidth, Nat.pow_add]
      calc v + 2 ^ n * packSegs rest vs < 2 ^ n * (packSegs rest vs + 1) := by rw [Nat.mul_add]; omega
        _ ≤ 2 ^ n * 2 ^ segsWidth rest := Nat.mul_le_mul_left _ this
    | fld n =>
      cases vs with
      | nil => exact h.elim
      | cons v vs =>
        obtain ⟨hv, hr⟩ := h
        have := ih vs hr
        simp only [packSegs, segsWidth, Nat.pow_add]
        calc v + 2 ^ n * packSegs rest vs < 2 ^ n * (packSegs rest vs + 1) := by rw [Nat.mul_add]; omega
          _ ≤ 2 ^ n * 2 ^ segsWidth rest := Nat.mul_le_mul_left _ this

/-- What is packed into segments is read back, whatever bits stand above. -/
theorem readSegs_packSegs (segs : List Seg) (vs : List Nat) (above : Nat) (h : SegsFit segs vs) :
    readSegs segs (packSegs segs vs + 2 ^ segsWidth segs * above) = some vs := by
  induction segs generalizing vs with
  | nil => cases h; rfl
  | cons x rest ih =>
    have split : ∀ n v y, v < 2 ^ n → (v + 2 ^ n * y) % 2 ^ n = v ∧ (v + 2 ^ n * y) / 2 ^ n = y := fun n v y hv =>
      ⟨by rw [Nat.add_mul_mod_self_left, Nat.mod_eq_of_lt hv],
       by rw [Nat.add_mul_div_left _ _ (Nat.two_pow_pos n), Nat.div_eq_of_lt hv, Nat.zero_add]⟩
    have join : ∀ n v y, v + 2 ^ n * y + 2 ^ (n + segsWidth rest) * above = v + 2 ^ n * (y + 2 ^ segsWidth rest * above) := by
      intro n v y; rw [Nat.pow_add]; ring
    cases x with
    | fix n v =>
      obtain ⟨hv, hr⟩ := h
      simp only [packSegs, segsWidth, readSegs, join, split n v _ hv, ih vs hr, if_true]
    | fld n =>
      cases vs with
      | nil => exact h.elim
      | cons v vs =>
        obtain ⟨hv, hr⟩ := h
        simp only [packSegs, segsWidth, readSegs, join, split n v _ hv, ih vs hr, Option.map_some]

namespace Encoding

/-- A coded instruction's word is 31 bits of segments, which its field values fit; bit 31 is the switch marker (R74, R76). -/
def Statement (i : Instr) : Prop :=
  ∀ segs m vs, i.parts = some (segs, m, vs) → SegsFit segs vs ∧ segsWidth segs = 31

theorem powerOn (f : ResetFindings) : Statement (.powerOn f) := nofun
theorem pcieHotReset (f : ResetFindings) : Statement (.pcieHotReset f) := nofun
theorem linkDown (f : ResetFindings) : Statement (.linkDown f) := nofun
theorem functionLevelReset (f : ResetFindings) : Statement (.functionLevelReset f) := nofun
theorem serviceFunctionLevelReset : Statement .serviceFunctionLevelReset := nofun
theorem resetctlRst (f : ResetFindings) : Statement (.resetctlRst f) := nofun
theorem registerWrite (svc : Bool) (off : Nat) (size : Nat) (val : Nat) : Statement (.registerWrite svc off size val) := nofun
theorem lqcfgWrite (q : Nat) (val : Nat) : Statement (.lqcfgWrite q val) := nofun
theorem lqbaseWrite (q : Nat) (high : Bool) (val : Nat) : Statement (.lqbaseWrite q high val) := nofun
theorem lqtailWrite (q : Nat) (val : Nat) : Statement (.lqtailWrite q val) := nofun
theorem mbtailWrite (svc : Bool) (val : Nat) : Statement (.mbtailWrite svc val) := nofun
theorem mbcfgWrite (svc : Bool) (val : Nat) : Statement (.mbcfgWrite svc val) := nofun
theorem msixUnmask (svc : Bool) (vec : Nat) : Statement (.msixUnmask svc vec) := nofun
theorem hostBar2Write (off : Nat) (size : Nat) (val : Nat) : Statement (.hostBar2Write off size val) := nofun
theorem hostBar2Read (off : Nat) (size : Nat) : Statement (.hostBar2Read off size) := nofun
theorem status (svc : Bool) : Statement (.status svc) := nofun
theorem attest (svc : Bool) : Statement (.attest svc) := nofun
theorem fwload (svc : Bool) : Statement (.fwload svc) := nofun
theorem measext (svc : Bool) : Statement (.measext svc) := nofun
theorem domain (svc : Bool) : Statement (.domain svc) := nofun
theorem ctxtable (svc : Bool) : Statement (.ctxtable svc) := nofun
theorem ctxreload (svc : Bool) : Statement (.ctxreload svc) := nofun
theorem svcdone (svc : Bool) : Statement (.svcdone svc) := nofun
theorem tlbinv (svc : Bool) : Statement (.tlbinv svc) := nofun
theorem lodestar (svc : Bool) : Statement (.lodestar svc) := nofun
theorem lodestarUpdate : Statement .lodestarUpdate := nofun
theorem pmcsel (svc : Bool) : Statement (.pmcsel svc) := nofun
theorem errreport (svc : Bool) : Statement (.errreport svc) := nofun
theorem errclear (svc : Bool) : Statement (.errclear svc) := nofun
theorem errthresh (svc : Bool) : Statement (.errthresh svc) := nofun
theorem wick (svc : Bool) : Statement (.wick svc) := nofun
theorem watchdog (svc : Bool) : Statement (.watchdog svc) := nofun
theorem qos (svc : Bool) : Statement (.qos svc) := nofun
theorem quiesce (svc : Bool) (failed : List Nat) : Statement (.quiesce svc failed) := nofun
theorem powercap (svc : Bool) : Statement (.powercap svc) := nofun
theorem patrol (svc : Bool) : Statement (.patrol svc) := nofun
theorem patrolRead (cell : Nat) : Statement (.patrolRead cell) := nofun
theorem thermalStop (island : Nat) : Statement (.thermalStop island) := nofun
theorem operatingPointChange (island : Nat) (point : Nat) : Statement (.operatingPointChange island point) := nofun
theorem ageingMonitorReport (unit : Nat) : Statement (.ageingMonitorReport unit) := nofun
theorem systemAccessTimeout (a : Agent) (lanes : Nat) : Statement (.systemAccessTimeout a lanes) := nofun
theorem launchRecordTake : Statement .launchRecordTake := nofun
theorem workgroupDispatch : Statement .workgroupDispatch := nofun
theorem workgroupStart (wg : Nat) : Statement (.workgroupStart wg) := nofun
theorem preemptionDeadline (wg : Nat) : Statement (.preemptionDeadline wg) := nofun
theorem saveRecordWrite (wg : Nat) : Statement (.saveRecordWrite wg) := nofun
theorem launchComplete (uid : Nat) : Statement (.launchComplete uid) := nofun
theorem resultWriteback (a : Agent) (idx : Nat) : Statement (.resultWriteback a idx) := nofun
theorem splitGatherArrival (a : Agent) (entry : Nat) (lane : Nat) : Statement (.splitGatherArrival a entry lane) := nofun
theorem sectionRequestArrival (msg : Nat) : Statement (.sectionRequestArrival msg) := nofun
theorem sectionRetryArrival (msg : Nat) : Statement (.sectionRetryArrival msg) := nofun
theorem cancelArrival (msg : Nat) : Statement (.cancelArrival msg) := nofun
theorem sectionStart (lantern : Nat) : Statement (.sectionStart lantern) := nofun
theorem sectionStepLimit (lantern : Nat) : Statement (.sectionStepLimit lantern) := nofun
theorem sectionResultArrival (msg : Nat) : Statement (.sectionResultArrival msg) := nofun
theorem nackArrival (msg : Nat) : Statement (.nackArrival msg) := nofun
theorem nackRetryTimer (msg : Nat) : Statement (.nackRetryTimer msg) := nofun
theorem wakeArrival (msg : Nat) : Statement (.wakeArrival msg) := nofun
theorem matrixStep (core : Nat) : Statement (.matrixStep core) := nofun
theorem copyCommandRun (core : Nat) (quarter : Nat) (words : Nat) : Statement (.copyCommandRun core quarter words) := nofun
theorem engineFaultDelivery (a : Agent) : Statement (.engineFaultDelivery a) := nofun
theorem wickRefillWindow (island : Nat) : Statement (.wickRefillWindow island) := nofun
theorem qosBudgetWindow (port : Nat) : Statement (.qosBudgetWindow port) := nofun
theorem stallHintRaise (input : Nat) : Statement (.stallHintRaise input) := nofun
theorem stallHintClear (input : Nat) : Statement (.stallHintClear input) := nofun
theorem pauseExpiry (a : Agent) : Statement (.pauseExpiry a) := nofun
theorem regWaitExpiry (a : Agent) : Statement (.regWaitExpiry a) := nofun
theorem barrierStallExpiry (a : Agent) (entry : Nat) : Statement (.barrierStallExpiry a entry) := nofun
theorem pauseLoopExpiry (a : Agent) : Statement (.pauseLoopExpiry a) := nofun
theorem faultRecordFlush (ctx : Nat) : Statement (.faultRecordFlush ctx) := nofun
theorem illegalInstruction : Statement .illegalInstruction := nofun
theorem add32 (m : Mods) (d : BitVec 7) (a : BitVec 7) (b : BitVec 7) : Statement (.add32 m d a b) := by
  rintro _ _ _ ⟨⟩; exact ⟨by simp [SegsFit]; omega, rfl⟩
theorem sub32 (m : Mods) (d : BitVec 7) (a : BitVec 7) (b : BitVec 7) : Statement (.sub32 m d a b) := by
  rintro _ _ _ ⟨⟩; exact ⟨by simp [SegsFit]; omega, rfl⟩
theorem mul32 (m : Mods) (d : BitVec 7) (a : BitVec 7) (b : BitVec 7) : Statement (.mul32 m d a b) := by
  rintro _ _ _ ⟨⟩; exact ⟨by simp [SegsFit]; omega, rfl⟩
theorem mad32 (m : Mods) (d : BitVec 7) (a : BitVec 7) (b : BitVec 7) : Statement (.mad32 m d a b) := by
  rintro _ _ _ ⟨⟩; exact ⟨by simp [SegsFit]; omega, rfl⟩
theorem mulhiS32 (m : Mods) (d : BitVec 7) (a : BitVec 7) (b : BitVec 7) : Statement (.mulhiS32 m d a b) := by
  rintro _ _ _ ⟨⟩; exact ⟨by simp [SegsFit]; omega, rfl⟩
theorem mulhiZ32 (m : Mods) (d : BitVec 7) (a : BitVec 7) (b : BitVec 7) : Statement (.mulhiZ32 m d a b) := by
  rintro _ _ _ ⟨⟩; exact ⟨by simp [SegsFit]; omega, rfl⟩
theorem abs32 (m : Mods) (d : BitVec 7) (a : BitVec 7) : Statement (.abs32 m d a) := by
  rintro _ _ _ ⟨⟩; exact ⟨by simp [SegsFit]; omega, rfl⟩
theorem neg32 (m : Mods) (d : BitVec 7) (a : BitVec 7) : Statement (.neg32 m d a) := by
  rintro _ _ _ ⟨⟩; exact ⟨by simp [SegsFit]; omega, rfl⟩
theorem add64 (m : Mods) (d : BitVec 7) (a : BitVec 7) (b : BitVec 7) : Statement (.add64 m d a b) := by
  rintro _ _ _ ⟨⟩; exact ⟨by simp [SegsFit]; omega, rfl⟩
theorem sub64 (m : Mods) (d : BitVec 7) (a : BitVec 7) (b : BitVec 7) : Statement (.sub64 m d a b) := by
  rintro _ _ _ ⟨⟩; exact ⟨by simp [SegsFit]; omega, rfl⟩
theorem mul64 (m : Mods) (d : BitVec 7) (a : BitVec 7) (b : BitVec 7) : Statement (.mul64 m d a b) := by
  rintro _ _ _ ⟨⟩; exact ⟨by simp [SegsFit]; omega, rfl⟩
theorem mad64 (m : Mods) (d : BitVec 7) (a : BitVec 7) (b : BitVec 7) : Statement (.mad64 m d a b) := by
  rintro _ _ _ ⟨⟩; exact ⟨by simp [SegsFit]; omega, rfl⟩
theorem mulhiS64 (m : Mods) (d : BitVec 7) (a : BitVec 7) (b : BitVec 7) : Statement (.mulhiS64 m d a b) := by
  rintro _ _ _ ⟨⟩; exact ⟨by simp [SegsFit]; omega, rfl⟩
theorem mulhiZ64 (m : Mods) (d : BitVec 7) (a : BitVec 7) (b : BitVec 7) : Statement (.mulhiZ64 m d a b) := by
  rintro _ _ _ ⟨⟩; exact ⟨by simp [SegsFit]; omega, rfl⟩
theorem abs64 (m : Mods) (d : BitVec 7) (a : BitVec 7) : Statement (.abs64 m d a) := by
  rintro _ _ _ ⟨⟩; exact ⟨by simp [SegsFit]; omega, rfl⟩
theorem neg64 (m : Mods) (d : BitVec 7) (a : BitVec 7) : Statement (.neg64 m d a) := by
  rintro _ _ _ ⟨⟩; exact ⟨by simp [SegsFit]; omega, rfl⟩
theorem addSc (m : Mods) (d : BitVec 7) (a : BitVec 7) (b : BitVec 7) : Statement (.addSc m d a b) := by
  rintro _ _ _ ⟨⟩; exact ⟨by simp [SegsFit]; omega, rfl⟩
theorem subSc (m : Mods) (d : BitVec 7) (a : BitVec 7) (b : BitVec 7) : Statement (.subSc m d a b) := by
  rintro _ _ _ ⟨⟩; exact ⟨by simp [SegsFit]; omega, rfl⟩
theorem mulSc (m : Mods) (d : BitVec 7) (a : BitVec 7) (b : BitVec 7) : Statement (.mulSc m d a b) := by
  rintro _ _ _ ⟨⟩; exact ⟨by simp [SegsFit]; omega, rfl⟩
theorem madSc (m : Mods) (d : BitVec 7) (a : BitVec 7) (b : BitVec 7) : Statement (.madSc m d a b) := by
  rintro _ _ _ ⟨⟩; exact ⟨by simp [SegsFit]; omega, rfl⟩
theorem mulhiSSc (m : Mods) (d : BitVec 7) (a : BitVec 7) (b : BitVec 7) : Statement (.mulhiSSc m d a b) := by
  rintro _ _ _ ⟨⟩; exact ⟨by simp [SegsFit]; omega, rfl⟩
theorem mulhiZSc (m : Mods) (d : BitVec 7) (a : BitVec 7) (b : BitVec 7) : Statement (.mulhiZSc m d a b) := by
  rintro _ _ _ ⟨⟩; exact ⟨by simp [SegsFit]; omega, rfl⟩
theorem absSc (m : Mods) (d : BitVec 7) (a : BitVec 7) : Statement (.absSc m d a) := by
  rintro _ _ _ ⟨⟩; exact ⟨by simp [SegsFit]; omega, rfl⟩
theorem negSc (m : Mods) (d : BitVec 7) (a : BitVec 7) : Statement (.negSc m d a) := by
  rintro _ _ _ ⟨⟩; exact ⟨by simp [SegsFit]; omega, rfl⟩
theorem minS32 (m : Mods) (d : BitVec 7) (a : BitVec 7) (b : BitVec 7) : Statement (.minS32 m d a b) := by
  rintro _ _ _ ⟨⟩; exact ⟨by simp [SegsFit]; omega, rfl⟩
theorem minZ32 (m : Mods) (d : BitVec 7) (a : BitVec 7) (b : BitVec 7) : Statement (.minZ32 m d a b) := by
  rintro _ _ _ ⟨⟩; exact ⟨by simp [SegsFit]; omega, rfl⟩
theorem maxS32 (m : Mods) (d : BitVec 7) (a : BitVec 7) (b : BitVec 7) : Statement (.maxS32 m d a b) := by
  rintro _ _ _ ⟨⟩; exact ⟨by simp [SegsFit]; omega, rfl⟩
theorem maxZ32 (m : Mods) (d : BitVec 7) (a : BitVec 7) (b : BitVec 7) : Statement (.maxZ32 m d a b) := by
  rintro _ _ _ ⟨⟩; exact ⟨by simp [SegsFit]; omega, rfl⟩
theorem divS32 (m : Mods) (d : BitVec 7) (a : BitVec 7) (b : BitVec 7) : Statement (.divS32 m d a b) := by
  rintro _ _ _ ⟨⟩; exact ⟨by simp [SegsFit]; omega, rfl⟩
theorem divZ32 (m : Mods) (d : BitVec 7) (a : BitVec 7) (b : BitVec 7) : Statement (.divZ32 m d a b) := by
  rintro _ _ _ ⟨⟩; exact ⟨by simp [SegsFit]; omega, rfl⟩
theorem remS32 (m : Mods) (d : BitVec 7) (a : BitVec 7) (b : BitVec 7) : Statement (.remS32 m d a b) := by
  rintro _ _ _ ⟨⟩; exact ⟨by simp [SegsFit]; omega, rfl⟩
theorem remZ32 (m : Mods) (d : BitVec 7) (a : BitVec 7) (b : BitVec 7) : Statement (.remZ32 m d a b) := by
  rintro _ _ _ ⟨⟩; exact ⟨by simp [SegsFit]; omega, rfl⟩
theorem minS64 (m : Mods) (d : BitVec 7) (a : BitVec 7) (b : BitVec 7) : Statement (.minS64 m d a b) := by
  rintro _ _ _ ⟨⟩; exact ⟨by simp [SegsFit]; omega, rfl⟩
theorem minZ64 (m : Mods) (d : BitVec 7) (a : BitVec 7) (b : BitVec 7) : Statement (.minZ64 m d a b) := by
  rintro _ _ _ ⟨⟩; exact ⟨by simp [SegsFit]; omega, rfl⟩
theorem maxS64 (m : Mods) (d : BitVec 7) (a : BitVec 7) (b : BitVec 7) : Statement (.maxS64 m d a b) := by
  rintro _ _ _ ⟨⟩; exact ⟨by simp [SegsFit]; omega, rfl⟩
theorem maxZ64 (m : Mods) (d : BitVec 7) (a : BitVec 7) (b : BitVec 7) : Statement (.maxZ64 m d a b) := by
  rintro _ _ _ ⟨⟩; exact ⟨by simp [SegsFit]; omega, rfl⟩
theorem divS64 (m : Mods) (d : BitVec 7) (a : BitVec 7) (b : BitVec 7) : Statement (.divS64 m d a b) := by
  rintro _ _ _ ⟨⟩; exact ⟨by simp [SegsFit]; omega, rfl⟩
theorem divZ64 (m : Mods) (d : BitVec 7) (a : BitVec 7) (b : BitVec 7) : Statement (.divZ64 m d a b) := by
  rintro _ _ _ ⟨⟩; exact ⟨by simp [SegsFit]; omega, rfl⟩
theorem remS64 (m : Mods) (d : BitVec 7) (a : BitVec 7) (b : BitVec 7) : Statement (.remS64 m d a b) := by
  rintro _ _ _ ⟨⟩; exact ⟨by simp [SegsFit]; omega, rfl⟩
theorem remZ64 (m : Mods) (d : BitVec 7) (a : BitVec 7) (b : BitVec 7) : Statement (.remZ64 m d a b) := by
  rintro _ _ _ ⟨⟩; exact ⟨by simp [SegsFit]; omega, rfl⟩
theorem minSSc (m : Mods) (d : BitVec 7) (a : BitVec 7) (b : BitVec 7) : Statement (.minSSc m d a b) := by
  rintro _ _ _ ⟨⟩; exact ⟨by simp [SegsFit]; omega, rfl⟩
theorem minZSc (m : Mods) (d : BitVec 7) (a : BitVec 7) (b : BitVec 7) : Statement (.minZSc m d a b) := by
  rintro _ _ _ ⟨⟩; exact ⟨by simp [SegsFit]; omega, rfl⟩
theorem maxSSc (m : Mods) (d : BitVec 7) (a : BitVec 7) (b : BitVec 7) : Statement (.maxSSc m d a b) := by
  rintro _ _ _ ⟨⟩; exact ⟨by simp [SegsFit]; omega, rfl⟩
theorem maxZSc (m : Mods) (d : BitVec 7) (a : BitVec 7) (b : BitVec 7) : Statement (.maxZSc m d a b) := by
  rintro _ _ _ ⟨⟩; exact ⟨by simp [SegsFit]; omega, rfl⟩
theorem divSSc (m : Mods) (d : BitVec 7) (a : BitVec 7) (b : BitVec 7) : Statement (.divSSc m d a b) := by
  rintro _ _ _ ⟨⟩; exact ⟨by simp [SegsFit]; omega, rfl⟩
theorem divZSc (m : Mods) (d : BitVec 7) (a : BitVec 7) (b : BitVec 7) : Statement (.divZSc m d a b) := by
  rintro _ _ _ ⟨⟩; exact ⟨by simp [SegsFit]; omega, rfl⟩
theorem remSSc (m : Mods) (d : BitVec 7) (a : BitVec 7) (b : BitVec 7) : Statement (.remSSc m d a b) := by
  rintro _ _ _ ⟨⟩; exact ⟨by simp [SegsFit]; omega, rfl⟩
theorem remZSc (m : Mods) (d : BitVec 7) (a : BitVec 7) (b : BitVec 7) : Statement (.remZSc m d a b) := by
  rintro _ _ _ ⟨⟩; exact ⟨by simp [SegsFit]; omega, rfl⟩
theorem and32 (m : Mods) (d : BitVec 7) (a : BitVec 7) (b : BitVec 7) : Statement (.and32 m d a b) := by
  rintro _ _ _ ⟨⟩; exact ⟨by simp [SegsFit]; omega, rfl⟩
theorem or32 (m : Mods) (d : BitVec 7) (a : BitVec 7) (b : BitVec 7) : Statement (.or32 m d a b) := by
  rintro _ _ _ ⟨⟩; exact ⟨by simp [SegsFit]; omega, rfl⟩
theorem xor32 (m : Mods) (d : BitVec 7) (a : BitVec 7) (b : BitVec 7) : Statement (.xor32 m d a b) := by
  rintro _ _ _ ⟨⟩; exact ⟨by simp [SegsFit]; omega, rfl⟩
theorem not32 (m : Mods) (d : BitVec 7) (a : BitVec 7) : Statement (.not32 m d a) := by
  rintro _ _ _ ⟨⟩; exact ⟨by simp [SegsFit]; omega, rfl⟩
theorem popc32 (m : Mods) (d : BitVec 7) (a : BitVec 7) : Statement (.popc32 m d a) := by
  rintro _ _ _ ⟨⟩; exact ⟨by simp [SegsFit]; omega, rfl⟩
theorem clz32 (m : Mods) (d : BitVec 7) (a : BitVec 7) : Statement (.clz32 m d a) := by
  rintro _ _ _ ⟨⟩; exact ⟨by simp [SegsFit]; omega, rfl⟩
theorem ctz32 (m : Mods) (d : BitVec 7) (a : BitVec 7) : Statement (.ctz32 m d a) := by
  rintro _ _ _ ⟨⟩; exact ⟨by simp [SegsFit]; omega, rfl⟩
theorem brev32 (m : Mods) (d : BitVec 7) (a : BitVec 7) : Statement (.brev32 m d a) := by
  rintro _ _ _ ⟨⟩; exact ⟨by simp [SegsFit]; omega, rfl⟩
theorem and64 (m : Mods) (d : BitVec 7) (a : BitVec 7) (b : BitVec 7) : Statement (.and64 m d a b) := by
  rintro _ _ _ ⟨⟩; exact ⟨by simp [SegsFit]; omega, rfl⟩
theorem or64 (m : Mods) (d : BitVec 7) (a : BitVec 7) (b : BitVec 7) : Statement (.or64 m d a b) := by
  rintro _ _ _ ⟨⟩; exact ⟨by simp [SegsFit]; omega, rfl⟩
theorem xor64 (m : Mods) (d : BitVec 7) (a : BitVec 7) (b : BitVec 7) : Statement (.xor64 m d a b) := by
  rintro _ _ _ ⟨⟩; exact ⟨by simp [SegsFit]; omega, rfl⟩
theorem not64 (m : Mods) (d : BitVec 7) (a : BitVec 7) : Statement (.not64 m d a) := by
  rintro _ _ _ ⟨⟩; exact ⟨by simp [SegsFit]; omega, rfl⟩
theorem popc64 (m : Mods) (d : BitVec 7) (a : BitVec 7) : Statement (.popc64 m d a) := by
  rintro _ _ _ ⟨⟩; exact ⟨by simp [SegsFit]; omega, rfl⟩
theorem clz64 (m : Mods) (d : BitVec 7) (a : BitVec 7) : Statement (.clz64 m d a) := by
  rintro _ _ _ ⟨⟩; exact ⟨by simp [SegsFit]; omega, rfl⟩
theorem ctz64 (m : Mods) (d : BitVec 7) (a : BitVec 7) : Statement (.ctz64 m d a) := by
  rintro _ _ _ ⟨⟩; exact ⟨by simp [SegsFit]; omega, rfl⟩
theorem brev64 (m : Mods) (d : BitVec 7) (a : BitVec 7) : Statement (.brev64 m d a) := by
  rintro _ _ _ ⟨⟩; exact ⟨by simp [SegsFit]; omega, rfl⟩
theorem andSc (m : Mods) (d : BitVec 7) (a : BitVec 7) (b : BitVec 7) : Statement (.andSc m d a b) := by
  rintro _ _ _ ⟨⟩; exact ⟨by simp [SegsFit]; omega, rfl⟩
theorem orSc (m : Mods) (d : BitVec 7) (a : BitVec 7) (b : BitVec 7) : Statement (.orSc m d a b) := by
  rintro _ _ _ ⟨⟩; exact ⟨by simp [SegsFit]; omega, rfl⟩
theorem xorSc (m : Mods) (d : BitVec 7) (a : BitVec 7) (b : BitVec 7) : Statement (.xorSc m d a b) := by
  rintro _ _ _ ⟨⟩; exact ⟨by simp [SegsFit]; omega, rfl⟩
theorem notSc (m : Mods) (d : BitVec 7) (a : BitVec 7) : Statement (.notSc m d a) := by
  rintro _ _ _ ⟨⟩; exact ⟨by simp [SegsFit]; omega, rfl⟩
theorem popcSc (m : Mods) (d : BitVec 7) (a : BitVec 7) : Statement (.popcSc m d a) := by
  rintro _ _ _ ⟨⟩; exact ⟨by simp [SegsFit]; omega, rfl⟩
theorem clzSc (m : Mods) (d : BitVec 7) (a : BitVec 7) : Statement (.clzSc m d a) := by
  rintro _ _ _ ⟨⟩; exact ⟨by simp [SegsFit]; omega, rfl⟩
theorem ctzSc (m : Mods) (d : BitVec 7) (a : BitVec 7) : Statement (.ctzSc m d a) := by
  rintro _ _ _ ⟨⟩; exact ⟨by simp [SegsFit]; omega, rfl⟩
theorem brevSc (m : Mods) (d : BitVec 7) (a : BitVec 7) : Statement (.brevSc m d a) := by
  rintro _ _ _ ⟨⟩; exact ⟨by simp [SegsFit]; omega, rfl⟩
theorem shl32 (m : Mods) (d : BitVec 7) (a : BitVec 7) (b : BitVec 7) : Statement (.shl32 m d a b) := by
  rintro _ _ _ ⟨⟩; exact ⟨by simp [SegsFit]; omega, rfl⟩
theorem shr32 (m : Mods) (d : BitVec 7) (a : BitVec 7) (b : BitVec 7) : Statement (.shr32 m d a b) := by
  rintro _ _ _ ⟨⟩; exact ⟨by simp [SegsFit]; omega, rfl⟩
theorem sar32 (m : Mods) (d : BitVec 7) (a : BitVec 7) (b : BitVec 7) : Statement (.sar32 m d a b) := by
  rintro _ _ _ ⟨⟩; exact ⟨by simp [SegsFit]; omega, rfl⟩
theorem rotl32 (m : Mods) (d : BitVec 7) (a : BitVec 7) (b : BitVec 7) : Statement (.rotl32 m d a b) := by
  rintro _ _ _ ⟨⟩; exact ⟨by simp [SegsFit]; omega, rfl⟩
theorem bfxS32 (m : Mods) (d : BitVec 7) (a : BitVec 7) (b : BitVec 7) : Statement (.bfxS32 m d a b) := by
  rintro _ _ _ ⟨⟩; exact ⟨by simp [SegsFit]; omega, rfl⟩
theorem bfxZ32 (m : Mods) (d : BitVec 7) (a : BitVec 7) (b : BitVec 7) : Statement (.bfxZ32 m d a b) := by
  rintro _ _ _ ⟨⟩; exact ⟨by simp [SegsFit]; omega, rfl⟩
theorem bfi32 (m : Mods) (d : BitVec 7) (a : BitVec 7) (b : BitVec 7) : Statement (.bfi32 m d a b) := by
  rintro _ _ _ ⟨⟩; exact ⟨by simp [SegsFit]; omega, rfl⟩
theorem shl64 (m : Mods) (d : BitVec 7) (a : BitVec 7) (b : BitVec 7) : Statement (.shl64 m d a b) := by
  rintro _ _ _ ⟨⟩; exact ⟨by simp [SegsFit]; omega, rfl⟩
theorem shr64 (m : Mods) (d : BitVec 7) (a : BitVec 7) (b : BitVec 7) : Statement (.shr64 m d a b) := by
  rintro _ _ _ ⟨⟩; exact ⟨by simp [SegsFit]; omega, rfl⟩
theorem sar64 (m : Mods) (d : BitVec 7) (a : BitVec 7) (b : BitVec 7) : Statement (.sar64 m d a b) := by
  rintro _ _ _ ⟨⟩; exact ⟨by simp [SegsFit]; omega, rfl⟩
theorem rotl64 (m : Mods) (d : BitVec 7) (a : BitVec 7) (b : BitVec 7) : Statement (.rotl64 m d a b) := by
  rintro _ _ _ ⟨⟩; exact ⟨by simp [SegsFit]; omega, rfl⟩
theorem bfxS64 (m : Mods) (d : BitVec 7) (a : BitVec 7) (b : BitVec 7) : Statement (.bfxS64 m d a b) := by
  rintro _ _ _ ⟨⟩; exact ⟨by simp [SegsFit]; omega, rfl⟩
theorem bfxZ64 (m : Mods) (d : BitVec 7) (a : BitVec 7) (b : BitVec 7) : Statement (.bfxZ64 m d a b) := by
  rintro _ _ _ ⟨⟩; exact ⟨by simp [SegsFit]; omega, rfl⟩
theorem bfi64 (m : Mods) (d : BitVec 7) (a : BitVec 7) (b : BitVec 7) : Statement (.bfi64 m d a b) := by
  rintro _ _ _ ⟨⟩; exact ⟨by simp [SegsFit]; omega, rfl⟩
theorem shlSc (m : Mods) (d : BitVec 7) (a : BitVec 7) (b : BitVec 7) : Statement (.shlSc m d a b) := by
  rintro _ _ _ ⟨⟩; exact ⟨by simp [SegsFit]; omega, rfl⟩
theorem shrSc (m : Mods) (d : BitVec 7) (a : BitVec 7) (b : BitVec 7) : Statement (.shrSc m d a b) := by
  rintro _ _ _ ⟨⟩; exact ⟨by simp [SegsFit]; omega, rfl⟩
theorem sarSc (m : Mods) (d : BitVec 7) (a : BitVec 7) (b : BitVec 7) : Statement (.sarSc m d a b) := by
  rintro _ _ _ ⟨⟩; exact ⟨by simp [SegsFit]; omega, rfl⟩
theorem rotlSc (m : Mods) (d : BitVec 7) (a : BitVec 7) (b : BitVec 7) : Statement (.rotlSc m d a b) := by
  rintro _ _ _ ⟨⟩; exact ⟨by simp [SegsFit]; omega, rfl⟩
theorem bfxSSc (m : Mods) (d : BitVec 7) (a : BitVec 7) (b : BitVec 7) : Statement (.bfxSSc m d a b) := by
  rintro _ _ _ ⟨⟩; exact ⟨by simp [SegsFit]; omega, rfl⟩
theorem bfxZSc (m : Mods) (d : BitVec 7) (a : BitVec 7) (b : BitVec 7) : Statement (.bfxZSc m d a b) := by
  rintro _ _ _ ⟨⟩; exact ⟨by simp [SegsFit]; omega, rfl⟩
theorem bfiSc (m : Mods) (d : BitVec 7) (a : BitVec 7) (b : BitVec 7) : Statement (.bfiSc m d a b) := by
  rintro _ _ _ ⟨⟩; exact ⟨by simp [SegsFit]; omega, rfl⟩
theorem cmpEq32 (m : Mods) (d : BitVec 3) (a : BitVec 7) (b : BitVec 7) : Statement (.cmpEq32 m d a b) := by
  rintro _ _ _ ⟨⟩; exact ⟨by simp [SegsFit]; omega, rfl⟩
theorem cmpNe32 (m : Mods) (d : BitVec 3) (a : BitVec 7) (b : BitVec 7) : Statement (.cmpNe32 m d a b) := by
  rintro _ _ _ ⟨⟩; exact ⟨by simp [SegsFit]; omega, rfl⟩
theorem cmpLtS32 (m : Mods) (d : BitVec 3) (a : BitVec 7) (b : BitVec 7) : Statement (.cmpLtS32 m d a b) := by
  rintro _ _ _ ⟨⟩; exact ⟨by simp [SegsFit]; omega, rfl⟩
theorem cmpGeS32 (m : Mods) (d : BitVec 3) (a : BitVec 7) (b : BitVec 7) : Statement (.cmpGeS32 m d a b) := by
  rintro _ _ _ ⟨⟩; exact ⟨by simp [SegsFit]; omega, rfl⟩
theorem cmpLtZ32 (m : Mods) (d : BitVec 3) (a : BitVec 7) (b : BitVec 7) : Statement (.cmpLtZ32 m d a b) := by
  rintro _ _ _ ⟨⟩; exact ⟨by simp [SegsFit]; omega, rfl⟩
theorem cmpGeZ32 (m : Mods) (d : BitVec 3) (a : BitVec 7) (b : BitVec 7) : Statement (.cmpGeZ32 m d a b) := by
  rintro _ _ _ ⟨⟩; exact ⟨by simp [SegsFit]; omega, rfl⟩
theorem cmpTst32 (m : Mods) (d : BitVec 3) (a : BitVec 7) (b : BitVec 7) : Statement (.cmpTst32 m d a b) := by
  rintro _ _ _ ⟨⟩; exact ⟨by simp [SegsFit]; omega, rfl⟩
theorem cmpEq64 (m : Mods) (d : BitVec 3) (a : BitVec 7) (b : BitVec 7) : Statement (.cmpEq64 m d a b) := by
  rintro _ _ _ ⟨⟩; exact ⟨by simp [SegsFit]; omega, rfl⟩
theorem cmpNe64 (m : Mods) (d : BitVec 3) (a : BitVec 7) (b : BitVec 7) : Statement (.cmpNe64 m d a b) := by
  rintro _ _ _ ⟨⟩; exact ⟨by simp [SegsFit]; omega, rfl⟩
theorem cmpLtS64 (m : Mods) (d : BitVec 3) (a : BitVec 7) (b : BitVec 7) : Statement (.cmpLtS64 m d a b) := by
  rintro _ _ _ ⟨⟩; exact ⟨by simp [SegsFit]; omega, rfl⟩
theorem cmpGeS64 (m : Mods) (d : BitVec 3) (a : BitVec 7) (b : BitVec 7) : Statement (.cmpGeS64 m d a b) := by
  rintro _ _ _ ⟨⟩; exact ⟨by simp [SegsFit]; omega, rfl⟩
theorem cmpLtZ64 (m : Mods) (d : BitVec 3) (a : BitVec 7) (b : BitVec 7) : Statement (.cmpLtZ64 m d a b) := by
  rintro _ _ _ ⟨⟩; exact ⟨by simp [SegsFit]; omega, rfl⟩
theorem cmpGeZ64 (m : Mods) (d : BitVec 3) (a : BitVec 7) (b : BitVec 7) : Statement (.cmpGeZ64 m d a b) := by
  rintro _ _ _ ⟨⟩; exact ⟨by simp [SegsFit]; omega, rfl⟩
theorem cmpTst64 (m : Mods) (d : BitVec 3) (a : BitVec 7) (b : BitVec 7) : Statement (.cmpTst64 m d a b) := by
  rintro _ _ _ ⟨⟩; exact ⟨by simp [SegsFit]; omega, rfl⟩
theorem cmpEqSc (m : Mods) (d : BitVec 3) (a : BitVec 7) (b : BitVec 7) : Statement (.cmpEqSc m d a b) := by
  rintro _ _ _ ⟨⟩; exact ⟨by simp [SegsFit]; omega, rfl⟩
theorem cmpNeSc (m : Mods) (d : BitVec 3) (a : BitVec 7) (b : BitVec 7) : Statement (.cmpNeSc m d a b) := by
  rintro _ _ _ ⟨⟩; exact ⟨by simp [SegsFit]; omega, rfl⟩
theorem cmpLtSSc (m : Mods) (d : BitVec 3) (a : BitVec 7) (b : BitVec 7) : Statement (.cmpLtSSc m d a b) := by
  rintro _ _ _ ⟨⟩; exact ⟨by simp [SegsFit]; omega, rfl⟩
theorem cmpGeSSc (m : Mods) (d : BitVec 3) (a : BitVec 7) (b : BitVec 7) : Statement (.cmpGeSSc m d a b) := by
  rintro _ _ _ ⟨⟩; exact ⟨by simp [SegsFit]; omega, rfl⟩
theorem cmpLtZSc (m : Mods) (d : BitVec 3) (a : BitVec 7) (b : BitVec 7) : Statement (.cmpLtZSc m d a b) := by
  rintro _ _ _ ⟨⟩; exact ⟨by simp [SegsFit]; omega, rfl⟩
theorem cmpGeZSc (m : Mods) (d : BitVec 3) (a : BitVec 7) (b : BitVec 7) : Statement (.cmpGeZSc m d a b) := by
  rintro _ _ _ ⟨⟩; exact ⟨by simp [SegsFit]; omega, rfl⟩
theorem cmpTstSc (m : Mods) (d : BitVec 3) (a : BitVec 7) (b : BitVec 7) : Statement (.cmpTstSc m d a b) := by
  rintro _ _ _ ⟨⟩; exact ⟨by simp [SegsFit]; omega, rfl⟩
theorem movVv (m : Mods) (d : BitVec 7) (a : BitVec 7) : Statement (.movVv m d a) := by
  rintro _ _ _ ⟨⟩; exact ⟨by simp [SegsFit]; omega, rfl⟩
theorem movVs (m : Mods) (d : BitVec 7) (a : BitVec 7) : Statement (.movVs m d a) := by
  rintro _ _ _ ⟨⟩; exact ⟨by simp [SegsFit]; omega, rfl⟩
theorem movSv (m : Mods) (d : BitVec 7) (a : BitVec 7) : Statement (.movSv m d a) := by
  rintro _ _ _ ⟨⟩; exact ⟨by simp [SegsFit]; omega, rfl⟩
theorem movSs (m : Mods) (d : BitVec 7) (a : BitVec 7) : Statement (.movSs m d a) := by
  rintro _ _ _ ⟨⟩; exact ⟨by simp [SegsFit]; omega, rfl⟩
theorem aadd (m : Mods) (d : BitVec 6) (a : BitVec 6) (b : BitVec 6) : Statement (.aadd m d a b) := by
  rintro _ _ _ ⟨⟩; exact ⟨by simp [SegsFit]; omega, rfl⟩
theorem slid (m : Mods) (d : BitVec 7) (a : BitVec 7) (b : BitVec 7) : Statement (.slid m d a b) := by
  rintro _ _ _ ⟨⟩; exact ⟨by simp [SegsFit]; omega, rfl⟩
theorem sel (m : Mods) (d : BitVec 7) (a : BitVec 3) (b : BitVec 7) : Statement (.sel m d a b) := by
  rintro _ _ _ ⟨⟩; exact ⟨by simp [SegsFit]; omega, rfl⟩
theorem vshfl (m : Mods) (d : BitVec 7) (a : BitVec 7) (b : BitVec 7) : Statement (.vshfl m d a b) := by
  rintro _ _ _ ⟨⟩; exact ⟨by simp [SegsFit]; omega, rfl⟩
theorem vbcast (m : Mods) (d : BitVec 7) (a : BitVec 7) (b : BitVec 7) : Statement (.vbcast m d a b) := by
  rintro _ _ _ ⟨⟩; exact ⟨by simp [SegsFit]; omega, rfl⟩
theorem vrot (m : Mods) (d : BitVec 7) (a : BitVec 7) (b : BitVec 7) : Statement (.vrot m d a b) := by
  rintro _ _ _ ⟨⟩; exact ⟨by simp [SegsFit]; omega, rfl⟩
theorem vconf (m : Mods) (d : BitVec 7) (a : BitVec 7) : Statement (.vconf m d a) := by
  rintro _ _ _ ⟨⟩; exact ⟨by simp [SegsFit]; omega, rfl⟩
theorem vmatch (m : Mods) (d : BitVec 7) (a : BitVec 7) : Statement (.vmatch m d a) := by
  rintro _ _ _ ⟨⟩; exact ⟨by simp [SegsFit]; omega, rfl⟩
theorem vcompact (m : Mods) (d : BitVec 7) (a : BitVec 7) : Statement (.vcompact m d a) := by
  rintro _ _ _ ⟨⟩; exact ⟨by simp [SegsFit]; omega, rfl⟩
theorem vballot (m : Mods) (d : BitVec 7) (a : BitVec 7) : Statement (.vballot m d a) := by
  rintro _ _ _ ⟨⟩; exact ⟨by simp [SegsFit]; omega, rfl⟩
theorem vscan (m : Mods) (f : BitVec 3) (d : BitVec 7) (a : BitVec 7) (b : BitVec 7) : Statement (.vscan m f d a b) := by
  rintro _ _ _ ⟨⟩; exact ⟨by simp [SegsFit]; omega, rfl⟩
theorem vred (m : Mods) (f : BitVec 3) (d : BitVec 7) (a : BitVec 7) : Statement (.vred m f d a) := by
  rintro _ _ _ ⟨⟩; exact ⟨by simp [SegsFit]; omega, rfl⟩
theorem vcomb (m : Mods) (f : BitVec 3) (d : BitVec 7) (a : BitVec 7) (b : BitVec 7) : Statement (.vcomb m f d a b) := by
  rintro _ _ _ ⟨⟩; exact ⟨by simp [SegsFit]; omega, rfl⟩
theorem moviV (m : Mods) (d : BitVec 7) (i : BitVec 17) : Statement (.moviV m d i) := by
  rintro _ _ _ ⟨⟩; exact ⟨by simp [SegsFit]; omega, rfl⟩
theorem moviS (m : Mods) (d : BitVec 7) (i : BitVec 17) : Statement (.moviS m d i) := by
  rintro _ _ _ ⟨⟩; exact ⟨by simp [SegsFit]; omega, rfl⟩
theorem moviHi (m : Mods) (d : BitVec 7) (i : BitVec 17) : Statement (.moviHi m d i) := by
  rintro _ _ _ ⟨⟩; exact ⟨by simp [SegsFit]; omega, rfl⟩
theorem cvt (m : Mods) (d : BitVec 7) (a : BitVec 7) (t : BitVec 5) (u : BitVec 5) : Statement (.cvt m d a t u) := by
  rintro _ _ _ ⟨⟩; exact ⟨by simp [SegsFit]; omega, rfl⟩
theorem lea (m : Mods) (d : BitVec 6) (a : BitVec 6) (i : BitVec 10) : Statement (.lea m d a i) := by
  rintro _ _ _ ⟨⟩; exact ⟨by simp [SegsFit]; omega, rfl⟩
theorem rgetX (m : Mods) (d : BitVec 7) (a : BitVec 2) (i : BitVec 10) : Statement (.rgetX m d a i) := by
  rintro _ _ _ ⟨⟩; exact ⟨by simp [SegsFit]; omega, rfl⟩
theorem rputX (m : Mods) (d : BitVec 7) (a : BitVec 2) (i : BitVec 10) : Statement (.rputX m d a i) := by
  rintro _ _ _ ⟨⟩; exact ⟨by simp [SegsFit]; omega, rfl⟩
theorem xadd (m : Mods) (d : BitVec 2) (a : BitVec 2) (i : BitVec 10) : Statement (.xadd m d a i) := by
  rintro _ _ _ ⟨⟩; exact ⟨by simp [SegsFit]; omega, rfl⟩
theorem xset (m : Mods) (d : BitVec 2) (i : BitVec 17) : Statement (.xset m d i) := by
  rintro _ _ _ ⟨⟩; exact ⟨by simp [SegsFit]; omega, rfl⟩
theorem rdid (m : Mods) (d : BitVec 7) (n : BitVec 3) : Statement (.rdid m d n) := by
  rintro _ _ _ ⟨⟩; exact ⟨by simp [SegsFit]; omega, rfl⟩
theorem wbase (m : Mods) (a : BitVec 7) : Statement (.wbase m a) := by
  rintro _ _ _ ⟨⟩; exact ⟨by simp [SegsFit]; omega, rfl⟩
theorem extAcq (m : Mods) (n : BitVec 3) : Statement (.extAcq m n) := by
  rintro _ _ _ ⟨⟩; exact ⟨by simp [SegsFit]; omega, rfl⟩
theorem extRel (m : Mods) : Statement (.extRel m) := by
  rintro _ _ _ ⟨⟩; exact ⟨by simp [SegsFit], rfl⟩
theorem faddF64 (m : Mods) (d : BitVec 7) (a : BitVec 7) (b : BitVec 7) : Statement (.faddF64 m d a b) := by
  rintro _ _ _ ⟨⟩; exact ⟨by simp [SegsFit]; omega, rfl⟩
theorem fsubF64 (m : Mods) (d : BitVec 7) (a : BitVec 7) (b : BitVec 7) : Statement (.fsubF64 m d a b) := by
  rintro _ _ _ ⟨⟩; exact ⟨by simp [SegsFit]; omega, rfl⟩
theorem fmulF64 (m : Mods) (d : BitVec 7) (a : BitVec 7) (b : BitVec 7) : Statement (.fmulF64 m d a b) := by
  rintro _ _ _ ⟨⟩; exact ⟨by simp [SegsFit]; omega, rfl⟩
theorem fmaF64 (m : Mods) (d : BitVec 7) (a : BitVec 7) (b : BitVec 7) : Statement (.fmaF64 m d a b) := by
  rintro _ _ _ ⟨⟩; exact ⟨by simp [SegsFit]; omega, rfl⟩
theorem fminF64 (m : Mods) (d : BitVec 7) (a : BitVec 7) (b : BitVec 7) : Statement (.fminF64 m d a b) := by
  rintro _ _ _ ⟨⟩; exact ⟨by simp [SegsFit]; omega, rfl⟩
theorem fmaxF64 (m : Mods) (d : BitVec 7) (a : BitVec 7) (b : BitVec 7) : Statement (.fmaxF64 m d a b) := by
  rintro _ _ _ ⟨⟩; exact ⟨by simp [SegsFit]; omega, rfl⟩
theorem fnegF64 (m : Mods) (d : BitVec 7) (a : BitVec 7) : Statement (.fnegF64 m d a) := by
  rintro _ _ _ ⟨⟩; exact ⟨by simp [SegsFit]; omega, rfl⟩
theorem fabsF64 (m : Mods) (d : BitVec 7) (a : BitVec 7) : Statement (.fabsF64 m d a) := by
  rintro _ _ _ ⟨⟩; exact ⟨by simp [SegsFit]; omega, rfl⟩
theorem faddF32 (m : Mods) (d : BitVec 7) (a : BitVec 7) (b : BitVec 7) : Statement (.faddF32 m d a b) := by
  rintro _ _ _ ⟨⟩; exact ⟨by simp [SegsFit]; omega, rfl⟩
theorem fsubF32 (m : Mods) (d : BitVec 7) (a : BitVec 7) (b : BitVec 7) : Statement (.fsubF32 m d a b) := by
  rintro _ _ _ ⟨⟩; exact ⟨by simp [SegsFit]; omega, rfl⟩
theorem fmulF32 (m : Mods) (d : BitVec 7) (a : BitVec 7) (b : BitVec 7) : Statement (.fmulF32 m d a b) := by
  rintro _ _ _ ⟨⟩; exact ⟨by simp [SegsFit]; omega, rfl⟩
theorem fmaF32 (m : Mods) (d : BitVec 7) (a : BitVec 7) (b : BitVec 7) : Statement (.fmaF32 m d a b) := by
  rintro _ _ _ ⟨⟩; exact ⟨by simp [SegsFit]; omega, rfl⟩
theorem fminF32 (m : Mods) (d : BitVec 7) (a : BitVec 7) (b : BitVec 7) : Statement (.fminF32 m d a b) := by
  rintro _ _ _ ⟨⟩; exact ⟨by simp [SegsFit]; omega, rfl⟩
theorem fmaxF32 (m : Mods) (d : BitVec 7) (a : BitVec 7) (b : BitVec 7) : Statement (.fmaxF32 m d a b) := by
  rintro _ _ _ ⟨⟩; exact ⟨by simp [SegsFit]; omega, rfl⟩
theorem fnegF32 (m : Mods) (d : BitVec 7) (a : BitVec 7) : Statement (.fnegF32 m d a) := by
  rintro _ _ _ ⟨⟩; exact ⟨by simp [SegsFit]; omega, rfl⟩
theorem fabsF32 (m : Mods) (d : BitVec 7) (a : BitVec 7) : Statement (.fabsF32 m d a) := by
  rintro _ _ _ ⟨⟩; exact ⟨by simp [SegsFit]; omega, rfl⟩
theorem faddBf16 (m : Mods) (d : BitVec 7) (a : BitVec 7) (b : BitVec 7) : Statement (.faddBf16 m d a b) := by
  rintro _ _ _ ⟨⟩; exact ⟨by simp [SegsFit]; omega, rfl⟩
theorem fsubBf16 (m : Mods) (d : BitVec 7) (a : BitVec 7) (b : BitVec 7) : Statement (.fsubBf16 m d a b) := by
  rintro _ _ _ ⟨⟩; exact ⟨by simp [SegsFit]; omega, rfl⟩
theorem fmulBf16 (m : Mods) (d : BitVec 7) (a : BitVec 7) (b : BitVec 7) : Statement (.fmulBf16 m d a b) := by
  rintro _ _ _ ⟨⟩; exact ⟨by simp [SegsFit]; omega, rfl⟩
theorem fmaBf16 (m : Mods) (d : BitVec 7) (a : BitVec 7) (b : BitVec 7) : Statement (.fmaBf16 m d a b) := by
  rintro _ _ _ ⟨⟩; exact ⟨by simp [SegsFit]; omega, rfl⟩
theorem fminBf16 (m : Mods) (d : BitVec 7) (a : BitVec 7) (b : BitVec 7) : Statement (.fminBf16 m d a b) := by
  rintro _ _ _ ⟨⟩; exact ⟨by simp [SegsFit]; omega, rfl⟩
theorem fmaxBf16 (m : Mods) (d : BitVec 7) (a : BitVec 7) (b : BitVec 7) : Statement (.fmaxBf16 m d a b) := by
  rintro _ _ _ ⟨⟩; exact ⟨by simp [SegsFit]; omega, rfl⟩
theorem fnegBf16 (m : Mods) (d : BitVec 7) (a : BitVec 7) : Statement (.fnegBf16 m d a) := by
  rintro _ _ _ ⟨⟩; exact ⟨by simp [SegsFit]; omega, rfl⟩
theorem fabsBf16 (m : Mods) (d : BitVec 7) (a : BitVec 7) : Statement (.fabsBf16 m d a) := by
  rintro _ _ _ ⟨⟩; exact ⟨by simp [SegsFit]; omega, rfl⟩
theorem faddF16 (m : Mods) (d : BitVec 7) (a : BitVec 7) (b : BitVec 7) : Statement (.faddF16 m d a b) := by
  rintro _ _ _ ⟨⟩; exact ⟨by simp [SegsFit]; omega, rfl⟩
theorem fsubF16 (m : Mods) (d : BitVec 7) (a : BitVec 7) (b : BitVec 7) : Statement (.fsubF16 m d a b) := by
  rintro _ _ _ ⟨⟩; exact ⟨by simp [SegsFit]; omega, rfl⟩
theorem fmulF16 (m : Mods) (d : BitVec 7) (a : BitVec 7) (b : BitVec 7) : Statement (.fmulF16 m d a b) := by
  rintro _ _ _ ⟨⟩; exact ⟨by simp [SegsFit]; omega, rfl⟩
theorem fmaF16 (m : Mods) (d : BitVec 7) (a : BitVec 7) (b : BitVec 7) : Statement (.fmaF16 m d a b) := by
  rintro _ _ _ ⟨⟩; exact ⟨by simp [SegsFit]; omega, rfl⟩
theorem fminF16 (m : Mods) (d : BitVec 7) (a : BitVec 7) (b : BitVec 7) : Statement (.fminF16 m d a b) := by
  rintro _ _ _ ⟨⟩; exact ⟨by simp [SegsFit]; omega, rfl⟩
theorem fmaxF16 (m : Mods) (d : BitVec 7) (a : BitVec 7) (b : BitVec 7) : Statement (.fmaxF16 m d a b) := by
  rintro _ _ _ ⟨⟩; exact ⟨by simp [SegsFit]; omega, rfl⟩
theorem fnegF16 (m : Mods) (d : BitVec 7) (a : BitVec 7) : Statement (.fnegF16 m d a) := by
  rintro _ _ _ ⟨⟩; exact ⟨by simp [SegsFit]; omega, rfl⟩
theorem fabsF16 (m : Mods) (d : BitVec 7) (a : BitVec 7) : Statement (.fabsF16 m d a) := by
  rintro _ _ _ ⟨⟩; exact ⟨by simp [SegsFit]; omega, rfl⟩
theorem fcmpF64 (m : Mods) (f : BitVec 3) (d : BitVec 3) (a : BitVec 7) (b : BitVec 7) : Statement (.fcmpF64 m f d a b) := by
  rintro _ _ _ ⟨⟩; exact ⟨by simp [SegsFit]; omega, rfl⟩
theorem fcmpF32 (m : Mods) (f : BitVec 3) (d : BitVec 3) (a : BitVec 7) (b : BitVec 7) : Statement (.fcmpF32 m f d a b) := by
  rintro _ _ _ ⟨⟩; exact ⟨by simp [SegsFit]; omega, rfl⟩
theorem fcmpBf16 (m : Mods) (f : BitVec 3) (d : BitVec 3) (a : BitVec 7) (b : BitVec 7) : Statement (.fcmpBf16 m f d a b) := by
  rintro _ _ _ ⟨⟩; exact ⟨by simp [SegsFit]; omega, rfl⟩
theorem fcmpF16 (m : Mods) (f : BitVec 3) (d : BitVec 3) (a : BitVec 7) (b : BitVec 7) : Statement (.fcmpF16 m f d a b) := by
  rintro _ _ _ ⟨⟩; exact ⟨by simp [SegsFit]; omega, rfl⟩
theorem fclass (m : Mods) (f : BitVec 3) (d : BitVec 7) (a : BitVec 7) : Statement (.fclass m f d a) := by
  rintro _ _ _ ⟨⟩; exact ⟨by simp [SegsFit]; omega, rfl⟩
theorem vnzmask (m : Mods) (f : BitVec 3) (d : BitVec 7) (a : BitVec 7) : Statement (.vnzmask m f d a) := by
  rintro _ _ _ ⟨⟩; exact ⟨by simp [SegsFit]; omega, rfl⟩
theorem fdivF32 (m : Mods) (d : BitVec 7) (a : BitVec 7) (b : BitVec 7) : Statement (.fdivF32 m d a b) := by
  rintro _ _ _ ⟨⟩; exact ⟨by simp [SegsFit]; omega, rfl⟩
theorem fsqrtF32 (m : Mods) (d : BitVec 7) (a : BitVec 7) : Statement (.fsqrtF32 m d a) := by
  rintro _ _ _ ⟨⟩; exact ⟨by simp [SegsFit]; omega, rfl⟩
theorem frcpF32 (m : Mods) (d : BitVec 7) (a : BitVec 7) : Statement (.frcpF32 m d a) := by
  rintro _ _ _ ⟨⟩; exact ⟨by simp [SegsFit]; omega, rfl⟩
theorem frsqF32 (m : Mods) (d : BitVec 7) (a : BitVec 7) : Statement (.frsqF32 m d a) := by
  rintro _ _ _ ⟨⟩; exact ⟨by simp [SegsFit]; omega, rfl⟩
theorem fex2F32 (m : Mods) (d : BitVec 7) (a : BitVec 7) : Statement (.fex2F32 m d a) := by
  rintro _ _ _ ⟨⟩; exact ⟨by simp [SegsFit]; omega, rfl⟩
theorem flg2F32 (m : Mods) (d : BitVec 7) (a : BitVec 7) : Statement (.flg2F32 m d a) := by
  rintro _ _ _ ⟨⟩; exact ⟨by simp [SegsFit]; omega, rfl⟩
theorem fsinF32 (m : Mods) (d : BitVec 7) (a : BitVec 7) : Statement (.fsinF32 m d a) := by
  rintro _ _ _ ⟨⟩; exact ⟨by simp [SegsFit]; omega, rfl⟩
theorem fcosF32 (m : Mods) (d : BitVec 7) (a : BitVec 7) : Statement (.fcosF32 m d a) := by
  rintro _ _ _ ⟨⟩; exact ⟨by simp [SegsFit]; omega, rfl⟩
theorem fdivF64 (m : Mods) (d : BitVec 7) (a : BitVec 7) (b : BitVec 7) : Statement (.fdivF64 m d a b) := by
  rintro _ _ _ ⟨⟩; exact ⟨by simp [SegsFit]; omega, rfl⟩
theorem fsqrtF64 (m : Mods) (d : BitVec 7) (a : BitVec 7) : Statement (.fsqrtF64 m d a) := by
  rintro _ _ _ ⟨⟩; exact ⟨by simp [SegsFit]; omega, rfl⟩
theorem frcpF64 (m : Mods) (d : BitVec 7) (a : BitVec 7) : Statement (.frcpF64 m d a) := by
  rintro _ _ _ ⟨⟩; exact ⟨by simp [SegsFit]; omega, rfl⟩
theorem frsqF64 (m : Mods) (d : BitVec 7) (a : BitVec 7) : Statement (.frsqF64 m d a) := by
  rintro _ _ _ ⟨⟩; exact ⟨by simp [SegsFit]; omega, rfl⟩
theorem ferfF32 (m : Mods) (d : BitVec 7) (a : BitVec 7) : Statement (.ferfF32 m d a) := by
  rintro _ _ _ ⟨⟩; exact ⟨by simp [SegsFit]; omega, rfl⟩
theorem fcvt (m : Mods) (d : BitVec 7) (a : BitVec 7) (t : BitVec 5) (u : BitVec 5) : Statement (.fcvt m d a t u) := by
  rintro _ _ _ ⟨⟩; exact ⟨by simp [SegsFit]; omega, rfl⟩
theorem fpack (m : Mods) (f : BitVec 3) (d : BitVec 7) (a : BitVec 7) (b : BitVec 7) : Statement (.fpack m f d a b) := by
  rintro _ _ _ ⟨⟩; exact ⟨by simp [SegsFit]; omega, rfl⟩
theorem funpk (m : Mods) (f : BitVec 3) (d : BitVec 7) (a : BitVec 7) (b : BitVec 7) : Statement (.funpk m f d a b) := by
  rintro _ _ _ ⟨⟩; exact ⟨by simp [SegsFit]; omega, rfl⟩
theorem fscale (m : Mods) (f : BitVec 3) (d : BitVec 7) (a : BitVec 7) (b : BitVec 7) : Statement (.fscale m f d a b) := by
  rintro _ _ _ ⟨⟩; exact ⟨by simp [SegsFit]; omega, rfl⟩
theorem madd (m : Mods) (d : BitVec 5) (a : BitVec 5) (b : BitVec 5) : Statement (.madd m d a b) := by
  rintro _ _ _ ⟨⟩; exact ⟨by simp [SegsFit]; omega, rfl⟩
theorem msub (m : Mods) (d : BitVec 5) (a : BitVec 5) (b : BitVec 5) : Statement (.msub m d a b) := by
  rintro _ _ _ ⟨⟩; exact ⟨by simp [SegsFit]; omega, rfl⟩
theorem mmul (m : Mods) (d : BitVec 5) (a : BitVec 5) (b : BitVec 5) : Statement (.mmul m d a b) := by
  rintro _ _ _ ⟨⟩; exact ⟨by simp [SegsFit]; omega, rfl⟩
theorem mscale (m : Mods) (d : BitVec 5) (a : BitVec 5) (b : BitVec 7) : Statement (.mscale m d a b) := by
  rintro _ _ _ ⟨⟩; exact ⟨by simp [SegsFit]; omega, rfl⟩
theorem mrelu (m : Mods) (d : BitVec 5) (a : BitVec 5) : Statement (.mrelu m d a) := by
  rintro _ _ _ ⟨⟩; exact ⟨by simp [SegsFit]; omega, rfl⟩
theorem mexp (m : Mods) (d : BitVec 5) (a : BitVec 5) : Statement (.mexp m d a) := by
  rintro _ _ _ ⟨⟩; exact ⟨by simp [SegsFit]; omega, rfl⟩
theorem msigm (m : Mods) (d : BitVec 5) (a : BitVec 5) : Statement (.msigm m d a) := by
  rintro _ _ _ ⟨⟩; exact ⟨by simp [SegsFit]; omega, rfl⟩
theorem mrcp (m : Mods) (d : BitVec 5) (a : BitVec 5) : Statement (.mrcp m d a) := by
  rintro _ _ _ ⟨⟩; exact ⟨by simp [SegsFit]; omega, rfl⟩
theorem mld (m : Mods) (d : BitVec 5) (a : BitVec 6) (f : BitVec 1) (p : BitVec 9) : Statement (.mld m d a f p) := by
  rintro _ _ _ ⟨⟩; exact ⟨by simp [SegsFit]; omega, rfl⟩
theorem mst (m : Mods) (d : BitVec 5) (a : BitVec 6) (f : BitVec 1) (p : BitVec 9) : Statement (.mst m d a f p) := by
  rintro _ _ _ ⟨⟩; exact ⟨by simp [SegsFit]; omega, rfl⟩
theorem mset (m : Mods) (d : BitVec 5) (a : BitVec 7) (b : BitVec 7) : Statement (.mset m d a b) := by
  rintro _ _ _ ⟨⟩; exact ⟨by simp [SegsFit]; omega, rfl⟩
theorem mmov (m : Mods) (d : BitVec 5) (a : BitVec 5) : Statement (.mmov m d a) := by
  rintro _ _ _ ⟨⟩; exact ⟨by simp [SegsFit]; omega, rfl⟩
theorem mcvtMomMb16 (m : Mods) (d : BitVec 5) (a : BitVec 7) : Statement (.mcvtMomMb16 m d a) := by
  rintro _ _ _ ⟨⟩; exact ⟨by simp [SegsFit]; omega, rfl⟩
theorem mcvtMb16Mom (m : Mods) (d : BitVec 7) (a : BitVec 5) : Statement (.mcvtMb16Mom m d a) := by
  rintro _ _ _ ⟨⟩; exact ⟨by simp [SegsFit]; omega, rfl⟩
theorem mcolMean (m : Mods) (d : BitVec 7) (a : BitVec 5) : Statement (.mcolMean m d a) := by
  rintro _ _ _ ⟨⟩; exact ⟨by simp [SegsFit]; omega, rfl⟩
theorem mcolVar (m : Mods) (d : BitVec 7) (a : BitVec 5) : Statement (.mcolVar m d a) := by
  rintro _ _ _ ⟨⟩; exact ⟨by simp [SegsFit]; omega, rfl⟩
theorem mcolSd (m : Mods) (d : BitVec 7) (a : BitVec 5) : Statement (.mcolSd m d a) := by
  rintro _ _ _ ⟨⟩; exact ⟨by simp [SegsFit]; omega, rfl⟩
theorem mcolSmp (m : Mods) (d : BitVec 7) (a : BitVec 5) (b : BitVec 7) : Statement (.mcolSmp m d a b) := by
  rintro _ _ _ ⟨⟩; exact ⟨by simp [SegsFit]; omega, rfl⟩
theorem ld (m : Mods) (d : BitVec 7) (a : BitVec 6) (r : BitVec 1) (w : BitVec 3) (p : BitVec 6) : Statement (.ld m d a r w p) := by
  rintro _ _ _ ⟨⟩; exact ⟨by simp [SegsFit]; omega, rfl⟩
theorem st (m : Mods) (d : BitVec 7) (a : BitVec 6) (r : BitVec 1) (w : BitVec 3) (p : BitVec 6) : Statement (.st m d a r w p) := by
  rintro _ _ _ ⟨⟩; exact ⟨by simp [SegsFit]; omega, rfl⟩
theorem ldIndexed (m : Mods) (w : BitVec 3) (d : BitVec 7) (a : BitVec 6) (b : BitVec 7) : Statement (.ldIndexed m w d a b) := by
  rintro _ _ _ ⟨⟩; exact ⟨by simp [SegsFit]; omega, rfl⟩
theorem stIndexed (m : Mods) (w : BitVec 3) (d : BitVec 7) (a : BitVec 6) (b : BitVec 7) : Statement (.stIndexed m w d a b) := by
  rintro _ _ _ ⟨⟩; exact ⟨by simp [SegsFit]; omega, rfl⟩
theorem lds (m : Mods) (d : BitVec 7) (a : BitVec 6) (w : BitVec 3) (p : BitVec 6) : Statement (.lds m d a w p) := by
  rintro _ _ _ ⟨⟩; exact ⟨by simp [SegsFit]; omega, rfl⟩
theorem sts (m : Mods) (d : BitVec 7) (a : BitVec 6) (w : BitVec 3) (p : BitVec 6) : Statement (.sts m d a w p) := by
  rintro _ _ _ ⟨⟩; exact ⟨by simp [SegsFit]; omega, rfl⟩
theorem ldp (m : Mods) (d : BitVec 6) (a : BitVec 6) (w : BitVec 3) (p : BitVec 6) : Statement (.ldp m d a w p) := by
  rintro _ _ _ ⟨⟩; exact ⟨by simp [SegsFit]; omega, rfl⟩
theorem stp (m : Mods) (d : BitVec 6) (a : BitVec 6) (w : BitVec 3) (p : BitVec 6) : Statement (.stp m d a w p) := by
  rintro _ _ _ ⟨⟩; exact ⟨by simp [SegsFit]; omega, rfl⟩
theorem ldA72 (m : Mods) (d : BitVec 6) (a : BitVec 6) (p : BitVec 6) : Statement (.ldA72 m d a p) := by
  rintro _ _ _ ⟨⟩; exact ⟨by simp [SegsFit]; omega, rfl⟩
theorem stA72 (m : Mods) (d : BitVec 6) (a : BitVec 6) (p : BitVec 6) : Statement (.stA72 m d a p) := by
  rintro _ _ _ ⟨⟩; exact ⟨by simp [SegsFit]; omega, rfl⟩
theorem ldAcq (m : Mods) (d : BitVec 7) (a : BitVec 6) (c : BitVec 3) (w : BitVec 2) (p : BitVec 5) : Statement (.ldAcq m d a c w p) := by
  rintro _ _ _ ⟨⟩; exact ⟨by simp [SegsFit]; omega, rfl⟩
theorem stRel (m : Mods) (d : BitVec 7) (a : BitVec 6) (c : BitVec 3) (w : BitVec 2) (p : BitVec 5) : Statement (.stRel m d a c w p) := by
  rintro _ _ _ ⟨⟩; exact ⟨by simp [SegsFit]; omega, rfl⟩
theorem stf (m : Mods) (f : BitVec 3) (d : BitVec 7) (a : BitVec 6) (b : BitVec 6) : Statement (.stf m f d a b) := by
  rintro _ _ _ ⟨⟩; exact ⟨by simp [SegsFit]; omega, rfl⟩
theorem fence (m : Mods) (b : BitVec 3) : Statement (.fence m b) := by
  rintro _ _ _ ⟨⟩; exact ⟨by simp [SegsFit]; omega, rfl⟩
theorem xfence (m : Mods) (p : BitVec 2) (q : BitVec 2) : Statement (.xfence m p q) := by
  rintro _ _ _ ⟨⟩; exact ⟨by simp [SegsFit]; omega, rfl⟩
theorem cinv (m : Mods) (a : BitVec 7) (lvl : BitVec 1) : Statement (.cinv m a lvl) := by
  rintro _ _ _ ⟨⟩; exact ⟨by simp [SegsFit]; omega, rfl⟩
theorem cflush (m : Mods) (a : BitVec 7) (lvl : BitVec 2) : Statement (.cflush m a lvl) := by
  rintro _ _ _ ⟨⟩; exact ⟨by simp [SegsFit]; omega, rfl⟩
theorem pref (m : Mods) (l : BitVec 4) (a : BitVec 6) (b : BitVec 7) : Statement (.pref m l a b) := by
  rintro _ _ _ ⟨⟩; exact ⟨by simp [SegsFit]; omega, rfl⟩
theorem cchk (m : Mods) (d : BitVec 7) (a : BitVec 6) (b : BitVec 7) : Statement (.cchk m d a b) := by
  rintro _ _ _ ⟨⟩; exact ⟨by simp [SegsFit]; omega, rfl⟩
theorem cinj (m : Mods) (a : BitVec 6) (b : BitVec 7) : Statement (.cinj m a b) := by
  rintro _ _ _ ⟨⟩; exact ⟨by simp [SegsFit]; omega, rfl⟩
theorem nzcnt (m : Mods) (f : BitVec 3) (d : BitVec 7) (a : BitVec 6) (b : BitVec 7) : Statement (.nzcnt m f d a b) := by
  rintro _ _ _ ⟨⟩; exact ⟨by simp [SegsFit]; omega, rfl⟩
theorem ldgSplit (m : Mods) (w : BitVec 3) (d : BitVec 7) (a : BitVec 6) (b : BitVec 7) : Statement (.ldgSplit m w d a b) := by
  rintro _ _ _ ⟨⟩; exact ⟨by simp [SegsFit]; omega, rfl⟩
theorem atombAdd (m : Mods) (f : BitVec 3) (d : BitVec 7) (a : BitVec 7) (o : BitVec 3) (b : BitVec 4) : Statement (.atombAdd m f d a o b) := by
  rintro _ _ _ ⟨⟩; exact ⟨by simp [SegsFit]; omega, rfl⟩
theorem atomAdd (m : Mods) (t : BitVec 3) (d : BitVec 7) (a : BitVec 7) (o : BitVec 3) (b : BitVec 4) : Statement (.atomAdd m t d a o b) := by
  rintro _ _ _ ⟨⟩; exact ⟨by simp [SegsFit]; omega, rfl⟩
theorem atomMin (m : Mods) (t : BitVec 3) (d : BitVec 7) (a : BitVec 7) (o : BitVec 3) (b : BitVec 4) : Statement (.atomMin m t d a o b) := by
  rintro _ _ _ ⟨⟩; exact ⟨by simp [SegsFit]; omega, rfl⟩
theorem atomMax (m : Mods) (t : BitVec 3) (d : BitVec 7) (a : BitVec 7) (o : BitVec 3) (b : BitVec 4) : Statement (.atomMax m t d a o b) := by
  rintro _ _ _ ⟨⟩; exact ⟨by simp [SegsFit]; omega, rfl⟩
theorem atomAnd (m : Mods) (t : BitVec 3) (d : BitVec 7) (a : BitVec 7) (o : BitVec 3) (b : BitVec 4) : Statement (.atomAnd m t d a o b) := by
  rintro _ _ _ ⟨⟩; exact ⟨by simp [SegsFit]; omega, rfl⟩
theorem atomOr (m : Mods) (t : BitVec 3) (d : BitVec 7) (a : BitVec 7) (o : BitVec 3) (b : BitVec 4) : Statement (.atomOr m t d a o b) := by
  rintro _ _ _ ⟨⟩; exact ⟨by simp [SegsFit]; omega, rfl⟩
theorem atomXor (m : Mods) (t : BitVec 3) (d : BitVec 7) (a : BitVec 7) (o : BitVec 3) (b : BitVec 4) : Statement (.atomXor m t d a o b) := by
  rintro _ _ _ ⟨⟩; exact ⟨by simp [SegsFit]; omega, rfl⟩
theorem atomExch (m : Mods) (t : BitVec 3) (d : BitVec 7) (a : BitVec 7) (o : BitVec 3) (b : BitVec 4) : Statement (.atomExch m t d a o b) := by
  rintro _ _ _ ⟨⟩; exact ⟨by simp [SegsFit]; omega, rfl⟩
theorem atomCas (m : Mods) (t : BitVec 3) (d : BitVec 7) (a : BitVec 7) (o : BitVec 3) (b : BitVec 4) : Statement (.atomCas m t d a o b) := by
  rintro _ _ _ ⟨⟩; exact ⟨by simp [SegsFit]; omega, rfl⟩
theorem mm (m : Mods) (h : BitVec 5) (t : BitVec 5) (a : BitVec 7) (b : BitVec 7) : Statement (.mm m h t a b) := by
  rintro _ _ _ ⟨⟩; exact ⟨by simp [SegsFit]; omega, rfl⟩
theorem mmloop (m : Mods) (h : BitVec 5) (t : BitVec 5) (a : BitVec 7) (b : BitVec 7) : Statement (.mmloop m h t a b) := by
  rintro _ _ _ ⟨⟩; exact ⟨by simp [SegsFit]; omega, rfl⟩
theorem mmsp (m : Mods) (h : BitVec 5) (t : BitVec 5) (a : BitVec 7) (b : BitVec 7) : Statement (.mmsp m h t a b) := by
  rintro _ _ _ ⟨⟩; exact ⟨by simp [SegsFit]; omega, rfl⟩
theorem mmgat (m : Mods) (h : BitVec 5) (t : BitVec 5) (a : BitVec 7) (b : BitVec 7) : Statement (.mmgat m h t a b) := by
  rintro _ _ _ ⟨⟩; exact ⟨by simp [SegsFit]; omega, rfl⟩
theorem mmaMom (m : Mods) (h : BitVec 5) (t : BitVec 5) (ab : BitVec 7 × BitVec 7) : Statement (.mmaMom m h t ab) := by
  rintro _ _ _ ⟨⟩; exact ⟨by simp [SegsFit]; omega, rfl⟩
theorem accz (m : Mods) (t : BitVec 5) : Statement (.accz m t) := by
  rintro _ _ _ ⟨⟩; exact ⟨by simp [SegsFit]; omega, rfl⟩
theorem accld (m : Mods) (t : BitVec 5) (a : BitVec 6) (b : BitVec 6) : Statement (.accld m t a b) := by
  rintro _ _ _ ⟨⟩; exact ⟨by simp [SegsFit]; omega, rfl⟩
theorem accst (m : Mods) (t : BitVec 5) (a : BitVec 6) (b : BitVec 6) : Statement (.accst m t a b) := by
  rintro _ _ _ ⟨⟩; exact ⟨by simp [SegsFit]; omega, rfl⟩
theorem accrd (m : Mods) (t : BitVec 5) (a : BitVec 7) : Statement (.accrd m t a) := by
  rintro _ _ _ ⟨⟩; exact ⟨by simp [SegsFit]; omega, rfl⟩
theorem accwr (m : Mods) (t : BitVec 5) (a : BitVec 7) : Statement (.accwr m t a) := by
  rintro _ _ _ ⟨⟩; exact ⟨by simp [SegsFit]; omega, rfl⟩
theorem shipW (m : Mods) (d : BitVec 7) (a : BitVec 6) (e : BitVec 1) (n : BitVec 3) : Statement (.shipW m d a e n) := by
  rintro _ _ _ ⟨⟩; exact ⟨by simp [SegsFit]; omega, rfl⟩
theorem shipT (m : Mods) (d : BitVec 7) (a : BitVec 6) (e : BitVec 1) (n : BitVec 3) (k : BitVec 3) : Statement (.shipT m d a e n k) := by
  rintro _ _ _ ⟨⟩; exact ⟨by simp [SegsFit]; omega, rfl⟩
theorem sret (m : Mods) (d : BitVec 7) (n : BitVec 3) : Statement (.sret m d n) := by
  rintro _ _ _ ⟨⟩; exact ⟨by simp [SegsFit]; omega, rfl⟩
theorem tkwait (m : Mods) (d : BitVec 7) (t : BitVec 3) : Statement (.tkwait m d t) := by
  rintro _ _ _ ⟨⟩; exact ⟨by simp [SegsFit]; omega, rfl⟩
theorem tktest (m : Mods) (d : BitVec 3) (t : BitVec 3) : Statement (.tktest m d t) := by
  rintro _ _ _ ⟨⟩; exact ⟨by simp [SegsFit]; omega, rfl⟩
theorem launch (m : Mods) (a : BitVec 6) (q : BitVec 6) : Statement (.launch m a q) := by
  rintro _ _ _ ⟨⟩; exact ⟨by simp [SegsFit]; omega, rfl⟩
theorem trig (m : Mods) : Statement (.trig m) := by
  rintro _ _ _ ⟨⟩; exact ⟨by simp [SegsFit], rfl⟩
theorem cpy (m : Mods) (d : BitVec 6) (a : BitVec 6) (b : BitVec 6) : Statement (.cpy m d a b) := by
  rintro _ _ _ ⟨⟩; exact ⟨by simp [SegsFit]; omega, rfl⟩
theorem cpy2d (m : Mods) (d : BitVec 6) (a : BitVec 6) (b : BitVec 6) : Statement (.cpy2d m d a b) := by
  rintro _ _ _ ⟨⟩; exact ⟨by simp [SegsFit]; omega, rfl⟩
theorem gnode (m : Mods) (d : BitVec 6) (a : BitVec 6) : Statement (.gnode m d a) := by
  rintro _ _ _ ⟨⟩; exact ⟨by simp [SegsFit]; omega, rfl⟩
theorem gdep (m : Mods) (a : BitVec 6) (b : BitVec 6) : Statement (.gdep m a b) := by
  rintro _ _ _ ⟨⟩; exact ⟨by simp [SegsFit]; omega, rfl⟩
theorem gsig (m : Mods) (a : BitVec 6) : Statement (.gsig m a) := by
  rintro _ _ _ ⟨⟩; exact ⟨by simp [SegsFit]; omega, rfl⟩
theorem pfarrive (m : Mods) (a : BitVec 6) : Statement (.pfarrive m a) := by
  rintro _ _ _ ⟨⟩; exact ⟨by simp [SegsFit]; omega, rfl⟩
theorem pfwait (m : Mods) (a : BitVec 6) : Statement (.pfwait m a) := by
  rintro _ _ _ ⟨⟩; exact ⟨by simp [SegsFit]; omega, rfl⟩
theorem pftest (m : Mods) (d : BitVec 3) (a : BitVec 6) : Statement (.pftest m d a) := by
  rintro _ _ _ ⟨⟩; exact ⟨by simp [SegsFit]; omega, rfl⟩
theorem pause (m : Mods) (i : BitVec 16) : Statement (.pause m i) := by
  rintro _ _ _ ⟨⟩; exact ⟨by simp [SegsFit]; omega, rfl⟩
theorem yieldSave (m : Mods) : Statement (.yieldSave m) := by
  rintro _ _ _ ⟨⟩; exact ⟨by simp [SegsFit], rfl⟩
theorem bra (m : Mods) (c : BitVec 3) (o : BitVec 21) : Statement (.bra m c o) := by
  rintro _ _ _ ⟨⟩; exact ⟨by simp [SegsFit]; omega, rfl⟩
theorem call (m : Mods) (c : BitVec 3) (o : BitVec 21) : Statement (.call m c o) := by
  rintro _ _ _ ⟨⟩; exact ⟨by simp [SegsFit]; omega, rfl⟩
theorem brx (m : Mods) (a : BitVec 6) (b : BitVec 7) : Statement (.brx m a b) := by
  rintro _ _ _ ⟨⟩; exact ⟨by simp [SegsFit]; omega, rfl⟩
theorem ret (m : Mods) : Statement (.ret m) := by
  rintro _ _ _ ⟨⟩; exact ⟨by simp [SegsFit], rfl⟩
theorem exit (m : Mods) : Statement (.exit m) := by
  rintro _ _ _ ⟨⟩; exact ⟨by simp [SegsFit], rfl⟩
theorem join (m : Mods) : Statement (.join m) := by
  rintro _ _ _ ⟨⟩; exact ⟨by simp [SegsFit], rfl⟩
theorem pri (m : Mods) (p : BitVec 16) : Statement (.pri m p) := by
  rintro _ _ _ ⟨⟩; exact ⟨by simp [SegsFit]; omega, rfl⟩
theorem barWg (m : Mods) : Statement (.barWg m) := by
  rintro _ _ _ ⟨⟩; exact ⟨by simp [SegsFit], rfl⟩
theorem barCon (m : Mods) (a : BitVec 6) : Statement (.barCon m a) := by
  rintro _ _ _ ⟨⟩; exact ⟨by simp [SegsFit]; omega, rfl⟩
theorem regroup (m : Mods) (a : BitVec 7) : Statement (.regroup m a) := by
  rintro _ _ _ ⟨⟩; exact ⟨by simp [SegsFit]; omega, rfl⟩
theorem regroupFlush (m : Mods) : Statement (.regroupFlush m) := by
  rintro _ _ _ ⟨⟩; exact ⟨by simp [SegsFit], rfl⟩
theorem tktTake (m : Mods) (n : BitVec 3) : Statement (.tktTake m n) := by
  rintro _ _ _ ⟨⟩; exact ⟨by simp [SegsFit]; omega, rfl⟩
theorem tktWait (m : Mods) (n : BitVec 3) : Statement (.tktWait m n) := by
  rintro _ _ _ ⟨⟩; exact ⟨by simp [SegsFit]; omega, rfl⟩
theorem trap (m : Mods) (n : BitVec 7) : Statement (.trap m n) := by
  rintro _ _ _ ⟨⟩; exact ⟨by simp [SegsFit]; omega, rfl⟩
theorem tretRetry (m : Mods) : Statement (.tretRetry m) := by
  rintro _ _ _ ⟨⟩; exact ⟨by simp [SegsFit], rfl⟩
theorem tretSkip (m : Mods) : Statement (.tretSkip m) := by
  rintro _ _ _ ⟨⟩; exact ⟨by simp [SegsFit], rfl⟩
theorem brk (m : Mods) : Statement (.brk m) := by
  rintro _ _ _ ⟨⟩; exact ⟨by simp [SegsFit], rfl⟩
theorem nop (m : Mods) : Statement (.nop m) := by
  rintro _ _ _ ⟨⟩; exact ⟨by simp [SegsFit], rfl⟩
theorem exitFault (m : Mods) : Statement (.exitFault m) := by
  rintro _ _ _ ⟨⟩; exact ⟨by simp [SegsFit], rfl⟩
theorem rdctl (m : Mods) (d : BitVec 7) (i : BitVec 10) : Statement (.rdctl m d i) := by
  rintro _ _ _ ⟨⟩; exact ⟨by simp [SegsFit]; omega, rfl⟩
theorem wrctl (m : Mods) (a : BitVec 7) (i : BitVec 10) : Statement (.wrctl m a i) := by
  rintro _ _ _ ⟨⟩; exact ⟨by simp [SegsFit]; omega, rfl⟩
theorem rdcnt (m : Mods) (d : BitVec 7) (i : BitVec 10) : Statement (.rdcnt m d i) := by
  rintro _ _ _ ⟨⟩; exact ⟨by simp [SegsFit]; omega, rfl⟩
theorem powerRemoved : Statement .powerRemoved := nofun
theorem writePerformed (core : Nat) (which : Nat) : Statement (.writePerformed core which) := nofun
theorem fabricMemoryRequest (r : FabricReq) : Statement (.fabricMemoryRequest r) := nofun
theorem mailboxUnknown (svc : Bool) : Statement (.mailboxUnknown svc) := nofun

end Encoding

end Sys2Proof.Laws
end

