-- ==== Sys2Proof/Tests/Slice0.lean ====
section
/-!
SUPPORT. Sys2Proof/Tests/Slice0.lean: ill-formed terms that are refused; every constructor's decoding on a word made from the spec's
encoding tables; small results worked out by hand from the spec's examples; and, for each statement of Obligations.lean that has
hypotheses, states and operands that meet them.
-/

namespace Sys2Proof.Tests

open Sys2Proof Sys2Proof.Machine

set_option maxRecDepth 100000
set_option exponentiation.threshold 4096

def m0 : Mods := ⟨false, none⟩
def sw : Mods := ⟨true, none⟩
def p0 : Prefix := ⟨0, false, 0, 0, 0, 0, 0, 0⟩
def px (p : Prefix) : Mods := ⟨false, some p⟩

/-! ## WellFormed: an ill-formed term for each check -/

/-- R92, R103: a pair's name is even, a group's of four a multiple of 4. -/
theorem test_wf_names : ([.add64 m0 1 2 4, .add64 m0 2 3 4, .abs64 m0 2 5, .ld m0 3 0 0 3 0, .ld m0 6 0 0 4 0, .cmpEq64 m0 1 1 2,
    .atomAdd m0 3 5 1 0 0, .ldAcq m0 5 0 0 1 0, .fclass m0 0 1 3, .vnzmask m0 4 1 3] : List Instr).all (!·.wellFormed) = true := by decide

/-- R93: tid and vlane are sources only; 79 to 127 name nothing; a ballot's destination is no index register. -/
theorem test_wf_scalars : ([.addSc m0 77 1 2, .addSc m0 1 79 2, .addSc m0 1 2 127, .movVs m0 1 79, .movSv m0 78 1, .vballot m0 72 1,
    .vbcast m0 1 2 100, .wbase m0 79, .moviS m0 77 0, .cinj m0 0 79, .slid m0 1 79 2] : List Instr).all (!·.wellFormed) = true := by decide

/-- R104, R111: width codes 5 to 7, the relaxed bit on other widths than w32 and w64, the forms of ordered and flagged accesses. -/
theorem test_wf_memory : ([.ld m0 4 0 0 5 0, .ld m0 4 0 1 0 0, .st m0 4 0 1 4 0, .lds m0 4 0 7 0, .ldp m0 4 0 4 0, .stIndexed m0 6 4 0 1,
    .ldAcq m0 4 0 5 0 0, .stRel m0 4 0 0 2 0, .stf m0 0 1 2 3, .stf m0 5 1 2 3, .fence m0 5, .xfence m0 2 2, .cinv m0 0 1,
    .cflush m0 76 3, .cflush m0 0 2, .nzcnt m0 1 1 2 3, .nzcnt m0 6 1 2 3, .ldgSplit m0 5 4 0 1] : List Instr).all (!·.wellFormed) = true := by
  decide

/-- R105, R107, R108: the type pairs of the conversions. -/
theorem test_wf_types : ([.cvt m0 4 8 0 0, .cvt m0 4 8 10 0, .cvt m0 5 8 4 0, .fcvt m0 4 8 0 1, .fcvt m0 4 8 16 10, .fcvt m0 4 8 14 0,
    .fcvt m0 4 8 3 15, .fcvt m0 5 8 10 11] : List Instr).all (!·.wellFormed) = true := by decide

/-- R95, R107 to R115, R139, R463: literals and function codes out of their ranges. -/
theorem test_wf_literals : ([.xset m0 0 0x8000, .extAcq m0 0, .fcmpF32 m0 7 1 2 3, .fclass m0 4 1 2, .fpack m0 4 1 2 3, .fscale m0 2 1 2 3,
    .atomAdd m0 6 4 1 0 0, .atomAnd m0 5 4 1 0 0, .atomAdd m0 0 4 1 5 0, .atombAdd m0 1 4 1 0 0, .shipW m0 4 63 0 0, .shipT m0 4 63 0 0 0,
    .sret m0 4 0, .sret m0 4 5, .cpy2d m0 1 2 63, .gnode m0 1 63, .pause m0 0, .rdctl m0 1 12, .wrctl m0 1 24, .rdcnt m0 1 2,
    .rdcnt m0 1 35] : List Instr).all (!·.wellFormed) = true := by decide

/-- R44, R45, R87, R206, R225, R305, R335, R393, R445: fields of a prefix that the instruction does not take. -/
theorem test_wf_prefix : ([.cmpEq32 (px { p0 with z := true }) 1 2 3, .add32 (px { p0 with c := 9 }) 1 2 3,
    .mad64 (px { p0 with c := 9 }) 2 4 6, .madSc (px { p0 with c := 79 }) 1 2 3, .add32 (px { p0 with rm := 1 }) 1 2 3,
    .faddF32 (px { p0 with rm := 6 }) 1 2 3, .fpack (px { p0 with rm := 3 }) 0 1 2 3, .ld (px { p0 with hold := 1 }) 1 2 0 2 0,
    .vshfl (px { p0 with hold := 3 }) 1 2 3, .add32 (px { p0 with cov := 1 }) 1 2 3, .add32 (px { p0 with fmt := 1 }) 1 2 3,
    .add32 (px { p0 with sel := 1 }) 1 2 3, .addSc (px { p0 with z := true }) 1 2 3, .sret (px { p0 with k := 1 }) 0 0,
    .bra (px { p0 with z := true }) 1 0, .nop (px p0), .trap (px p0) 0, .rdctl (px p0) 1 0, .barWg (px p0)] : List Instr).all
      (!·.wellFormed) = true := by decide

/-- The same instructions with those fields in order are well-formed. -/
theorem test_wf_accepts : ([.add64 m0 2 4 126, .addSc m0 76 78 77, .ld m0 6 0 1 3 31, .xset m0 0 0x7FFF, .xset m0 0 0x18000,
    .mad64 (px { p0 with c := 8 }) 2 4 6, .faddF32 (px { p0 with k := 7, z := true, rm := 5, hold := 2 }) 1 2 3,
    .fcvt m0 4 8 14 10, .cinv m0 76 1, .sret m0 0 0, .bra (px { p0 with k := 1 }) 1 0] : List Instr).all (·.wellFormed) = true := by
  decide

/-! ## Decode: a word for each coded constructor, made from its row's fixed bits and field places -/

/-- Opcodes 0x00 to 0x0F, part 1: the rows' fixed bits and field places (R106 to R115). -/
theorem test_decode_0x_1 : ([0x8101040C, 0x0121040C, 0x0141040C, 0x0161040C, 0x0181040C, 0x01A1040C, 0x01C10400, 0x01E10400,
    0x0601040C, 0x0621040C, 0x0641040C, 0x0661040C, 0x0681040C, 0x06A1040C, 0x06C10400, 0x06E10400,
    0x0B01040C, 0x0B21040C, 0x0B41040C, 0x0B61040C].map (decodeTableWord 32)) =
    [some (.add32 sw 4 8 12), some (.sub32 m0 4 8 12), some (.mul32 m0 4 8 12), some (.mad32 m0 4 8 12),
    some (.mulhiS32 m0 4 8 12), some (.mulhiZ32 m0 4 8 12), some (.abs32 m0 4 8), some (.neg32 m0 4 8),
    some (.add64 m0 4 8 12), some (.sub64 m0 4 8 12), some (.mul64 m0 4 8 12), some (.mad64 m0 4 8 12),
    some (.mulhiS64 m0 4 8 12), some (.mulhiZ64 m0 4 8 12), some (.abs64 m0 4 8), some (.neg64 m0 4 8),
    some (.addSc m0 4 8 12), some (.subSc m0 4 8 12), some (.mulSc m0 4 8 12), some (.madSc m0 4 8 12)] := by decide

/-- Opcodes 0x00 to 0x0F, part 2: the rows' fixed bits and field places (R106 to R115). -/
theorem test_decode_0x_2 : ([0x0B81040C, 0x0BA1040C, 0x0BC10400, 0x0BE10400, 0x0201040C, 0x0221040C, 0x0241040C, 0x0261040C,
    0x0281040C, 0x02A1040C, 0x02C1040C, 0x02E1040C, 0x0701040C, 0x0721040C, 0x0741040C, 0x0761040C,
    0x0781040C, 0x07A1040C, 0x07C1040C, 0x07E1040C].map (decodeTableWord 32)) =
    [some (.mulhiSSc m0 4 8 12), some (.mulhiZSc m0 4 8 12), some (.absSc m0 4 8), some (.negSc m0 4 8),
    some (.minS32 m0 4 8 12), some (.minZ32 m0 4 8 12), some (.maxS32 m0 4 8 12), some (.maxZ32 m0 4 8 12),
    some (.divS32 m0 4 8 12), some (.divZ32 m0 4 8 12), some (.remS32 m0 4 8 12), some (.remZ32 m0 4 8 12),
    some (.minS64 m0 4 8 12), some (.minZ64 m0 4 8 12), some (.maxS64 m0 4 8 12), some (.maxZ64 m0 4 8 12),
    some (.divS64 m0 4 8 12), some (.divZ64 m0 4 8 12), some (.remS64 m0 4 8 12), some (.remZ64 m0 4 8 12)] := by decide

/-- Opcodes 0x00 to 0x0F, part 3: the rows' fixed bits and field places (R106 to R115). -/
theorem test_decode_0x_3 : ([0x0C01040C, 0x0C21040C, 0x0C41040C, 0x0C61040C, 0x0C81040C, 0x0CA1040C, 0x0CC1040C, 0x0CE1040C,
    0x0301040C, 0x0321040C, 0x0341040C, 0x03610400, 0x03810400, 0x03A10400, 0x03C10400, 0x03E10400,
    0x0801040C, 0x0821040C, 0x0841040C, 0x08610400].map (decodeTableWord 32)) =
    [some (.minSSc m0 4 8 12), some (.minZSc m0 4 8 12), some (.maxSSc m0 4 8 12), some (.maxZSc m0 4 8 12),
    some (.divSSc m0 4 8 12), some (.divZSc m0 4 8 12), some (.remSSc m0 4 8 12), some (.remZSc m0 4 8 12),
    some (.and32 m0 4 8 12), some (.or32 m0 4 8 12), some (.xor32 m0 4 8 12), some (.not32 m0 4 8), some (.popc32 m0 4 8),
    some (.clz32 m0 4 8), some (.ctz32 m0 4 8), some (.brev32 m0 4 8), some (.and64 m0 4 8 12), some (.or64 m0 4 8 12),
    some (.xor64 m0 4 8 12), some (.not64 m0 4 8)] := by decide

/-- Opcodes 0x00 to 0x0F, part 4: the rows' fixed bits and field places (R106 to R115). -/
theorem test_decode_0x_4 : ([0x08810400, 0x08A10400, 0x08C10400, 0x08E10400, 0x0D01040C, 0x0D21040C, 0x0D41040C, 0x0D610400,
    0x0D810400, 0x0DA10400, 0x0DC10400, 0x0DE10400, 0x0401040C, 0x0421040C, 0x0441040C, 0x0461040C,
    0x0481040C, 0x04A1040C, 0x04C1040C, 0x0901040C].map (decodeTableWord 32)) =
    [some (.popc64 m0 4 8), some (.clz64 m0 4 8), some (.ctz64 m0 4 8), some (.brev64 m0 4 8), some (.andSc m0 4 8 12),
    some (.orSc m0 4 8 12), some (.xorSc m0 4 8 12), some (.notSc m0 4 8), some (.popcSc m0 4 8), some (.clzSc m0 4 8),
    some (.ctzSc m0 4 8), some (.brevSc m0 4 8), some (.shl32 m0 4 8 12), some (.shr32 m0 4 8 12), some (.sar32 m0 4 8 12),
    some (.rotl32 m0 4 8 12), some (.bfxS32 m0 4 8 12), some (.bfxZ32 m0 4 8 12), some (.bfi32 m0 4 8 12),
    some (.shl64 m0 4 8 12)] := by decide

/-- Opcodes 0x00 to 0x0F, part 5: the rows' fixed bits and field places (R106 to R115). -/
theorem test_decode_0x_5 : ([0x0921040C, 0x0941040C, 0x0961040C, 0x0981040C, 0x09A1040C, 0x09C1040C, 0x0E01040C, 0x0E21040C,
    0x0E41040C, 0x0E61040C, 0x0E81040C, 0x0EA1040C, 0x0EC1040C, 0x0511040C, 0x0531040C, 0x0551040C,
    0x0571040C, 0x0591040C, 0x05B1040C, 0x05D1040C].map (decodeTableWord 32)) =
    [some (.shr64 m0 4 8 12), some (.sar64 m0 4 8 12), some (.rotl64 m0 4 8 12), some (.bfxS64 m0 4 8 12),
    some (.bfxZ64 m0 4 8 12), some (.bfi64 m0 4 8 12), some (.shlSc m0 4 8 12), some (.shrSc m0 4 8 12),
    some (.sarSc m0 4 8 12), some (.rotlSc m0 4 8 12), some (.bfxSSc m0 4 8 12), some (.bfxZSc m0 4 8 12),
    some (.bfiSc m0 4 8 12), some (.cmpEq32 m0 4 8 12), some (.cmpNe32 m0 4 8 12), some (.cmpLtS32 m0 4 8 12),
    some (.cmpGeS32 m0 4 8 12), some (.cmpLtZ32 m0 4 8 12), some (.cmpGeZ32 m0 4 8 12), some (.cmpTst32 m0 4 8 12)] := by decide

/-- Opcodes 0x00 to 0x0F, part 6: the rows' fixed bits and field places (R106 to R115). -/
theorem test_decode_0x_6 : ([0x0A11040C, 0x0A31040C, 0x0A51040C, 0x0A71040C, 0x0A91040C, 0x0AB1040C, 0x0AD1040C, 0x0F11040C,
    0x0F31040C, 0x0F51040C, 0x0F71040C, 0x0F91040C, 0x0FB1040C, 0x0FD1040C].map (decodeTableWord 32)) =
    [some (.cmpEq64 m0 4 8 12), some (.cmpNe64 m0 4 8 12), some (.cmpLtS64 m0 4 8 12), some (.cmpGeS64 m0 4 8 12),
    some (.cmpLtZ64 m0 4 8 12), some (.cmpGeZ64 m0 4 8 12), some (.cmpTst64 m0 4 8 12), some (.cmpEqSc m0 4 8 12),
    some (.cmpNeSc m0 4 8 12), some (.cmpLtSSc m0 4 8 12), some (.cmpGeSSc m0 4 8 12), some (.cmpLtZSc m0 4 8 12),
    some (.cmpGeZSc m0 4 8 12), some (.cmpTstSc m0 4 8 12)] := by decide

/-- Opcodes 0x10 to 0x1F, part 1: the rows' fixed bits and field places (R106 to R115). -/
theorem test_decode_1x_1 : ([0x10010400, 0x10210400, 0x10410400, 0x10610400, 0x1081040C, 0x10A1040C, 0x10C1200C, 0x1101040C,
    0x1121040C, 0x1141040C, 0x11610400, 0x11810400, 0x11A10400, 0x11C18400, 0x1221040C, 0x13210400,
    0x1421040C, 0x1509A5A5, 0x1609A5A5, 0x1709A5A5].map (decodeTableWord 32)) =
    [some (.movVv m0 4 8), some (.movVs m0 4 8), some (.movSv m0 4 8), some (.movSs m0 4 8), some (.aadd m0 4 8 12),
    some (.slid m0 4 8 12), some (.sel m0 4 0 12), some (.vshfl m0 4 8 12), some (.vbcast m0 4 8 12),
    some (.vrot m0 4 8 12), some (.vconf m0 4 8), some (.vmatch m0 4 8), some (.vcompact m0 4 8), some (.vballot m0 6 8),
    some (.vscan m0 1 4 8 12), some (.vred m0 1 4 8), some (.vcomb m0 1 4 8 12), some (.moviV m0 4 107941),
    some (.moviS m0 4 107941), some (.moviHi m0 4 107941)] := by decide

/-- Opcodes 0x10 to 0x1F, part 2: the rows' fixed bits and field places (R106 to R115). -/
theorem test_decode_1x_2 : ([0x18082082, 0x190821A5, 0x1A0921A5, 0x1B0921A5, 0x1C9121A5, 0x1D907ABC, 0x1E080005, 0x1F000400,
    0x1F200005, 0x1F400000].map (decodeTableWord 32)) =
    [some (.cvt m0 4 8 4 2), some (.lea m0 4 8 421), some (.rgetX m0 4 0 421), some (.rputX m0 4 0 421),
    some (.xadd m0 0 0 421), some (.xset m0 0 31420), some (.rdid m0 4 5), some (.wbase m0 8), some (.extAcq m0 5),
    some (.extRel m0)] := by decide

/-- Opcodes 0x20 to 0x2F, part 1: the rows' fixed bits and field places (R106 to R115). -/
theorem test_decode_2x_1 : ([0x2001040C, 0x2021040C, 0x2041040C, 0x2061040C, 0x2081040C, 0x20A1040C, 0x20C10400, 0x20E10400,
    0x2101040C, 0x2121040C, 0x2141040C, 0x2161040C, 0x2181040C, 0x21A1040C, 0x21C10400, 0x21E10400,
    0x2201040C, 0x2221040C, 0x2241040C, 0x2261040C].map (decodeTableWord 32)) =
    [some (.faddF64 m0 4 8 12), some (.fsubF64 m0 4 8 12), some (.fmulF64 m0 4 8 12), some (.fmaF64 m0 4 8 12),
    some (.fminF64 m0 4 8 12), some (.fmaxF64 m0 4 8 12), some (.fnegF64 m0 4 8), some (.fabsF64 m0 4 8),
    some (.faddF32 m0 4 8 12), some (.fsubF32 m0 4 8 12), some (.fmulF32 m0 4 8 12), some (.fmaF32 m0 4 8 12),
    some (.fminF32 m0 4 8 12), some (.fmaxF32 m0 4 8 12), some (.fnegF32 m0 4 8), some (.fabsF32 m0 4 8),
    some (.faddBf16 m0 4 8 12), some (.fsubBf16 m0 4 8 12), some (.fmulBf16 m0 4 8 12), some (.fmaBf16 m0 4 8 12)] := by decide

/-- Opcodes 0x20 to 0x2F, part 2: the rows' fixed bits and field places (R106 to R115). -/
theorem test_decode_2x_2 : ([0x2281040C, 0x22A1040C, 0x22C10400, 0x22E10400, 0x2301040C, 0x2321040C, 0x2341040C, 0x2361040C,
    0x2381040C, 0x23A1040C, 0x23C10400, 0x23E10400, 0x2471040C, 0x2531040C, 0x2631040C, 0x2731040C,
    0x28010400, 0x29810400].map (decodeTableWord 32)) =
    [some (.fminBf16 m0 4 8 12), some (.fmaxBf16 m0 4 8 12), some (.fnegBf16 m0 4 8), some (.fabsBf16 m0 4 8),
    some (.faddF16 m0 4 8 12), some (.fsubF16 m0 4 8 12), some (.fmulF16 m0 4 8 12), some (.fmaF16 m0 4 8 12),
    some (.fminF16 m0 4 8 12), some (.fmaxF16 m0 4 8 12), some (.fnegF16 m0 4 8), some (.fabsF16 m0 4 8),
    some (.fcmpF64 m0 3 4 8 12), some (.fcmpF32 m0 1 4 8 12), some (.fcmpBf16 m0 1 4 8 12), some (.fcmpF16 m0 1 4 8 12),
    some (.fclass m0 0 4 8), some (.vnzmask m0 4 4 8)] := by decide

/-- Opcodes 0x30 to 0x3F, part 1: the rows' fixed bits and field places (R106 to R115). -/
theorem test_decode_3x_1 : ([0x3001040C, 0x30210400, 0x30410400, 0x30610400, 0x30810400, 0x30A10400, 0x30C10400, 0x30E10400,
    0x3101040C, 0x31210400, 0x31410400, 0x31610400, 0x32010400, 0x3308218B, 0x3461040C, 0x3541040C,
    0x3621040C, 0x3801040C, 0x3821040C, 0x3841040C].map (decodeTableWord 32)) =
    [some (.fdivF32 m0 4 8 12), some (.fsqrtF32 m0 4 8), some (.frcpF32 m0 4 8), some (.frsqF32 m0 4 8),
    some (.fex2F32 m0 4 8), some (.flg2F32 m0 4 8), some (.fsinF32 m0 4 8), some (.fcosF32 m0 4 8),
    some (.fdivF64 m0 4 8 12), some (.fsqrtF64 m0 4 8), some (.frcpF64 m0 4 8), some (.frsqF64 m0 4 8),
    some (.ferfF32 m0 4 8), some (.fcvt m0 4 8 12 11), some (.fpack m0 3 4 8 12), some (.funpk m0 2 4 8 12),
    some (.fscale m0 1 4 8 12), some (.madd m0 4 8 12), some (.msub m0 4 8 12), some (.mmul m0 4 8 12)] := by decide

/-- Opcodes 0x30 to 0x3F, part 2: the rows' fixed bits and field places (R106 to R115). -/
theorem test_decode_3x_2 : ([0x3861040C, 0x38810400, 0x38A10400, 0x38C10400, 0x38E10400, 0x390823A5, 0x3A0823A5, 0x3B01040C,
    0x3B210400, 0x3B410400, 0x3B610400, 0x3B810400, 0x3BA10400, 0x3BC10400, 0x3BE1040C].map (decodeTableWord 32)) =
    [some (.mscale m0 4 8 12), some (.mrelu m0 4 8), some (.mexp m0 4 8), some (.msigm m0 4 8), some (.mrcp m0 4 8),
    some (.mld m0 4 8 1 421), some (.mst m0 4 8 1 421), some (.mset m0 4 8 12), some (.mmov m0 4 8),
    some (.mcvtMomMb16 m0 4 8), some (.mcvtMb16Mom m0 4 8), some (.mcolMean m0 4 8), some (.mcolVar m0 4 8),
    some (.mcolSd m0 4 8), some (.mcolSmp m0 4 8 12)] := by decide

/-- Opcodes 0x40 to 0x4F, part 1: the rows' fixed bits and field places (R106 to R115). -/
theorem test_decode_4x_1 : ([0x40082045, 0x41082045, 0x4221040C, 0x4321040C, 0x44082045, 0x45082045, 0x46082045, 0x47082045,
    0x46082145, 0x47082145, 0x480821A5, 0x490821A5, 0x4A61040C, 0x4B000004, 0x4B200101, 0x4B400400,
    0x4B600401, 0x4B81440C, 0x4C01040C, 0x4C20040C].map (decodeTableWord 32)) =
    [some (.ld m0 4 8 0 1 5), some (.st m0 4 8 0 1 5), some (.ldIndexed m0 1 4 8 12), some (.stIndexed m0 1 4 8 12),
    some (.lds m0 4 8 1 5), some (.sts m0 4 8 1 5), some (.ldp m0 4 8 1 5), some (.stp m0 4 8 1 5), some (.ldA72 m0 4 8 5),
    some (.stA72 m0 4 8 5), some (.ldAcq m0 4 8 3 1 5), some (.stRel m0 4 8 3 1 5), some (.stf m0 3 4 8 12),
    some (.fence m0 4), some (.xfence m0 2 1), some (.cinv m0 8 0), some (.cflush m0 8 1), some (.pref m0 5 8 12),
    some (.cchk m0 4 8 12), some (.cinj m0 8 12)] := by decide

/-- Opcodes 0x40 to 0x4F, part 2: the rows' fixed bits and field places (R106 to R115). -/
theorem test_decode_4x_2 : ([0x4CA1040C, 0x4D21040C, 0x4E41043C].map (decodeTableWord 32)) =
    [some (.nzcnt m0 5 4 8 12), some (.ldgSplit m0 1 4 8 12), some (.atombAdd m0 2 4 8 3 12)] := by decide

/-- Opcodes 0x50 to 0x5F, part 1: the rows' fixed bits and field places (R106 to R115). -/
theorem test_decode_5x_1 : ([0x5021043C, 0x5121043C, 0x5221043C, 0x53C1043C, 0x54C1043C, 0x55C1043C, 0x56C1043C, 0x57C1043C,
    0x5848440C, 0x5948440C, 0x5A48440C, 0x5B48440C, 0x5C48440C, 0x5D004000, 0x5D20440C, 0x5D40440C,
    0x5D604400, 0x5D804400].map (decodeTableWord 32)) =
    [some (.atomAdd m0 1 4 8 3 12), some (.atomMin m0 1 4 8 3 12), some (.atomMax m0 1 4 8 3 12),
    some (.atomAnd m0 6 4 8 3 12), some (.atomOr m0 6 4 8 3 12), some (.atomXor m0 6 4 8 3 12),
    some (.atomExch m0 6 4 8 3 12), some (.atomCas m0 6 4 8 3 12), some (.mm m0 9 1 8 12), some (.mmloop m0 9 1 8 12),
    some (.mmsp m0 9 1 8 12), some (.mmgat m0 9 1 8 12), some (.mmaMom m0 9 1 (8, 12)), some (.accz m0 1),
    some (.accld m0 1 8 12), some (.accst m0 1 8 12), some (.accrd m0 1 8), some (.accwr m0 1 8)] := by decide

/-- Opcodes 0x60 to 0x6F, part 1: the rows' fixed bits and field places (R106 to R115). -/
theorem test_decode_6x_1 : ([0x60010468, 0x6021046D, 0x60410003, 0x60610001, 0x60910001, 0x61000405, 0x61200000, 0x6201040C,
    0x6221040C, 0x63010400, 0x6320040C, 0x63400400, 0x64000400, 0x64200400, 0x64510400, 0x6500012C,
    0x66000000, 0xE8612345, 0x69612345, 0x6A00040C].map (decodeTableWord 32)) =
    [some (.shipW m0 4 8 1 5), some (.shipT m0 4 8 1 5 5), some (.sret m0 4 3), some (.tkwait m0 4 1), some (.tktest m0 4 1),
    some (.launch m0 8 5), some (.trig m0), some (.cpy m0 4 8 12), some (.cpy2d m0 4 8 12), some (.gnode m0 4 8),
    some (.gdep m0 8 12), some (.gsig m0 8), some (.pfarrive m0 8), some (.pfwait m0 8), some (.pftest m0 4 8),
    some (.pause m0 300), some (.yieldSave m0), some (.bra sw 3 74565), some (.call m0 3 74565), some (.brx m0 8 12)] := by decide

/-- Opcodes 0x60 to 0x6F, part 2: the rows' fixed bits and field places (R106 to R115). -/
theorem test_decode_6x_2 : ([0x6A200000, 0x6A400000, 0xEA600000, 0x6B00A5A5].map (decodeTableWord 32)) =
    [some (.ret m0), some (.exit m0), some (.join sw), some (.pri m0 42405)] := by decide

/-- Opcodes 0x70 to 0x7F, part 1: the rows' fixed bits and field places (R106 to R115). -/
theorem test_decode_7x_1 : ([0x70000000, 0x70200400, 0x70400400, 0x70600000, 0x70800005, 0x70A00005, 0x78000005, 0x78200000,
    0x78400000, 0x78600000, 0x78800000, 0x78A00000, 0x79080012, 0x7A002012, 0x7B080021].map (decodeTableWord 32)) =
    [some (.barWg m0), some (.barCon m0 8), some (.regroup m0 8), some (.regroupFlush m0), some (.tktTake m0 5),
    some (.tktWait m0 5), some (.trap m0 5), some (.tretRetry m0), some (.tretSkip m0), some (.brk m0), some (.nop m0),
    some (.exitFault m0), some (.rdctl m0 4 18), some (.wrctl m0 8 18), some (.rdcnt m0 4 33)] := by decide
/-! ## Small states: a beam of eight lanes, and a section, about to issue -/

theorem some_getD {α : Type} {o : Option α} (d : α) (h : o.isSome = true) : o = some (o.getD d) := by
  cases o with
  | none => cases h
  | some x => rfl

def noFrame : Frame := ⟨.beam 0 0, default, State.reset.place (.beam 0 0), default, false, none, 0⟩

/-- The issue that a state holds, under these modifiers. -/
def frameOf (s : State) (m : Mods) : Frame := (s.frame? m).getD noFrame

/-- The key of the one workgroup, and its one beam. -/
def wk : Nat := wgKey 1 0
def bm : Agent := .beam wk 0

/-- A `nop` stands at 0x10000, where the eight lanes of the one beam issue. -/
def demo : State := { State.reset.placeWords 0x78800000 0 with agenda := [], cur := some ⟨bm, 0x10000, 0x10004, 0, 0xFF, false, [0x78800000], none, none⟩ }

/-- The same with these registers written, and with other changes to its beam and its workgroup. -/
def demoW (ws : List RegWrite) : State := demo.modBeam bm (·.writes ws)
def demoB (f : Beam → Beam) : State := demo.modBeam bm f
def demoG (f : Wg → Wg) : State := demo.modWg wk f

/-- A request of thread 3 of the workgroup, lane 3, with the lock at 0x40. -/
def ask : Request := ⟨0, wk, 0, 0, 3, 3, 0, 0x10000, 0x40, 1, [CW.make 7], 2, 3, 0, none, false, false, false, 0, .empty, none, 0, 0⟩

/-- Lantern core 0 runs the section of that request, and issues. -/
def sect (f : Section → Section) : State :=
  let s := State.reset.placeWords 0x78800000 0
  { (s.modDie 0 fun d => { d with tlb := [placedPage] }).modLantern 0 fun l =>
      { l with running := some (f ⟨ask, sectionBeam ask 0, fmtPresets, true, true, 0, [], none, [], [], .empty⟩) } with
    agenda := [], cur := some ⟨.lantern 0, 0x10000, 0x10004, 0, 1, false, [0x78800000], none, none⟩ }
def lant : State := sect id

/-- Where the other port has not issued, the frame's beam is the beam. -/
theorem frame_here {s : State} {m : Mods} {f : Frame} (h : s.frame? m = some f) (hv : f.i.view = none) : s.beam? f.a = some f.b := by
  unfold State.frame? at h
  split at h
  · cases h
  · rename_i i hi
    split at h
    · cases h
    · rename_i b hb
      cases h
      dsimp only at hv ⊢
      rw [hv] at hb
      simpa using hb

def readyB (s : State) (m : Mods) : Bool :=
  (s.frame? m).isSome && (frameOf s m).i.view.isNone && (frameOf s m).active != 0 && ((frameOf s m).lantern || (frameOf s m).b.outstanding.isEmpty)

theorem ready_of {s : State} {m : Mods} (h : readyB s m = true) : (frameOf s m).Ready s m := by
  simp only [readyB, Bool.and_eq_true, Bool.or_eq_true, bne_iff_ne, List.isEmpty_iff] at h
  obtain ⟨⟨⟨hf, hv⟩, ha⟩, hc⟩ := h
  exact ⟨some_getD _ hf, frame_here (some_getD _ hf) (by simpa using hv), ha, hc.imp_right .inr⟩

def quietB (s : State) (f : Frame) : Bool :=
  (s.core f.pl.core).lines.isEmpty && (s.core f.pl.core).flights.isEmpty && f.b.lanes.all (·.early.isEmpty) && s.mem.wf && s.l2mem.wf

theorem quiet_of {s : State} {f : Frame} (h : quietB s f = true) : f.Quiet s := by
  simp only [quietB, Bool.and_eq_true, List.isEmpty_iff, List.all_eq_true] at h
  exact ⟨h.1.1.1.1, h.1.1.1.2, h.1.1.2, h.1.2, h.2⟩

theorem fits_of {f : Frame} {os : List Opnd} (h : os.all f.inBounds = true) : f.Fits os := by
  simpa [Frame.Fits] using h

theorem reads_of {f : Frame} {os : List Opnd} {x : Nat → List Nat}
    (h : (f.lanes.all fun l => decide (os.map (f.value l) = (x l).map some)) = true) : f.Reads os x := by
  simpa [Frame.Reads] using h

/-- A state, modifiers, operands that fit and what its lanes read of operands, together. -/
def Meets (s : State) (m : Mods) (os src : List Opnd) (x : Nat → List Nat) : Prop :=
  (frameOf s m).Ready s m ∧ (frameOf s m).Fits os ∧ (frameOf s m).Reads src x

def meetsB (s : State) (m : Mods) (os src : List Opnd) (x : Nat → List Nat) : Bool :=
  readyB s m && os.all (frameOf s m).inBounds &&
    (frameOf s m).lanes.all fun l => decide (src.map ((frameOf s m).value l) = (x l).map some)

theorem meets_of {s : State} {m : Mods} {os src : List Opnd} {x : Nat → List Nat} (h : meetsB s m os src x = true) :
    Meets s m os src x := by
  simp only [meetsB, Bool.and_eq_true] at h
  exact ⟨ready_of h.1.1, fits_of h.1.2, reads_of h.2⟩

def mapsB (s : State) (core ctx : Nat) (acc : Access) (va : Nat) (p : Page) : Bool :=
  match (if isLantern core then (s.die (dieOfCore core)).tlb else (s.core core).tlb).find? (·.covers ctx (va % 2 ^ 72)) with
  | some t => t.allows acc && p == t.page (va % 2 ^ 72) && !isSystem p.loc
  | none => false

theorem maps_of {s : State} {core ctx : Nat} {acc : Access} {va : Nat} {p : Page} (h : mapsB s core ctx acc va p = true) :
    s.Maps core ctx acc va p := by
  unfold mapsB at h
  split at h
  · rename_i t ht
    simp only [Bool.and_eq_true, Bool.not_eq_true', beq_iff_eq] at h
    exact ⟨t, ht, h.1.1, h.1.2, fun e => by rw [h.2] at e; cases e⟩
  · cases h

def reachesB (s : State) (f : Frame) (acc : Access) (e va : Nat) (p : Page) : Bool :=
  va % e == 0 && mapsB s f.pl.core f.pl.ctx acc va p && !p.rd && s.resolve p.loc == p.loc

theorem reachesOne_of {s : State} {f : Frame} {acc : Access} {e va : Nat} {p : Page} (h : reachesB s f acc e va p = true) :
    f.ReachesOne s acc e va p := by
  simp only [reachesB, Bool.and_eq_true, Bool.not_eq_true', beq_iff_eq] at h
  exact ⟨h.1.1.1, maps_of h.1.1.2, h.1.2, h.2⟩

theorem reaches_of {s : State} {f : Frame} {acc : Access} {e : Nat} {va : Nat → Nat} {p : Nat → Page}
    (h : (f.lanes.all fun l => reachesB s f acc e (va l) (p l)) = true) : f.Reaches s acc e va p := fun l hl =>
  reachesOne_of (by simpa using List.all_eq_true.mp h l hl)

/-- The page of an address under the one translation. -/
def pg (va : Nat) : Page := placedPage.page va


def steadyB (s : State) (f : Frame) : Bool :=
  f.b.lanes.all (·.early.isEmpty) && s.mem.wf && s.l2mem.wf && smSorted (s.core f.pl.core).lines &&
    (s.core f.pl.core).lines.all (fun e => smSorted e.2.dirty && e.2.dirty.all (fun d => decide (d.1 < 16)) && e.2.words.length == 16) &&
    (s.core f.pl.core).flights.all (fun x => x.loc % 4 == 0) && !f.ordered && decide (f.pl.core < s.cores.length)

theorem steady_of {s : State} {f : Frame} (h : steadyB s f = true) : f.Steady s := by
  simp only [steadyB, Bool.and_eq_true, List.all_eq_true, List.isEmpty_iff, Bool.not_eq_true', decide_eq_true_eq, beq_iff_eq] at h
  obtain ⟨⟨⟨⟨⟨⟨⟨h1, h2⟩, h3⟩, h4⟩, h5⟩, h6⟩, h7⟩, h8⟩ := h
  exact ⟨h1, ⟨h2, h3⟩, ⟨h4, fun e he => (h5 e he).1⟩, fun e he => (h5 e he).2, h6, h7, h8⟩

/-- What stops a lane's access, where something does. -/
def refusesB (s : State) (core ctx : Nat) (acc : Access) (e va : Nat) : Option Cause :=
  if va % e != 0 then some ⟨0x09, 0, 0, va, 0⟩
  else match (if isLantern core then (s.die (dieOfCore core)).tlb else (s.core core).tlb).find? (·.covers ctx (va % 2 ^ 72)) with
    | some t => if t.allows acc then none else some ⟨0x0A, acc.bits, 0, va, 0⟩
    | none => none

theorem refuses_of {s : State} {core ctx : Nat} {acc : Access} {e va : Nat} {c : Cause} (h : refusesB s core ctx acc e va = some c) :
    s.Refuses core ctx acc e va c := by
  unfold refusesB at h
  split at h
  · rename_i h1
    exact .inl ⟨by simpa using h1, (Option.some.inj h).symm⟩
  · rename_i h1
    split at h
    · rename_i t ht
      split at h
      · cases h
      · rename_i h2
        exact .inr ⟨by simpa using h1, t, ht, by simpa using h2, (Option.some.inj h).symm⟩
    · cases h

def fateB (s : State) (f : Frame) (src : List Opnd) (b : Option Nat) (acc : Access) (e : Nat) (addr : Nat → List Nat → Nat)
    (index : List Nat → Option Nat) (x : Nat → List Nat) (p : Nat → Page) (l : Nat) : Option Cause → Bool
  | none => src.map (f.value l) == (x l).map some && (index (x l)).isNone && reachesB s f acc e (addr l (x l)) (p l)
  | some k => (b.any fun n => f.value l (.v n 1) == none && k == lccOf (f.b.vreg l (f.b.wb + n))) ||
    (src.map (f.value l) == (x l).map some && match index (x l) with
      | some i => k == ⟨0x0B, 0, 0, i, 0⟩
      | none => refusesB s f.pl.core f.pl.ctx acc e (addr l (x l)) == some k)

theorem fate_of {s : State} {f : Frame} {src : List Opnd} {b : Option Nat} {acc : Access} {e : Nat} {addr : Nat → List Nat → Nat}
    {index : List Nat → Option Nat} {x : Nat → List Nat} {p : Nat → Page} {l : Nat} {c : Option Cause}
    (h : fateB s f src b acc e addr index x p l c = true) : f.LaneFate s src b acc e addr index x p l c := by
  cases c with
  | none =>
    simp only [fateB, Bool.and_eq_true, beq_iff_eq, Option.isNone_iff_eq_none] at h
    exact .inl ⟨rfl, h.1.1, h.1.2, reachesOne_of h.2⟩
  | some k =>
    refine .inr ⟨k, rfl, ?_⟩
    simp only [fateB, Bool.or_eq_true, Bool.and_eq_true, beq_iff_eq, Option.any_eq_true] at h
    refine h.imp (fun ⟨n, hb, hn⟩ => ⟨n, hb, hn.1, hn.2⟩) fun ⟨h1, h2⟩ => ⟨h1, ?_⟩
    cases hi : index (x l) with
    | some i => simpa [hi] using h2
    | none => exact refuses_of (by simpa [hi] using h2)

def decidesB (f : Frame) (cs : Nat → Option Cause) (l : Nat) (c : Cause) : Bool :=
  f.lanes.contains l && cs l == some c &&
    f.lanes.all fun j => (cs j).all fun k => decide (c.code < k.code) || (c.code == k.code && decide (l ≤ j))

theorem decides_of {f : Frame} {cs : Nat → Option Cause} {l : Nat} {c : Cause} (h : decidesB f cs l c = true) : f.Decides cs c := by
  simp only [decidesB, Bool.and_eq_true, beq_iff_eq, List.all_eq_true, List.contains_iff_mem] at h
  exact ⟨l, h.1.1, h.1.2, fun j hj k hk => by have := h.2 j hj; simpa [hk] using this⟩

/-- The workgroup's beam may trap. -/
def mayB (s : State) (f : Frame) : Bool :=
  f.a == bm && f.pl.wg == wk && (s.wg? wk).any (fun g => g.trapvec != 0) && !f.lantern && !f.b.inh

theorem may_of {s : State} {f : Frame} (h : mayB s f = true) : ∃ g, f.MayTrap s g := by
  simp only [mayB, Bool.and_eq_true, beq_iff_eq, Option.any_eq_true, bne_iff_ne, Bool.not_eq_true'] at h
  obtain ⟨⟨⟨⟨ha, hw⟩, g, hg, hv⟩, hl⟩, hi⟩ := h
  exact ⟨g, ⟨0, by rw [ha, hw]; rfl⟩, by rw [hw]; exact hg, hl, hi, hv⟩

theorem fates_of {s : State} {f : Frame} {src : List Opnd} {b : Option Nat} {acc : Access} {e : Nat} {addr : Nat → List Nat → Nat}
    {index : List Nat → Option Nat} {x : Nat → List Nat} {p : Nat → Page} {c : Nat → Option Cause}
    (h : (f.lanes.all fun l => fateB s f src b acc e addr index x p l (c l)) = true) :
    ∀ l ∈ f.lanes, f.LaneFate s src b acc e addr index x p l (c l) := fun l hl => fate_of (List.all_eq_true.mp h l hl)
/-! ## Witnesses: states and operands that meet the hypotheses of the statements

Each names its statement; operands stand at the ends of their ranges where there are ends. -/

/-- Registers 62 and 63 are the last of the allocation; a division by zero; the fourth operand with and without a prefix. -/
theorem witness_IntegerResults :
    Meets (demoW [.v 7 62 (CW.make 5)]) m0 [.v 62 1, .v 63 1, .v 0 1] [.v 62 1, .v 63 1] (fun l => [if l = 7 then 5 else 0, 0]) ∧
    Meets (demoW [.v 7 62 (CW.make 5)]) m0 [.v 62 2, .v 0 2, .v 60 2] [.v 62 2, .v 0 2] (fun l => [if l = 7 then 5 else 0, 0]) ∧
    Meets demo (px { p0 with c := 62 }) [.v 0 1, .v 1 1, .v 62 1, .v 63 1] [.v 0 1, .v 1 1, .v ((frameOf demo (px { p0 with c := 62 })).c 63) 1]
      (fun _ => [0, 0, 0]) ∧
    Meets (demoW [.s 0 (mkS (2 ^ 72 - 1))]) m0 [] [.s 0, .s 63, .s 64, .s 71, .s 72, .s 76, .s 77, .s 78]
      (fun l => [2 ^ 72 - 1, 0, 2 ^ 64 - 1, 0, 0, 0, l, l]) ∧ 0 < 1 :=
  ⟨meets_of (by decide), meets_of (by decide), meets_of (by decide), meets_of (by decide), Nat.one_pos⟩

theorem witness_IntCompareResults :
    Meets demo m0 [.v 62 2, .v 63 1] [.v 62 1, .v 63 1] (fun _ => [0, 0]) ∧ Meets demo m0 [.v 0 2, .v 62 2] [.v 0 2, .v 62 2] (fun _ => [0, 0]) ∧
    Meets demo m0 [] [.s 0, .s 76] (fun _ => [0, 0]) :=
  ⟨meets_of (by decide), meets_of (by decide), meets_of (by decide)⟩

/-- `sel` under k7; `rget.x` of the first and the last register of the allocation. -/
theorem witness_MoveAndWindowResults :
    Meets demo m0 [.v 63 1, .v 62 2] [.v 63 1, .v 62 2, .s 75, .s 78] (fun l => [0, 0, 0, l]) ∧
    (let s := demoW [.k 7 (mkK 8 0x80)]
     let f := frameOf s m0
     f.Ready s m0 ∧ f.Fits [.v 1 1, .v (f.c 63) 1, .v 63 1] ∧ f.value f.elected (.s (64 + 7)) = some 0x80 ∧
     ∀ l ∈ f.lanes, f.value l (.v (if (0x80 : Nat).testBit l then 1 else f.c 63) 1) = some 0) ∧
    (let f := frameOf demo m0
     f.Fits [.v 63 1] ∧ f.Reads [.s (72 + 3)] (fun _ => [0]) ∧ f.b.total = 64 ∧
     (∀ l ∈ f.lanes, ((0 : Nat) : Int) = f.b.wb + (BitVec.ofNat 72 0).toInt + (0 : BitVec 7).toInt) ∧
     ∀ l ∈ f.lanes, ((63 : Nat) : Int) = f.b.wb + (BitVec.ofNat 72 0).toInt + (63 : BitVec 7).toInt) ∧
    (frameOf demo m0).value (frameOf demo m0).elected (.s 78) = some 0 :=
  ⟨meets_of (by decide), ⟨ready_of (by decide), fits_of (by decide), by decide, by decide⟩,
   ⟨fits_of (by decide), reads_of (by decide), by decide, by decide, by decide⟩, by decide⟩

theorem witness_PermuteAndCombineResults :
    Meets (demoW [.v 0 63 (CW.make 7), .v 1 63 (CW.make 8)]) m0 [.v 63 1, .v 62 1, .v 0 1] [.v 63 1]
      (fun l => [if l = 0 then 7 else if l = 1 then 8 else 0]) ∧
    (frameOf demo m0).value (frameOf demo m0).elected (.s 0) = some 0 ∧ (frameOf demo m0).b.width = 8 ∧
    Meets demo m0 [.v 63 1, .v 62 1, .v 0 1] [.v 63 1, .v 62 1] (fun _ => [0, 0]) :=
  ⟨meets_of (by decide), by decide, by decide, meets_of (by decide)⟩

/-- One half and the smallest subnormal; a pair; a fourth operand. -/
theorem witness_FloatArithmeticResults :
    Meets (demoW [.v 0 1 (CW.make 0x3F000000), .v 0 2 (CW.make 1)]) (px { p0 with rm := 5, c := 3 }) [.v 1 1, .v 2 1, .v 3 1, .v 63 1]
      [.v 1 1, .v 2 1, .v 3 1] (fun l => if l = 0 then [0x3F000000, 1, 0] else [0, 0, 0]) ∧
    Meets demo m0 [.v 62 2, .v 0 2, .v 2 2] [.v 62 2, .v 0 2] (fun _ => [0, 0]) :=
  ⟨meets_of (by decide), meets_of (by decide)⟩

/-- Conversions with no NF type, to nf8 and between the two NF types, under the presets of the format registers. -/
theorem witness_FloatTestAndConversionResults :
    Meets demo m0 [.v 62 2, .v 63 1] [.v 62 2, .v 63 1] (fun _ => [0, 0]) ∧
    Meets demo m0 [.v 62 2, .v 60 2] [.v 62 2] (fun _ => [0]) ∧ (0 : BitVec 3).toNat ≤ 4 ∧ (4 : BitVec 3).toNat ≤ 4 ∧
    (∀ n w, (n, w) ∈ cvtFormats 0 (cvtTy 10) (cvtTy 0) → ((demo.nf (frameOf demo m0) n).validFor w = true)) ∧
    (∀ x ∈ cvtFormats 0 (cvtTy 14) (cvtTy 11), ((demo.nf (frameOf demo m0) x.1).validFor x.2 = true)) ∧
    cvtFormats 0 (cvtTy 14) (cvtTy 11) ≠ [] := by
  refine ⟨meets_of (by decide), meets_of (by decide), by decide, by decide, ?_, by decide, by decide⟩
  intro n w h
  exact absurd h (by rw [show cvtFormats 0 (cvtTy 10) (cvtTy 0) = [] by decide]; exact List.not_mem_nil)

theorem witness_ScaledPackResults :
    (frameOf demo m0).Ready demo m0 ∧ (demo.nf (frameOf demo m0) 0).validFor (nfWidth 0) = true ∧
    (frameOf demo m0).Fits [.v 1 1, .v ((frameOf demo m0).c 63) 1, .v 2 1, .v 63 1] ∧
    (frameOf demo m0).Reads [.v 1 1, .v ((frameOf demo m0).c 63) 1] (fun _ => [0, 0]) ∧
    (∀ l ∈ (frameOf demo m0).lanes, (frameOf demo m0).value (l / 8 * 8) (.v 2 1) = some 0) :=
  ⟨ready_of (by decide), by decide, fits_of (by decide), reads_of (by decide), by decide⟩

theorem witness_NanOperandsAndHeldValues :
    ((IFmt.fp32.source false 0x7FC00000).isNaN = true ∧ (IFmt.fp32.source true 0x7F800001).isNaN = true) ∧
    (0x7F800000 < 2 ^ IFmt.fp32.width ∧ (IFmt.fp32.decode 0x7F800000).isNaN = false) ∧
    (0xFFFF < 2 ^ IFmt.bf16.width ∧ (0x0001 : Nat) < 2 ^ IFmt.fp16.width ∧ (IFmt.fp16.decode 0x0001).isNaN = false) := by decide

theorem storeSeq_of {e : Nat} {loc : Nat → Nat} {new : Nat → List CW → Option (List CW)} {ls : List Nat} {v : Nat → CW}
    (h : (storeSeq e loc new ls v).isSome = true) : ∃ u, storeSeq e loc new ls v = some u := Option.isSome_iff_exists.mp h

/-- Strided word loads to the last word of the page; a byte; 64 bytes a lane; each lane at its own offset. -/
theorem witness_LoadResults :
    (let s := demoW [.s 5 (mkS (0x40000000 - 32)), .s 6 (mkS 0x3FFFFF00), .v 3 1 (CW.make 64)]
     let f := frameOf s m0
     f.Ready s m0 ∧ f.Quiet s ∧ f.Fits [.s 5, .s 6, .v 1 1, .v 60 4, .v 63 1] ∧ f.Reads [.s 5] (fun _ => [0x40000000 - 32]) ∧
     f.Reads [.s 6, .v 1 1] (fun l => [0x3FFFFF00, if l = 3 then 64 else 0]) ∧
     f.Reaches s .load 4 (fun l => strided 4 0 l [0x40000000 - 32]) (fun l => pg (strided 4 0 l [0x40000000 - 32])) ∧
     f.Reaches s .load 1 (fun l => strided 1 (-1) l [0x40000000 - 32]) (fun l => pg (strided 1 (-1) l [0x40000000 - 32])) ∧
     f.Reaches s .load 64 (fun l => indexed l [0x3FFFFF00, if l = 3 then 64 else 0])
       (fun l => pg (indexed l [0x3FFFFF00, if l = 3 then 64 else 0])) ∧
     (∀ l ∈ f.lanes, (loadOut 63 1 s f l 0x3FFFFFFF (s.homeRange 0x3FFFFFFC 1)).isSome = true) ∧
     (∀ l ∈ f.lanes, (loadOut 60 16 s f l 0x3FFFFFF0 (s.homeRange 0x3FFFFFF0 4)).isSome = true) ∧
     (checkedData (s.homeRange 0x3FFFFF00 16)).isSome = true) ∧
    (let f := frameOf lant m0
     f.Ready lant m0 ∧ f.lantern = true ∧ f.Quiet lant ∧
     f.Reaches lant .load 16 (fun l => indexed l [0x40, 0]) (fun l => pg (indexed l [0x40, 0])) ∧ f.Reads [.s 0, .v 255 1] (fun _ => [0x40, 0])) :=
  ⟨⟨ready_of (by decide), quiet_of (by decide), fits_of (by decide), reads_of (by decide), reads_of (by decide), reaches_of (by decide),
    reaches_of (by decide), reaches_of (by decide), by decide, by decide, by decide⟩,
   ready_of (by decide), by decide, quiet_of (by decide), reaches_of (by decide), reads_of (by decide)⟩

/-- Lanes store words side by side, and bytes of one word. -/
theorem witness_StoreResults :
    let s := demoW [.s 5 (mkS (0x40000000 - 32))]
    let f := frameOf s m0
    f.Ready s m0 ∧ f.Quiet s ∧ f.Fits [.s 5, .v 63 1, .v 62 2] ∧ f.Reads [.s 5, .v 63 1] (fun _ => [0x40000000 - 32, 0]) ∧
    (∀ e ∈ [1, 2, 4], f.Reaches s .store e (fun l => strided e 0 l [0x40000000 - 32]) (fun l => pg (strided e 0 l [0x40000000 - 32]))) ∧
    (∃ v, storeSeq 1 (fun l => wordLoc (pg (strided 1 0 l [0x40000000 - 32])).loc)
      (fun l => storeNew 63 1 s f l (strided 1 0 l [0x40000000 - 32])) f.lanes (s.coreWord f.pl.core) = some v) ∧
    ∃ v, storeSeq 4 (fun l => wordLoc (pg (strided 4 0 l [0x40000000 - 32])).loc)
      (fun l => storeNew 63 4 s f l (strided 4 0 l [0x40000000 - 32])) f.lanes (s.coreWord f.pl.core) = some v := by
  refine ⟨ready_of (by decide), quiet_of (by decide), fits_of (by decide), reads_of (by decide), ?_, storeSeq_of (by decide),
    storeSeq_of (by decide)⟩
  intro e he
  simp only [List.mem_cons, List.not_mem_nil, or_false] at he
  rcases he with rfl | rfl | rfl <;> exact reaches_of (by decide)

/-- The last words of the one granule of scratchpad. -/
theorem witness_ScratchResults :
    let s := demoW [.s 5 (mkS (16384 - 32))]
    let f := frameOf s m0
    f.Ready s m0 ∧ f.Fits [.v 63 1] ∧ f.lantern = false ∧ f.value f.elected (.s 5) = some (16384 - 32) ∧
    (∀ l ∈ f.lanes, scratchOff 4 0 l (16384 - 32) % 4 = 0 ∧ scratchOff 4 0 l (16384 - 32) < (s.scratchOf f.pl.wg).2 ∧
      (loadOut 63 4 s f l (scratchOff 4 0 l (16384 - 32)) [.zero]).isSome = true) ∧
    ∃ v, storeSeq 4 (fun l => wordLoc (scratchOff 4 0 l (16384 - 32))) (fun l => storeNew 63 4 s f l (scratchOff 4 0 l (16384 - 32)))
      f.lanes (fun y => (s.scratchOf f.pl.wg).1.word y) = some v :=
  ⟨ready_of (by decide), fits_of (by decide), by decide, by decide, by decide, storeSeq_of (by decide)⟩

/-- Context 0 has an entry that is valid, grants code injection, and has a ring of 16 records and `sf` save frames (R438). -/
def ctxWords (sf : Nat) : List CW :=
  freshWords 32 (2 ^ 31 + 2 ^ 30 + 2 ^ 128 * (0x300000 + 2 ^ 66 + 2 ^ 160 * sf + 2 ^ 192 * 0x80000 * 2 ^ 64))
def withCtx (s : State) (sf : Nat) : State :=
  { s with ctxs := smSet s.ctxs 0 { s.ctx 0 with cached := some (ctxWords sf) }, mod := { s.mod with ctxCount := 1 } }

theorem witness_ScalarMemoryResults :
    let s := withCtx (demoW [.s 5 (mkS 0x3FFFFFF0), .s 6 (mkS 1)]) 0
    let f := frameOf s m0
    f.Ready s m0 ∧ f.Quiet s ∧ f.value f.elected (.s 5) = some 0x3FFFFFF0 ∧ f.value f.elected (.s 6) = some 1 ∧
    f.ReachesOne s .load 8 (unitAddr 8 1 0x3FFFFFF0) (pg (unitAddr 8 1 0x3FFFFFF0)) ∧
    f.ReachesOne s .load 16 (unitAddr 16 0 0x3FFFFFF0) (pg (unitAddr 16 0 0x3FFFFFF0)) ∧
    f.ReachesOne s .store 1 (unitAddr 1 15 0x3FFFFFF0) (pg (unitAddr 1 15 0x3FFFFFF0)) ∧ f.ReachesOne s .store 4 0x3FFFFFF0 (pg 0x3FFFFFF0) ∧
    ((lccCheck ((s.homeRange (wordLoc 0x3FFFFFF0) 3).getD 2 .zero)).data?).isSome = true ∧
    (storeScalar 5 1 f 0x3FFFFFFF (s.homeRange (wordLoc 0x3FFFFFFF) 1)).isSome = true ∧
    (storeScalar 5 8 f 0x3FFFFFF8 (s.homeRange (wordLoc 0x3FFFFFF8) 2)).isSome = true ∧
    ((s.loadCtx f.pl.ctx).ctxEntry? f.pl.ctx).map (·.inj) = some true :=
  ⟨ready_of (by decide), quiet_of (by decide), by decide, by decide, reachesOne_of (by decide), reachesOne_of (by decide),
   reachesOne_of (by decide), reachesOne_of (by decide), by decide, by decide, by decide, by decide⟩

/-- The block of eight words ends where the page does; the flag stands before it. -/
theorem witness_FlaggedStoreResult :
    let s := demoW [.s 5 (mkS (0x40000000 - 32)), .s 6 (mkS 0x20000)]
    let f := frameOf s m0
    f.Ready s m0 ∧ f.Quiet s ∧ f.Fits [.v 63 1] ∧ f.value f.elected (.s 5) = some (0x40000000 - 32) ∧ f.value f.elected (.s 6) = some 0x20000 ∧
    f.ReachesOne s .store (4 * (if f.lantern then 1 else f.b.width)) (0x40000000 - 32) (pg (0x40000000 - 32)) ∧
    f.ReachesOne s .store 4 0x20000 (pg 0x20000) ∧ f.lanes.all (fun l => decide (l < if f.lantern then 1 else f.b.width)) = true ∧
    (lccCheck (f.lanes.foldl (fun v l => putView v ((pg (0x40000000 - 32)).loc + 4 * l) [f.b.vreg l (f.b.wb + 63)]) (s.coreWord f.pl.core)
      (wordLoc (pg 0x20000).loc))).data? = some 0 :=
  ⟨ready_of (by decide), quiet_of (by decide), fits_of (by decide), by decide, by decide, reachesOne_of (by decide),
   reachesOne_of (by decide), by decide, by decide⟩

/-- Every lane adds to one word, and to one pair of words; the bounded form just below its bound. -/
theorem witness_AtomicResults :
    let s := demoW ([.s 5 (mkS 0x3FFFFFF8), .s 6 (mkS 1)] ++ (List.range 8).map fun l => .v l 2 (CW.make (.ofNat 32 l)))
    let f := frameOf s m0
    let rmw := fun (d n : Nat) (l : Nat) (mem : List CW) => match dataOf mem, f.value l (.v d n) with
      | some x, some v => some (f.put l (.v d n) x, some ((wordsOfNat n (atomSum 0 x v)).map CW.make))
      | _, _ => none
    f.Ready s m0 ∧ f.Quiet s ∧ f.Fits [.s 5, .v 1 1, .v 2 2, .v (f.c 2) 2] ∧ f.Reads [.s 5, .v 1 1] (fun _ => [0x3FFFFFF8, 0]) ∧
    f.Reads [.s 5, .s 6, .v 1 1] (fun _ => [0x3FFFFFF8, 1, 0]) ∧ (0 < 1 % 2 ^ 64) ∧
    f.Reaches s .atomic 4 (fun l => indexed l [0x3FFFFFF8, 0]) (fun l => pg (indexed l [0x3FFFFFF8, 0])) ∧
    f.Reaches s .atomic 8 (fun l => indexed l [0x3FFFFFF8, 0]) (fun l => pg (indexed l [0x3FFFFFF8, 0])) ∧
    (rmwSeq 1 (fun _ => wordLoc (pg 0x3FFFFFF8).loc) (rmw 2 1) f.lanes (s.coreWord f.pl.core)).isSome = true ∧
    (rmwSeq 2 (fun _ => wordLoc (pg 0x3FFFFFF8).loc) (rmw 2 2) f.lanes (s.coreWord f.pl.core)).isSome = true ∧
    (2 ^ 32 - 1 < 2 ^ 32 ∧ 2 ^ 64 - 1 < 2 ^ 64) :=
  ⟨ready_of (by decide), quiet_of (by decide), fits_of (by decide), reads_of (by decide), reads_of (by decide), by decide,
   reaches_of (by decide), reaches_of (by decide), by decide, by decide, by decide⟩

/-- m31; a variance of 0, and the least subnormal one. -/
theorem witness_MomentRegisterResults :
    let s := demoW [.m 0 31 ⟨CW.make 0x3F800000, CW.make 1⟩]
    Meets s m0 [.m 31, .m 0, .v 63 1] [.m 31, .v 63 1] (fun l => if l = 0 then [0x3F800000 + 2 ^ 32, 0] else [0, 0]) ∧
    s.hasMoment (frameOf s m0).pl = true ∧ inVar false 1 = some 1 ∧ inVar false (varOf 0) = some 0 ∧ inVar true 0x80000001 = some 0 ∧
    (outMom false (momAdd false 0 0 0 0 0)).isSome = true ∧ meanOf (0x3F800000 + 2 ^ 32) % 2 ^ 31 ≠ 0 :=
  ⟨meets_of (by decide), by decide, by decide, by decide, by decide, by decide, by decide⟩

theorem witness_MomentMemoryResults :
    let s := demoW [.s 5 (mkS (0x40000000 - 64))]
    let f := frameOf s m0
    f.Ready s m0 ∧ f.Quiet s ∧ s.hasMoment f.pl = true ∧ f.Fits [.s 5, .m 31] ∧ f.Reads [.s 5] (fun _ => [0x40000000 - 64]) ∧
    (∀ e ∈ [4, 8], f.Reaches s .load e (fun l => strided e 0 l [0x40000000 - 64]) (fun l => pg (strided e 0 l [0x40000000 - 64])) ∧
      f.Reaches s .store e (fun l => strided e 0 l [0x40000000 - 64]) (fun l => pg (strided e 0 l [0x40000000 - 64]))) ∧
    (((lccCheck ((s.homeRange (wordLoc (0x40000000 - 64)) 1).headD .zero)).data?).bind fun w => inVar false (mb16Widen w.toNat).2) = some 0 := by
  refine ⟨ready_of (by decide), quiet_of (by decide), by decide, fits_of (by decide), reads_of (by decide), ?_, by decide⟩
  intro e he
  simp only [List.mem_cons, List.not_mem_nil, or_false] at he
  rcases he with rfl | rfl <;> exact ⟨reaches_of (by decide), reaches_of (by decide)⟩

/-- Writes of a descriptor's words to v60 on. -/
def descr (ws : List Nat) : List RegWrite :=
  ws.mapIdx fun i x => .v 0 (60 - ws.length % 2 + i) (CW.make (.ofNat 32 x))

def mulOk (s : State) (op h t a b : Nat) (x gather : Nat) : Bool :=
  let f := frameOf s m0
  let desc : MDesc := ⟨op, (wordsOfNat (descWords op) x).map (·.toNat)⟩
  let sh := matShape op desc.ty h
  let scaled := matScaled desc.ty && op != 4
  let regs := if scaled then scaleRegs 0 (desc.blocks sh) else 0
  readyB s m0 && f.value f.elected (.v a (descWords op)) == some x && f.inBounds (.v a (descWords op)) &&
    (!scaled || f.inBounds (.v b regs)) && !desc.malformed sh t (s.pools f).1 (s.pools f).2 f.b.width gather &&
    (if matScaled desc.ty then !scaled || (NfFmt.ofWord (s.fmtReg f.a 0)).validFor (matBits desc.ty) else b == 0) &&
    (op != 4 || s.hasMoment f.pl) && (op != 3 || f.value f.elected (.s desc.greg) == some gather)

/-- The same workgroup with its beam grown to 64 lanes. -/
def wide (s : State) : State :=
  s.modBeam bm fun b => { b with width := 64, lanes := (List.range 64).map fun l => { b.lane 0 with thread := l } }

/-- Each multiply command on the least descriptor: `mm` dense and scaled, `mmloop` of one step, `mmsp`, `mmgat`, `mma.mom` on a pair of
tiles. The other commands on tile 0, the largest flag number a granule holds, and copies within the scratchpad. -/
theorem witness_EngineIssue :
    (mulOk (demoW (descr [2, 0, 0, 0])) 0 6 0 60 0 2 0 = true ∧ mulOk (wide (demoW (descr [4, 0, 0, 0]))) 0 4 0 60 2 4 0 = true ∧
     mulOk (demoW ((descr [2, 0, 0, 0, 1, 0]).map fun w => match w with
       | .v l n x => .v l (n - 4) x
       | w => w)) 1 0 0 56 0 (2 + 2 ^ 128) 0 = true ∧
     mulOk (demoW (descr [2, 0, 0, 0, 0])) 2 0 0 59 0 2 0 = true ∧ mulOk (demoW (descr [2, 0, 0, 0, 0])) 3 0 0 59 0 2 0 = true ∧
     mulOk ((demoW (descr [1, 0, 0, 0])).modWg wk fun g => { g with acc := 2 }) 4 0 0 60 0 1 0 = true) ∧
    (let s := demoW [.s 5 (mkS 0x40), .s 6 (mkS (2 ^ 22 + 63 * 2 ^ 24)), .s 7 (mkS (2 ^ 20 + 2 ^ 21 + 4 * 2 ^ 32)), .s 8 (mkS 1)]
     let f := frameOf s m0
     f.Ready s m0 ∧ f.lantern = false ∧ 0 < (s.pools f).1 ∧ f.HasRoom s false ∧ f.HasRoom s true ∧
     f.value f.elected (.s 5) = some 0x40 ∧ f.value f.elected (.s 6) = some (2 ^ 22 + 63 * 2 ^ 24) ∧
     (2 ^ 22 + 63 * 2 ^ 24) / 2 % 2 ^ 21 = 0 ∧ badTarget 1 255 (s.pools f).2 = false ∧ badTarget 2 63 (s.pools f).2 = false ∧
     f.value f.elected (.s 7) = some (2 ^ 20 + 2 ^ 21 + 4 * 2 ^ 32) ∧ f.value f.elected (.s 8) = some 1 ∧
     copyMalformed 0x40 0x40 (2 ^ 20 + 2 ^ 21 + 4 * 2 ^ 32) 1 (s.pools f).2 = false ∧
     f.Fits [.v 62 2] ∧ s.subQueue false f.pl.core f.b.quarter = [] ∧ s.mayStart f.pl.core = true ∧ f.Reads [.v 62 1] (fun _ => [0]) ∧
     f.Reads [.v 63 1] (fun _ => [0]) ∧ ((lccCheck (s.tileWord f.pl.wg 0 4095)).data?).map (·.toNat) = some 0) ∧
    (let s := demo.setSubQueue false 0 0 (List.replicate 8 ⟨wk, 0, 0, 0x10000, .accz 0, 0, 0, 0, 0, 0, [], []⟩)
     (frameOf s m0).Ready s m0 ∧ ¬ (frameOf s m0).HasRoom s false) := by
  refine ⟨⟨by decide, by decide, by decide, by decide, by decide, by decide⟩,
    ⟨ready_of (by decide), by decide, by decide, ?_, ?_, by decide, by decide, by decide, by decide, by decide, by decide, by decide,
      by decide, fits_of (by decide), by decide, by decide, reads_of (by decide), reads_of (by decide), by decide⟩, ready_of (by decide), ?_⟩
  all_goals unfold Frame.HasRoom; decide

theorem witness_ShipSends :
    let s := demoW [.s 6 (mkS 0x3FFFFFC0), .s 7 (mkS 0x10000)]
    let f := frameOf s m0
    f.Ready s m0 ∧ f.lantern = false ∧ f.value f.elected (.s 6) = some 0x3FFFFFC0 ∧ f.value f.elected (.s 7) = some 0x10000 ∧
    f.Fits [.v 60 4, .v 56 8] ∧ s.Maps f.pl.core f.pl.ctx .atomic 0x3FFFFFC0 (pg 0x3FFFFFC0) ∧ s.mod.starHold = [] ∧
    ∀ l ∈ f.lanes, ((f.b.lane l).slot 7).state = .free :=
  ⟨ready_of (by decide), by decide, by decide, by decide, fits_of (by decide), maps_of (by decide), by decide, by decide⟩

/-- Slots that are DONE in the even lanes and FREE in the odd ones. -/
theorem witness_TokenCollection :
    let done := fun (l : Nat) (x : Lane) => if l % 2 = 0 then x.setSlot 7 ⟨.done, 0, 1, [CW.make 9], 2, 0x40, .empty⟩ else x
    let s := demoB fun b => { b with lanes := b.lanes.mapIdx done }
    let f := frameOf s m0
    f.Ready s m0 ∧ f.Fits [.v 59 5] ∧ f.Quiet s ∧ s.nextOf f.pl f.i.pc = f.i.next ∧ f.b.kept = none ∧
    (∀ e ∈ f.b.frontier, e.kind = .runnable) ∧ (∀ l ∈ f.lanes, ((f.b.lane l).slot 7).state ≠ .pending) :=
  ⟨ready_of (by decide), fits_of (by decide), quiet_of (by decide), by decide, by decide, by decide, by decide⟩

theorem witness_SectionReturns :
    let f := frameOf lant m0
    f.Ready lant m0 ∧ f.a = .lantern 0 ∧ (lant.section? 0).isSome = true ∧ f.Fits [.v 252 4] ∧ f.Quiet lant ∧
    lant.Maps f.pl.core f.pl.ctx .atomic ask.lock (pg 0x40) ∧ (lant.section? 0).map (·.req) = some ask ∧ lant.resolve (pg 0x40).loc = (pg 0x40).loc ∧
    (pg 0x40).loc % 8 = 0 ∧ (lccCheck (lant.homeWord (pg 0x40).loc)).data? = some 0 ∧ (lccCheck (lant.homeWord ((pg 0x40).loc + 4))).data? = some 0 :=
  ⟨ready_of (by decide), by decide, by decide, fits_of (by decide), quiet_of (by decide), maps_of (by decide), by decide, by decide, by decide,
   by decide, by decide⟩

/-- Device queue 63 has room for one more record; node 63 is free, or no node is; nodes 0 and 1 are held. -/
theorem witness_LaunchesAndGraphNodes :
    (let s := (demoW [.s 5 (mkS 0x20000)]).modLq 63 fun q => { q with en := true, device := true, log2 := 4, base := 0x30000, tail := 15 }
     let f := frameOf s m0
     f.Ready s m0 ∧ f.value f.elected (.s 5) = some 0x20000 ∧ (s.lq 63).takes f.pl.ctx = true ∧ (s.lq 63).pending < (s.lq 63).slots ∧ f.Quiet s ∧
     (∀ k < 64, f.ReachesOne s .load 4 ((0x20000 + 4 * k) % 2 ^ 72) (pg (0x20000 + 4 * k))) ∧
     f.ReachesOne s .store 64 ((s.lq 63).slotAddr (s.lq 63).tail) (pg ((s.lq 63).slotAddr (s.lq 63).tail)) ∧
     (pg ((s.lq 63).slotAddr (s.lq 63).tail)).loc % 256 = 0) ∧
    (demo.wg? wk).map (·.triggered) = some false ∧
    (let v := 15 + 2 ^ 26 + 2 ^ 55 + 255 * 2 ^ 56
     let s := (demoW [.s 5 (mkS v), .s 6 (mkS (2 ^ 18)), .s 7 (mkS 0x20000), .s 0 (mkS 0), .s 1 (mkS 1)])
     let f := frameOf s m0
     f.Ready s m0 ∧ f.value f.elected (.s 5) = some v ∧ (demo.wg? wk).isSome = true ∧ nodeMalformed v 1 = false ∧
     nodeMalformed (2 ^ 18) 1 = false ∧ f.value f.elected (.s 7) = some 0x20000 ∧ smFree (s.core f.pl.core).nodes 64 = some 0) ∧
    (let x : Node := ⟨.held, wk, false, 0, none, [], 1, 0, 0, false, none, .empty⟩
     let full := demo.modCore 0 fun c => { c with nodes := (List.range 64).map fun i => (i, x) }
     let s := (demoW [.s 1 (mkS 63)]).modCore 0 fun c => { c with nodes := [(0, x), (63, x)] }
     let f := frameOf s m0
     smFree (full.core (frameOf full m0).pl.core).nodes 64 = none ∧ f.Ready s m0 ∧ f.lantern = false ∧ f.value f.elected (.s 0) = some 0 ∧
     f.value f.elected (.s 1) = some 63 ∧ s.node? f.pl.core 0 = some x ∧ s.node? f.pl.core 63 = some x ∧ x.wg = f.pl.wg ∧
     x.succs.length < 4 ∧ x.count ≠ 15) := by
  refine ⟨⟨ready_of (by decide), by decide, by decide, by decide, quiet_of (by decide), ?_, reachesOne_of (by decide), by decide⟩, by decide,
    ⟨ready_of (by decide), by decide, by decide, by decide, by decide, by decide, by decide⟩,
    by decide, ready_of (by decide), by decide, by decide, by decide, by decide, by decide, by decide, by decide, by decide⟩
  intro k hk
  exact reachesOne_of ((by decide : ∀ k < 64, reachesB _ (frameOf _ m0) .load 4 ((0x20000 + 4 * k) % 2 ^ 72) (pg (0x20000 + 4 * k)) = true) k hk)

/-- Flag 255, of a phase that has come and of one that has not. -/
theorem witness_PhaseFlagResults :
    let s := demoW [.s 5 (mkS 255), .s 6 (mkS (255 + 256))]
    let f := frameOf s m0
    f.Ready s m0 ∧ f.lantern = false ∧ f.value f.elected (.s 5) = some 255 ∧ f.value f.elected (.s 6) = some 511 ∧
    ((s.wg? f.pl.wg).map fun g => (g.sp, (lccCheck ((g.drainPool fun x => x.off / 4 == 255 % 256).scratch.word (4 * (255 % 256)))).data?)) = some (1, some 0) ∧
    4 * (255 % 256) + 4 ≤ 1 * 16384 ∧ (0 : Word).getLsbD 31 ≠ (511 : Nat).testBit 8 ∧ (0 : Word).getLsbD 31 = (255 : Nat).testBit 8 ∧
    (0 + 1 < max (2 ^ 13 / 2 ^ 12 % 2 ^ 12) 1) ∧ max 0 1 ≤ 0 + 1 :=
  ⟨ready_of (by decide), by decide, by decide, by decide, by decide, by decide, by decide, by decide, by decide, by decide⟩

/-- Taken and not taken lanes; a link, and table entries, of either sign. -/
theorem witness_BranchAndPriorityResults :
    let s := demoW [.k 7 (mkK 8 0x0F), .v 0 0 (CW.make 0xFFFFFFFF), .s 5 (mkS 0x20000)]
    let f := frameOf s m0
    f.Ready s m0 ∧ f.value f.elected (.s (64 + 7)) = some 0x0F ∧ f.Fits [.v 0 1] ∧
    (((f.i.next : Int) - s.codeBase f) / 4 < 2 ^ 31 ∧ -(2 ^ 31) ≤ ((f.i.next : Int) - s.codeBase f) / 4) ∧
    f.value f.elected (.s 5) = some 0x20000 ∧ f.Reads [.v 0 1] (fun l => [if l = 0 then 0xFFFFFFFF else 0]) ∧
    (frameOf (demoG fun g => { g with brk := false }) m0).Ready (demoG fun g => { g with brk := false }) m0 ∧
    (demoG fun g => { g with brk := false }).brkOf (frameOf (demoG fun g => { g with brk := false }) m0) = false :=
  ⟨ready_of (by decide), by decide, fits_of (by decide), by decide, by decide, reads_of (by decide), ready_of (by decide), by decide⟩

/-- Lanes 0 to 3 issue; the others stand at the next instruction. -/
def part : State :=
  { demoB fun b => { b with frontier := [.run 0x10000 0 0x0F 0, .run 0x10004 0 0xF0 0] } with
    cur := some ⟨bm, 0x10000, 0x10004, 0, 0x0F, false, [0x78800000], none, none⟩ }

def demoL (f : Launch → Launch) : State := demo.modLaunch 1 f

/-- Constellation 255 of the one workgroup. -/
def con : Group := ⟨255, false, false, [(0, 0)], 1, 0, [], 65535, [], .empty⟩

/-- A join of all eight lanes and of four of them; the arrival that completes a count and one that does not. -/
theorem witness_JoinAndBarriers :
    ((frameOf lant m0).Ready lant m0 ∧ (frameOf lant m0).lantern = true) ∧
    (let f := frameOf demo m0
     f.Ready demo m0 ∧ f.a = bm ∧ f.b.kept = none ∧ (∀ e ∈ f.b.frontier, e.kind = .runnable) ∧ f.lantern = false ∧
     (demo.wg? wk).map (fun g => (maskSub f.b.live (g.bucketLanes 0), g.barArrived + popMask (maskSub (f.b.threadsOf f.i.lanes) g.barThreads) g.threads,
       g.threads)) = some (0xFF, 8, 8)) ∧
    (let f := frameOf part m0
     f.Ready part m0 ∧ f.a = bm ∧
     (part.wg? wk).map (fun g => (maskSub f.b.live (g.bucketLanes 0), g.barArrived + popMask (maskSub (f.b.threadsOf f.i.lanes) g.barThreads) g.threads))
       = some (0xFF, 4) ∧ (0xFF : Nat).testBit 7 = true ∧ f.i.lanes.testBit 7 = false) ∧
    (let s := (demoL fun l => { l with groups := [con] }).modBeam bm (·.writes [.s 5 (mkS 255)])
     let f := frameOf s m0
     f.Ready s m0 ∧ f.Quiet s ∧ (s.wg? wk).map (·.status) = some .resident ∧ f.value f.elected (.s 5) = some 255 ∧
     (s.launch? 1).map (fun l => l.groups.find? fun y => y.number == 255 % 256) = some (some con) ∧ con.holds 0 = true ∧
     [con].Pairwise (fun y z => y.number ≠ z.number) ∧ (con.arriveAt 0 (f.b.threadsOf f.i.lanes) 8 .empty).arrived = 8 ∧
     (con.arriveAt 0 0x0F 8 .empty).arrived = 4) := by
  refine ⟨⟨ready_of (by decide), by decide⟩, ⟨ready_of (by decide), by decide, by decide, by decide, by decide, by decide⟩,
    ⟨ready_of (by decide), by decide, by decide, by decide, by decide⟩,
    ready_of (by decide), quiet_of (by decide), by decide, by decide, by decide, by decide, ?_, by decide, by decide⟩
  exact List.pairwise_singleton _ _

/-- Turns to come, come, and gone. -/
theorem witness_TicketResults :
    let later := demoG fun g => { g with id := 1 }
    let gone := demoL fun l => { l with tickets := l.tickets.map fun t => { t with next := 1 } }
    (∀ s ∈ [later, demo, gone], readyB s m0 = true ∧ (frameOf s m0).lantern = false ∧ (s.wg? wk).isSome = true ∧
      (s.launch? (frameOf s m0).pl.launch).map (·.tickets.length) = some 8 ∧ quietB s (frameOf s m0) = true) ∧
    ((later.launch? 1).map (·.tickets.map (·.next)), (frameOf later m0).pl.wgId) = (some (List.replicate 8 0), 1) ∧
    ((demo.launch? 1).map (·.tickets.map (·.next)), (frameOf demo m0).pl.wgId) = (some (List.replicate 8 0), 0) ∧
    ((gone.launch? 1).map (·.tickets.map (·.next)), (frameOf gone m0).pl.wgId) = (some (List.replicate 8 1), 0) := by decide

theorem witness_ExitResults :
    (let f := frameOf part m0
     f.Ready part m0 ∧ f.a = bm ∧ f.lantern = false ∧ f.b.kept = none ∧ f.b.inh = false ∧ (∀ e ∈ f.b.frontier, e.kind = .runnable) ∧
     (part.wg? wk).map (fun g => (g.buckets, g.barArrived, g.extQueue)) = some ([], 0, []) ∧ (part.launch? 1).map (·.groups) = some [] ∧
     maskSub f.b.live f.active = 0xF0) ∧
    (let f := frameOf demo m0
     f.Ready demo m0 ∧ smSorted demo.wgs = true ∧ (demo.wg? wk).map (fun g => (g.status, g.beams)) = some (.resident, [(0, f.b)]) ∧
     (demo.wg? wk).map (fun g => (g.buckets, g.barArrived)) = some ([], 0) ∧ f.b.pendD = [] ∧ f.b.inh = false ∧ demo.engineHolds wk = false ∧ maskSub f.b.live f.active = 0) :=
  ⟨⟨ready_of (by decide), by decide, by decide, by decide, by decide, by decide, by decide, by decide, by decide⟩,
   ready_of (by decide), by decide, by decide, by decide, by decide, by decide, by decide, by decide⟩

/-- Four lanes with one key; a bucket of key 15, due; the largest block declared, with room and with none; a block that is held, with a result to
come for it and with none. -/
theorem witness_RegroupAndExtendedBlocks :
    (let f := frameOf part m0
     f.Ready part m0 ∧ f.a = bm ∧ f.lantern = false ∧ (f.b.inh, f.b.role, f.b.ext, f.b.kept) = (false, 0, 0, none) ∧ f.Fits [.v 63 1] ∧
     f.Reads [.v 63 1] (fun _ => [0]) ∧ (part.wg? wk).map (fun g => (g.buckets, g.due, g.width)) = some ([], [], 8) ∧ f.b.quarter < 4 ∧
     (∀ key < 16, (f.lanes.filter fun _ => (0 : Nat) % 16 == key).length < 8) ∧ maskSub f.b.live f.active ≠ 0 ∧
     ∀ e ∈ f.b.frontier, e.kind = .runnable) ∧
    (let s := demoG fun g => { g with buckets := [⟨0, 15, 0, 0, 7, 0x10004, 0⟩] }
     (frameOf s m0).Ready s m0 ∧ (s.wg? wk).map (fun g => (g.bucket 0 15).length) = some 1 ∧
     (((demoG fun g => { g with due := [(0, 15)] }).wg? wk).map (·.due) = some [(0, 15)])) ∧
    (let f := frameOf demo m0
     f.Ready demo m0 ∧ f.b.ext = 0 ∧ 32 * (2 : BitVec 3).toNat ≤ f.b.extDecl ∧ f.b.kept = none ∧
     (∀ e ∈ f.b.frontier, e.kind ≠ .extAcq) ∧ demo.nextOf f.pl f.i.pc = f.i.next ∧
     (demo.wg? wk).map (fun g => (g.extQueue, decide (f.b.width * (32 * 2) * 4 ≤ g.reserveFree))) = some ([], true) ∧
     ((demoG fun g => { g with reserve := 0 }).wg? wk).map (fun g => (g.extQueue, decide (g.reserveFree < f.b.width * (32 * 2) * 4))) =
       some ([], true)) ∧
    (let s := demoB fun b => { b with ext := 64, lanes := b.lanes.map fun l => { l with v := l.v ++ List.replicate 64 .zero } }
     let f := frameOf s m0
     let p := s.modBeam bm fun b => { b with hck := false, outstanding := [⟨.v 3 64 (CW.make 1), 8⟩] }
     f.Ready s m0 ∧ f.b.ext ≠ 0 ∧ f.b.extPending = false ∧ (s.wg? wk).map (·.extQueue) = some [] ∧
     p.frame? m0 = some (frameOf p m0) ∧ (frameOf p m0).b.hck = false ∧ (frameOf p m0).b.extPending = true) ∧
    ((frameOf lant m0).Ready lant m0 ∧ (frameOf lant m0).a = .lantern 0) :=
  ⟨⟨ready_of (by decide), by decide, by decide, by decide, fits_of (by decide), reads_of (by decide), by decide, by decide, by decide, by decide,
    by decide⟩, ⟨ready_of (by decide), by decide, by decide⟩,
   ⟨ready_of (by decide), by decide, by decide, by decide, by decide, by decide, by decide, by decide⟩,
   ⟨ready_of (by decide), by decide, by decide, by decide, some_getD _ (by decide), by decide, by decide⟩, ready_of (by decide), by decide⟩

theorem witness_ControlReadsAndSlices :
    (frameOf demo m0).Ready demo m0 ∧ (frameOf lant m0).Ready lant m0 ∧ (demo.wg? wk).isSome = true ∧
    (let s := demoW [.s 5 (mkS 0x3FFFFFFF)]
     Meets s m0 [.v 63 1, .v 62 1] [.s 5, .v 63 1] (fun _ => [0x3FFFFFFF, 0]) ∧
     ((s.core 0).tlb.find? (·.covers 0 (wrap 72 ((0x3FFFFFFF : Int) + (BitVec.ofNat 32 0).toInt)))) = some placedPage) :=
  ⟨ready_of (by decide), ready_of (by decide), by decide, meets_of (by decide), by decide⟩

/-- The handler of a cause, its path at 0x20000; the lanes that wait on it kept. -/
def handler (cause held : Nat) : State :=
  { demoB fun b => { b with inh := true, tcause := cause, tpc := 0x10000, tlanes := 0xFF, held := held, kept := some [.run 0x10000 0 0xFF 0],
                            frontier := [.run 0x20000 0 0xFF 0] } with
    cur := some ⟨bm, 0x20000, 0x20004, 0, 0xFF, false, [0x78800000], none, none⟩ }

theorem witness_ControlWritesPauseAndYield :
    (let s := demoW [.s 5 (mkS (2 ^ 72 - 1))]
     let f := frameOf s m0
     f.Ready s m0 ∧ f.a = bm ∧ f.value f.elected (.s 5) = some (2 ^ 72 - 1) ∧ f.lantern = false ∧ f.b.inh = false ∧
     f.b.pauseLoop + (65535 : BitVec 16).toNat < 2 ^ s.mod.pll) ∧
    (let s := demoB fun b => { b with pauseLoop := 2 ^ 26 - 1 }
     let f := frameOf s m0
     f.Ready s m0 ∧ f.a = bm ∧ f.lantern = false ∧ (s.wg? wk).map (·.trapvec) = some 0x20000 ∧ f.b.inh = false ∧
     2 ^ s.mod.pll ≤ f.b.pauseLoop + (1 : BitVec 16).toNat) ∧
    ((frameOf lant m0).Ready lant m0 ∧ (frameOf lant m0).a = .lantern 0 ∧ (frameOf lant m0).lantern = true ∧
      (frameOf lant m0).value 0 (.s 0) = some 0x40) ∧
    (let s := (handler 0x23 0).modBeam bm fun b => { b with hck := false, outstanding := [⟨.v 3 5 (CW.make 1), 8⟩] }
     let f := frameOf (handler 0x23 0) m0
     f.Ready (handler 0x23 0) m0 ∧ f.lantern = false ∧ f.b.inh = true ∧ f.b.tcause % 256 = 0x23 ∧
     f.b.frontier.all (fun e => e.kind == .runnable) = true ∧ (f.b.kept.getD []).all (fun e => e.kind == .runnable) = true ∧
     s.frame? m0 = some (frameOf s m0) ∧ (frameOf s m0).b.hck = false ∧ ∀ p ∈ (frameOf s m0).b.outstanding, p.lanes % 2 ^ 64 ≠ 0) :=
  ⟨⟨ready_of (by decide), by decide, by decide, by decide, by decide, by decide⟩,
   ⟨ready_of (by decide), by decide, by decide, by decide, by decide, by decide⟩, ⟨ready_of (by decide), by decide, by decide, by decide⟩,
   ready_of (by decide), by decide, by decide, by decide, by decide, by decide, some_getD _ (by decide), by decide, by decide⟩

theorem witness_TrapEntry :
    demo.frame? m0 = some (frameOf demo m0) ∧ (frameOf demo m0).a = bm ∧ (frameOf demo m0).lantern = false ∧
    demo.beam? bm = some (frameOf demo m0).b ∧ (frameOf demo m0).b.inh = false ∧
    (demo.wg? wk).map (fun g => (g.trapvec, g.brk)) = some (0x20000, true) := by
  refine ⟨some_getD _ (by decide), by decide, by decide, by decide, by decide, by decide⟩

theorem witness_TrapTermination :
    ((handler 0x0C 0xFF).beam? bm).map (·.inh) = some true ∧ ((handler 0x0C 0xFF).frame? m0).isSome = true ∧
    (let s := demoG fun g => { g with trapvec := 0 }
     (s.wg? wk).map (·.trapvec) = some 0 ∧ (s.beam? bm).map (·.inh) = some false ∧ smSorted s.wgs = true ∧ s.engineHolds wk = false ∧
     s.mayPost 0 (unitOfCore 0) = true ∧
     ({ s with dies := s.dies.map fun d => { d with holding := List.replicate 64 (0, default) } } : State).mayPost 0 (unitOfCore 0) = false) ∧
    (lant.frame? m0).map (·.a) = some (.lantern 0) := by decide

theorem witness_SectionFaults :
    (lant.section? 0).isSome = true ∧ (lant.core (lanternIx 0)).lines = [] ∧ (lant.core (lanternIx 0)).flights = [] ∧
    (lant.section? 0).map (·.req) = some ask ∧ lant.Maps (lanternIx 0) ask.ctx .atomic ask.lock (pg 0x40) :=
  ⟨by decide, by decide, by decide, by decide, maps_of (by decide)⟩

/-- A return to held lanes, from a wait, and with neither. -/
theorem witness_TrapReturn :
    let ok := fun (s : State) => (s.frame? m0).isSome && (frameOf s m0).a == bm && (frameOf s m0).b.inh &&
      (frameOf s m0).b.kept == some [.run 0x10000 0 0xFF 0] && (frameOf s m0).b.pendD.isEmpty && !(frameOf s m0).b.pendPreempt &&
      ((s.wg? wk).map (·.extQueue)) == some [] && !(frameOf s m0).lantern && s.beam? bm == some (frameOf s m0).b
    ok (handler 0x0C 0xFF) = true ∧ ok (handler 0x21 0) = true ∧ ok (handler 0x23 0) = true := by decide

theorem witness_IllegalInstructions :
    (demo.frame? m0).map (fun f => (f.lantern, f.b.inh)) = some (false, false) ∧
    ((handler 0x0C 0xFF).frame? m0).map (fun f => (f.b.inh, f.b.tcause % 256 != 0x23, f.active != 0, f.inBounds (.v 63 1))) =
      some (true, true, true, true) ∧
    (let s := demoG fun g => { g with moment := false }
     (s.frame? m0).map (fun f => s.hasMoment f.pl) = some false) ∧
    (lant.frame? m0).map (fun f => (f.a, f.lantern)) = some (.lantern 0, true) := by decide

/-- A line with one dirty word of the workgroup in the cache. -/
def lined : State :=
  (demoW [.s 5 (mkS 0x40)]).modCore 0 fun c => { c with lines := [(1, ⟨List.replicate 16 (CW.make 5), [(0, (4, [wk]))], 0, 0, .demand, []⟩)] }

/-- Scopes below the die and the widest; crossings between the core's accesses and either engine's. -/
theorem witness_Fences :
    (scopeOf 1).wide = false ∧ (scopeOf 4).wide = true ∧
    ((frameOf lined m0).Ready lined m0 ∧ (lined.core (frameOf lined m0).pl.core).LinesWf ∧ lined.MemWf ∧
      (frameOf lined m0).pl.core < lined.cores.length ∧ (lined.core (frameOf lined m0).pl.core).flights = [] ∧ (frameOf lined m0).lantern = false ∧
      lined.dirtyBy 0 64 = some [wk] ∧ (lined.wg? (frameOf lined m0).pl.wg).isSome = true) ∧
    (frameOf demo m0).Ready demo m0 ∧ (frameOf demo m0).Quiet demo ∧ (demo.core (frameOf demo m0).pl.core).LinesWf ∧
    (frameOf lant m0).Ready lant m0 ∧ (frameOf lant m0).lantern = true ∧ (frameOf lant m0).pl.core < lant.cores.length ∧
    (frameOf lant m0).Quiet lant ∧ (lant.core (frameOf lant m0).pl.core).LinesWf := by
  refine ⟨by decide, by decide, ⟨ready_of (by decide), ⟨by decide, by decide⟩, ⟨by decide, by decide⟩, by decide, by decide, by decide, by decide,
    by decide⟩, ready_of (by decide), quiet_of (by decide), ⟨by decide, by decide⟩, ready_of (by decide), ?_⟩
  exact ⟨by decide, by decide, quiet_of (by decide), by decide, by decide⟩

/-- A line with one dirty word in the cache; every lane's line on a cached page. -/
theorem witness_CacheMaintenanceAndPrefetch :
    let s := lined
    let f := frameOf s m0
    f.Ready s m0 ∧ (s.core f.pl.core).LinesWf ∧ (s.core f.pl.core).flights = [] ∧ f.pl.core < s.cores.length ∧
    s.MemWf ∧ f.value f.elected (.s 5) = some 0x40 ∧ (s.core f.pl.core).lines.length + f.lanes.length ≤ 16 ∧
    (s.core f.pl.core).tlb.find? (·.covers f.pl.ctx (0x40 % 2 ^ 72)) = some placedPage ∧ isLantern f.pl.core = false ∧
    f.Fits [.v 63 1] ∧ f.Reads [.s 5, .v 63 1] (fun _ => [0x40, 0]) ∧
    ∀ l ∈ f.lanes, s.Maps f.pl.core f.pl.ctx .load (indexed l [0x40, 0]) (pg (indexed l [0x40, 0])) ∧
      (pg (indexed l [0x40, 0])).cached = true ∧ s.resolve (pg (indexed l [0x40, 0])).loc = (pg (indexed l [0x40, 0])).loc :=
  ⟨ready_of (by decide), ⟨by decide, by decide⟩, by decide, by decide, ⟨by decide, by decide⟩, by decide, by decide, by decide, by decide,
   fits_of (by decide), reads_of (by decide),
   fun l _ => by
     rw [show indexed l [0x40, 0] = indexed 0 [0x40, 0] from rfl]
     exact ⟨maps_of (by decide), by decide, by decide⟩⟩

/-! Commands: a mailbox of function 0 or 1 holds one, its 64 bytes given as a number. -/

def cmd (svc : Bool) (n : Nat) (s : State) : State :=
  { s with mod := s.mod.modMailbox svc fun b => { b with slots := [(0, bytesOfNat 64 n)], tail := 1 } }

def offersB (s : State) (svc : Bool) (code : Nat) (used : List (Nat × Nat)) : Bool :=
  s.nextMailbox == some svc && fieldAt (s.command svc) 0 2 == code && fieldAt (s.command svc) 2 2 == 0 && s.mod.status == 1 &&
    (List.range 56).all fun i => (s.command svc).getD (8 + i) 0 == 0 || used.any fun u => decide (u.1 ≤ 8 + i ∧ 8 + i < u.1 + u.2)

theorem offers_of {s : State} {svc : Bool} {code : Nat} {used : List (Nat × Nat)} (h : offersB s svc code used = true) :
    s.Offers svc code used := by
  simp only [offersB, Bool.and_eq_true, beq_iff_eq, List.all_eq_true, List.mem_range, Bool.or_eq_true, List.any_eq_true,
    decide_eq_true_eq] at h
  obtain ⟨⟨⟨⟨h1, h2⟩, h3⟩, h4⟩, h5⟩ := h
  exact ⟨h1, h2, h3, h5, h4⟩

/-- A module that runs a task; the state that the task finds. -/
def tasked (t : Task) (cands : List Nat) : State :=
  { State.reset with mod := { Module.reset with status := 0, candidates := cands, task := some t } }

theorem witness_ResetSequence : State.reset.mod.status ≠ 4 ∧
    (∀ r ∈ [(⟨false, []⟩ : ResetFindings), ⟨true, []⟩, ⟨true, [0]⟩], (tasked (.reset r) []).mod.task = some (.reset r)) ∧
    (⟨false, []⟩ : ResetFindings).romOk = false ∧ (⟨true, []⟩ : ResetFindings).romOk = true := by decide

/-- No power; an island that has slowed to its last point, and one that has not; the last of each island's points. -/
theorem witness_PowerAndHeat :
    (let s : State := { State.reset with mod := { Module.reset with status := 4 } }
     s.mod.status = 4 ∧ s.mod.status ≠ 1 ∧ s.mod.status ≠ 3) ∧ State.reset.mod.status = 1 ∧
    (State.reset.islands.getD 39 default).point + 1 ≠ (if (39 : Nat) = 40 then 1 else if 39 % 5 = 3 then 5 else 8) ∧
    ((State.reset.modIsland 39 fun x => { x with point := 7 }).islands.getD 39 default).point + 1 =
      (if (39 : Nat) = 40 then 1 else if 39 % 5 = 3 then 5 else 8) ∧
    (State.reset.islands.getD 40 default).point + 1 = (if (40 : Nat) = 40 then 1 else if 40 % 5 = 3 then 5 else 8) ∧
    (0 < (if (40 : Nat) = 40 then 1 else if 40 % 5 = 3 then 5 else 8)) ∧
    (4 < (if (38 : Nat) = 40 then 1 else if 38 % 5 = 3 then 5 else 8)) ∧ (7 < (if (39 : Nat) = 40 then 1 else if 39 % 5 = 3 then 5 else 8)) := by
  decide

/-- Queue 63, idle and not; the last bytes of the staging window and of the mailbox slots; both mailboxes' last vectors. -/
theorem witness_RegisterWrites :
    (State.reset.mod.status ≠ 4 ∧ State.reset.mod.status = 1 ∧ 0x1FFFFF8 % 8 = 0 ∧ 0x1000000 ≤ 0x1FFFFF8 ∧ 0x1FFFFF8 < 0x2000000) ∧
    (0x2000 ≤ 0x2FF8 ∧ 0x2FF8 < 0x3000 ∧ ((State.reset.mod.mailbox true).slot ((0x2FF8 - 0x2000) / 64)).length = 64) ∧
    ((State.reset.lq 63).en = false ∧ (State.reset.lq 63).head = (State.reset.lq 63).tail ∧ 63 < State.reset.lqs.length) ∧
    ((State.reset.modLq 63 fun q => { q with en := true }).lq 63).en = true ∧ (15 < 16 ∧ 2047 < 2048 ∧ (5 : Nat) % 8 ≠ 0) ∧
    ∀ c, smSorted (State.reset.core c).lines = true := by
  refine ⟨by decide, by decide, by decide, by decide, by decide, fun c => ?_⟩
  rcases Nat.lt_or_ge c 416 with h | h
  · simp only [State.core, State.reset, List.getD_eq_getElem?_getD, List.getElem?_replicate, h, if_true]
    rfl
  · simp only [State.core, State.reset, List.getD_eq_getElem?_getD, List.getElem?_replicate, Nat.not_lt.mpr h, if_false]
    rfl

/-- STATUS with no end in its words; each check failed first: bytes 2 and 3, the function, the pilot light; an opcode with no row. -/
theorem witness_MailboxResponse :
    (Instr.domain true, 0x10, false, false) ∈ commandTable true ∧ (Instr.domain false, 0x10, false, false) ∈ commandTable false ∧
    (let s := cmd true (0x10 + 2 ^ 16) State.reset
     s.nextMailbox = some true ∧ fieldAt (s.command true) 0 2 = 0x10 ∧ fieldAt (s.command true) 2 2 ≠ 0) ∧
    (let s := cmd true 0x10 State.reset
     s.nextMailbox = some true ∧ fieldAt (s.command true) 0 2 = 0x10 ∧ fieldAt (s.command true) 2 2 = 0) ∧
    (let s := cmd false 0x10 { State.reset with mod := { Module.reset with status := 2 } }
     s.nextMailbox = some false ∧ fieldAt (s.command false) 0 2 = 0x10 ∧ s.mod.status = 2) ∧
    (let s := cmd false 0xFFFF State.reset
     s.nextMailbox = some false ∧ ∀ x ∈ [1, 2, 3, 4, 0x10, 0x1F], fieldAt (s.command false) 0 2 ≠ x) ∧
    (let b := { Mailbox.reset with ien := true }
     b.ien = true ∧ (State.reset.mod.vector false b.vec).masked = true) := by
  refine ⟨by simp [commandTable], by simp [commandTable], by decide, by decide, by decide, by decide, by decide⟩

theorem witness_IdentityCommands :
    (cmd true 1 State.reset).Offers true 1 [] ∧ (cmd false (2 + 2 ^ 64 * (2 ^ 256 - 1)) State.reset).Offers false 2 [(8, 32)] ∧
    (cmd false (3 + 2 ^ 64 * (16 + 2 ^ 32 * 3)) State.reset).Offers false 3 [(8, 5)] ∧
    (cmd false (4 + 2 ^ 64 * 7 + 2 ^ 128) State.reset).Offers false 4 [(8, 1), (16, 32)] :=
  ⟨offers_of (by decide), offers_of (by decide), offers_of (by decide), offers_of (by decide)⟩

/-- Each command with its arguments in range, at an end of it, and a bucket that a lodestar command is to change. -/
theorem witness_TableCommands :
    (cmd false (0x10 + 2 ^ 64 * 127 + 2 ^ 72 * 128) State.reset).Offers false 0x10 [(8, 2)] ∧
    (cmd false (0x11 + 2 ^ 64 * 128 + 2 ^ 128 * 4096) State.reset).Offers false 0x11 [(8, 10)] ∧
    ((cmd false 0x12 (withCtx State.reset 0)).Offers false 0x12 [(8, 2)] ∧ 0 < (cmd false 0x12 (withCtx State.reset 0)).mod.ctxCount) ∧
    (cmd false (0x13 + 2 ^ 128 * 65536 + 2 ^ 256) (withCtx State.reset 0)).Offers false 0x13 [(8, 2), (16, 9), (32, 1)] ∧
    (cmd false (0x14 + 2 ^ 128 * 65536 + 2 ^ 256 * 65536) (withCtx State.reset 0)).Offers false 0x14 [(8, 2), (16, 9), (32, 8)] ∧
    (let s := cmd false (0x15 + 2 ^ 64 * 8 + 2 ^ 80 * 511 + 2 ^ 96 * 1 + 2 ^ 128 * 3) State.reset
     s.Offers false 0x15 [(8, 1), (10, 3), (16, fieldAt (s.command false) 12 1)] ∧ s.mod.bucket (4096 + 512 * 7 + 511) ≠ 3) ∧
    (let s : State := { cmd false 0x15 State.reset with mod := { (cmd false 0x15 State.reset).mod with starHold := [(8191, 3)] } }
     s.mod.starHold ≠ [] ∧ s.bucketBusy = false ∧ (s.mod.starHold.map (·.1)).Nodup ∧ smSorted s.mod.lodestar = true ∧ smSorted s.mod.substar = true) := by
  refine ⟨offers_of (by decide), offers_of (by decide), ⟨offers_of (by decide), by decide⟩, offers_of (by decide), offers_of (by decide),
    ⟨offers_of (by decide), by decide⟩, by decide, by decide, by decide, by decide, by decide⟩

/-- Each command at an end of its range. -/
theorem witness_SettingCommands :
    ((cmd false (0x16 + 2 ^ 64 * 0x807F + 2 ^ 80 * 15 + 2 ^ 96 * (2 ^ 32 - 1)) State.reset).Offers false 0x16 [(8, 3), (12, 4)] ∧
      coreOfUnit 0x807F = some 415) ∧
    ((cmd false (0x16 + 2 ^ 64 * 0x8080) State.reset).Offers false 0x16 [(8, 3), (12, 4)] ∧ coreOfUnit 0x8080 = none) ∧
    (∀ code ∈ [0x17, 0x18], offersB (cmd false (code + 2 ^ 64 * 0x8080) State.reset) false code [(8, 2)] = true) ∧
    (payerOfUnit 0x8080 = none ∧ State.reset.cores.length = 416 ∧ State.reset.slices.length = 256) ∧
    ((cmd false (0x17 + 2 ^ 64 * 0x1000) State.reset).Offers false 0x17 [(8, 2)] ∧ payerOfUnit 0x1000 = some .bridge) ∧
    (cmd false (0x18 + 2 ^ 64 * 0xFFFF) State.reset).Offers false 0x18 [(8, 2)] ∧
    (cmd false (0x19 + 2 ^ 64 * 4 + 2 ^ 96 * 5) State.reset).Offers false 0x19 [(8, 1), (12, 4)] ∧
    (cmd false (0x1A + 2 ^ 64 * 39 + 2 ^ 128 * (2 ^ 64 - 1)) State.reset).Offers false 0x1A [(8, 1), (16, 8)] ∧
    (cmd false (0x1B + 2 ^ 64 * 16 + 2 ^ 72 * 32) State.reset).Offers false 0x1B [(8, 2)] ∧
    (cmd false (0x1C + 2 ^ 64 * 255 + 2 ^ 72 * 3 + 2 ^ 80 + 2 ^ 96 * 1024 + 2 ^ 112 * 2) State.reset).Offers false 0x1C [(8, 3), (12, 3)] ∧
    (cmd false (0x1E + 2 ^ 64 * 1200) State.reset).Offers false 0x1E [(8, 4)] ∧ (cmd false (0x1F + 2 ^ 64) State.reset).Offers false 0x1F [(8, 1)] := by
  refine ⟨⟨offers_of (by decide), by decide⟩, ⟨offers_of (by decide), by decide⟩, by decide, ⟨by decide, by decide, by decide⟩, ?_⟩
  refine ⟨⟨offers_of (by decide), by decide⟩, ?_⟩
  and_intros <;> exact offers_of (by decide)

/-- All quiet, and not; an argument out of range; the quiesce point with a candidate that has a spare, with one that has none, and with a part
found bad. -/
theorem witness_QuiesceSubstitutes :
    (let s := cmd false (0x1D + 2 ^ 64) { State.reset with mod := { Module.reset with candidates := [0] } }
     s.Offers false 0x1D [(8, 1)] ∧ s.quiet = true ∧ fieldAt (s.command false) 8 1 = 1) ∧
    ((cmd false (0x1D + 2 ^ 64 * 4) State.reset).Offers false 0x1D [(8, 1)] ∧
      fieldAt ((cmd false (0x1D + 2 ^ 64 * 4) State.reset).command false) 8 1 = 4) ∧
    ((cmd false (0x1D + 2 ^ 64) demo).quiet = false ∧ (cmd false (0x1D + 2 ^ 64) demo).Offers false 0x1D [(8, 1)]) ∧
    (let s := tasked (.quiesce false 1 []) [0]
     s.mod.task = some (.quiesce false 1 []) ∧ s.mod.candidates = [0] ∧ partPlace 0 = some (0, 0, 0) ∧ 0 < sparesLeft s.mod.chart 0 0) ∧
    sparesLeft ((List.range (classSpares 0)).map fun i => (chartKey 0 0 (36 + i), UnitState.inUse)) 0 0 = 0 ∧
    ((tasked (.quiesce false 2 [0]) []).mod.task = some (.quiesce false 2 [0]) ∧ (partPlace 0).isSome = true) := by
  refine ⟨⟨offers_of (by decide), by decide, by decide⟩, ⟨offers_of (by decide), by decide⟩, ⟨by decide, offers_of (by decide)⟩, by decide,
    by decide, by decide⟩

/-- A word of the window that a cell holds, and an address that none holds; an unreadable word. -/
theorem witness_WindowAndFabric :
    State.reset.MemWf ∧ (State.reset.mod.winbase % 2 ^ 28 = 0 ∧ 2 ^ 28 - 4 < 2 ^ 28 ∧ (2 ^ 28 - 4) % 4 = 0 ∧ State.reset.mod.status = 1 ∧
      (cellLoc (0 + (2 ^ 28 - 4))).isSome = true ∧ (lccCheck (State.reset.homeWord ((cellLoc (2 ^ 28 - 4)).getD 0))).data? = some 0) ∧
    (let s : State := { State.reset with mod := { Module.reset with winbase := 2 ^ 58 - 2 ^ 28 } }
     s.mod.winbase % 2 ^ 28 = 0 ∧ cellLoc (s.mod.winbase + 0) = none) ∧
    (let s : State := { State.reset with mem := State.reset.mem.setWord 0 ⟨3, 0⟩ }
     s.MemWf ∧ (lccCheck (s.homeWord 0)).data? = none ∧ cellLoc 0 = some 0 ∧ (0 : Nat) < 2 ^ 50) := by
  refine ⟨⟨by decide, by decide⟩, by decide, by decide, ⟨by decide, by decide⟩, by decide, by decide, by decide⟩

/-- Two words of one access in flight between other writes, and after a write to one of them; an island one clock short of its window's end,
and at it; units that can be hinted at; a bad word under patrol. -/
theorem witness_UnitEvents :
    (let x := fun (loc size : Nat) (thread : Nat) => (⟨loc, CW.make 1, none, [], [], [wk], thread, 0, size, false, none⟩ : Flight)
     let key := fun (x : Flight) => (x.wgs, x.thread, x.path, x.size, x.loc / x.size)
     let run := [x 8 8 1, x 12 8 1]
     let s := State.reset.modCore 415 fun c => { c with flights := [x 0 4 1] ++ run ++ [x 16 8 1] }
     (s.core 415).flights = [x 0 4 1] ++ run ++ [x 16 8 1] ∧ 415 < s.cores.length ∧ s.MemWf ∧ (1 ≤ 2 ∧ 2 < 1 + run.length) ∧
     (∀ a ∈ run, ∀ b ∈ run, key a = key b) ∧ (∀ a ∈ run, key a ≠ key (x 0 4 1) ∧ key a ≠ key (x 16 8 1)) ∧ (run.map (·.loc)).Nodup ∧
     (∀ a ∈ run, a.loc % 4 = 0 ∧ s.resolve a.loc = a.loc ∧ (x 0 4 1).loc / 4 ≠ a.loc / 4) ∧ (x 12 4 2).loc / 4 = (x 12 8 1).loc / 4 ∧
     key (x 12 4 2) ≠ key (x 12 8 1)) ∧
    (State.reset.islands[39]?.isSome = true ∧ State.reset.qos[15]?.isSome = true ∧
      (({ Island.reset with cycle := 4095 } : Island).cycle < (0 + 1) * 4096) ∧ ¬ ({ Island.reset with cycle := 4096 } : Island).cycle < (0 + 1) * 4096) ∧
    (0x40FF < 0x4100 ∧ 0x807F < 0x8080 ∧ 0xA0F < 0xA10) ∧ ((partPlace (287)).isSome = true ∧ 287 ∉ State.reset.mod.candidates) ∧
    (let s : State := { State.reset with mem := State.reset.mem.setWord 0 ⟨3, 0⟩, mod := { Module.reset with patrol := true } }
     s.mod.patrol = true ∧ s.mod.status = 1 ∧ 0 < 8 * dieBytes ∧ (lccCheck (s.mem.word 0)).data? = none ∧
     (lccCheck ((s.mem.setWord 0 ⟨1, 0⟩).word 0)).isCorrected = true) := by
  refine ⟨⟨by decide, by decide, ⟨by decide, by decide⟩, by decide, by decide, by decide, by decide, by decide, by decide, by decide⟩, by decide,
    by decide, by decide, by decide⟩
/-- Three levels of tables give context 0's first GiB the same leaf that `placedPage` holds (R256 to R259). -/
def tables (s : State) : State :=
  let at_ := fun (pa : Nat) => (cellLoc pa).getD 0
  withCtx { s with mem := ((s.mem.setWord (at_ 0) (CW.make 0x100001)).setWord (at_ 0x100000) (CW.make 0x200001)).setWord (at_ 0x200000) (CW.make 0x1F) } 0

/-- A launch record of one workgroup of eight threads. -/
def recordN : Nat :=
  8 + 2 ^ 8 + 2 ^ 21 + 2 ^ 24 + 2 ^ 32 * (1 + 2 ^ 8 + 4 * 2 ^ 15) + 2 ^ 96 * (64 * 2 ^ 8 + 64) + 2 ^ 160 * 8 + 2 ^ 192 + 2 ^ 224 + 2 ^ 256 +
    2 ^ 320 + 2 ^ 512 * 0x10000 + 2 ^ 640 * 0x20000

/-- Queue 63 holds one record, at 0x30000. -/
def queued (n : Nat) : State :=
  let s := (tables State.reset).modLq 63 fun q => { q with en := true, log2 := 4, base := 0x30000, tail := 1 }
  { s with mem := (freshWords 64 n).foldl (fun (m : Mem × Nat) w => (m.1.setWord m.2 w, m.2 + 4)) (s.mem, (cellLoc 0x30000).getD 0) |>.1 }

/-- The dispatcher reaches every address of the first GiB by a walk, and changes nothing by it. -/
theorem reach_queued (va : Nat) (h : va < 2 ^ 30) :
    (queued recordN).reach dispatcherCore 0 va .load = (.page (pg va), queued recordN) := by
  have h72 : va % 2 ^ 72 = va := Nat.mod_eq_of_lt (by omega)
  have h5 : bits va 55 17 = 0 := by unfold bits; omega
  have h4 : bits va 39 16 = 0 := by unfold bits; omega
  have h3 : bits va 30 9 = 0 := by unfold bits; omega
  have hs : spanBase 3 va = 0 := by show va - va % 2 ^ 30 = 0; omega
  have hw : walk (queued recordN) 0 va 5 0 = (.leaf placedPage, queued recordN) := by
    rw [walk_entry (pa := 0) (ds := [0x100001, 0, 0, 0]) (by show 0 + 16 * bits va 55 17 = 0; rw [h5]) rfl rfl rfl rfl, if_neg (by decide),
      walk_entry (pa := 0x100000) (ds := [0x200001, 0, 0, 0]) (by show 0x100000 + 16 * bits va 39 16 = _; rw [h4]) rfl rfl rfl rfl, if_neg (by decide),
      walk_entry (pa := 0x200000) (ds := [0x1F, 0, 0, 0]) (by show 0x200000 + 16 * bits va 30 9 = _; rw [h3]) rfl rfl rfl rfl, if_pos (by decide), hs]
    rfl
  have ht : (queued recordN).translate dispatcherCore 0 va = (.leaf placedPage, queued recordN) := by
    have e : (queued recordN).translate dispatcherCore 0 va = match walk (queued recordN) 0 (va % 2 ^ 72) 5 0 with
      | (.leaf t, s) => (.leaf t, s.modDie 8 fun x => { x with tlb := (t :: x.tlb).take 16384 })
      | r => r := rfl
    rw [e, h72, hw]
    rfl
  have hl : isSystem (placedPage.page va).loc = false := by
    have h0 : pteAddr placedPage.entry + va % 2 ^ spanBits placedPage.level = va := by show 0 + va % 2 ^ 30 = va; omega
    have hp : physLoc va = some (bits va 16 3 * dieBytes + bits va 19 21 * 65536 + va % 65536) := by
      rw [physLoc, isSystem, if_neg (by simp; omega), cellLoc, if_pos (by omega)]
    simp only [TlbEntry.page, h0, hp, Option.getD_some, isSystem, bits, dieBytes, decide_eq_false_iff_not]
    omega
  unfold State.reach
  rw [ht]
  simp only [h72, hl, Bool.false_and, Bool.false_eq_true, if_false]
  rfl

/-- The record that queue 63 holds can be read, and is in order; one of zeros is not. -/
theorem witness_LaunchRecordTaken :
    let s := queued recordN
    (∃ ws, s.homeRead dispatcherCore 0 ((s.lq 63).slotAddr (s.lq 63).head) 64 = (.ok ws, s) ∧ (∀ w ∈ ws, lccCheck w = .ok w.data) ∧
      natOfWords (ws.map CW.data) = recordN) ∧
    recordOk recordN = true ∧ recordNgrp recordN = 0 ∧ recordGroups recordN % 16 = 0 ∧ recordPreds recordN = [0, 0, 0, 0] ∧
    recordOk 0 = false ∧ recordNgrp 0 = 0 ∧ recordGroups 0 % 16 = 0 ∧ s.mod.status = 1 ∧ s.dispatcherStalls = false ∧
    s.launches.length < 512 ∧ s.lqs.length = 64 ∧ (s.lq 63).en = true ∧ (s.lq 63).slots ≠ 0 ∧ (s.lq 63).pending ≠ 0 ∧ (s.lq 63).wait = none ∧
    (s.lq 63).nodes = [] ∧ (∀ j < 63, (s.lq j).en = false) ∧ (∀ c ∈ s.cores, c.nodes = []) ∧ smSorted s.launches = true ∧ s.launches = [] ∧
    (s.ctx (s.lq 63).ctx).cached.isSome = true ∧ (s.ctxEntry? (s.lq 63).ctx).map (·.sfcount) = some 0 := by
  refine ⟨⟨_, State.homeRead_clean _ _ _ (by decide) (by decide) 64 _ (fun k => pg ((0x30000 + 4 * k) % 2 ^ 72)) ?_, by decide, by decide⟩, ?_⟩
  swap
  · and_intros <;> decide
  intro k hk
  exact reach_queued _ (by show (0x30000 + 256 * (0 % 2 ^ 4) + 4 * k) % 2 ^ 72 < 2 ^ 30; omega)

/-- Lane 7 is parked, for this cause; the others stand after the instruction. -/
def parkedFor (c : ParkCause) : State :=
  demoB fun b => { b with parked := [(63, ⟨c, 0x10000, 0, 0x80, false, []⟩)], frontier := [⟨0x10000, 0, 0x80, .parked 63, 0⟩, .run 0x10004 0 0x7F 0] }

def parksB (s : State) : Bool := match s.beam? bm with
  | some b => b.parked.map (·.1) == [63] && (b.frontier.filter fun x => x.kind == .parked 63) == [⟨0x10000, 0, 0x80, .parked 63, 0⟩] &&
      b.parked.all (fun x => x.2.lanes == 0x80)
  | none => false

theorem parks_of {s : State} (h : parksB s = true) : ∃ b r, s.beam? bm = some b ∧ ParksOne b 63 r ⟨0x10000, 0, 0x80, .parked 63, 0⟩ := by
  unfold parksB at h
  split at h
  · rename_i b hb
    simp only [Bool.and_eq_true, beq_iff_eq, List.all_eq_true] at h
    obtain ⟨⟨h1, h2⟩, h3⟩ := h
    obtain ⟨⟨i, r⟩, hp⟩ : ∃ p, b.parked = [p] := List.map_eq_singleton_iff.mp h1 |>.imp fun _ h => h.1
    have hi : i = 63 := by simpa [hp] using h1
    have hr : r.lanes = 0x80 := h3 (i, r) (by simp [hp])
    exact ⟨b, r, hb, by rw [hp, hi], h2, hr.symm, by rw [hr]; decide⟩
  · cases h

/-- A ring with room and one held record; an access to module 5, which does not answer. -/
theorem witness_RecordsAndTimeouts :
    (let s := (withCtx State.reset 0).modDie 7 fun d => { d with holding := [(0, default)] }
     (∀ d ∈ s.dies, d.stalled = []) ∧ (s.ctx 0).cached.isSome = true ∧ (s.ring? 0).map (fun x => x.2) = some (16, 0) ∧ s.dies.length = 8 ∧
     ((s.die 7).holding.filter fun x => x.1 == 0) = [(0, default)] ∧ (∀ j < 7, (s.die j).holding.isEmpty = true) ∧ (s.ctx 1).cached = none) ∧
    (let s := ((parkedFor (.answer [(7, 2 ^ 57, 2 ^ 57 + 5 * 2 ^ 50)] 4 1 5 7)).modMod fun m => { m with silent := [5] }).modIsland 0 fun x =>
       { x with cycle := 2 ^ 24 + 7 }
     (∃ b r, s.beam? bm = some b ∧ ParksOne b 63 r ⟨0x10000, 0, 0x80, .parked 63, 0⟩) ∧
     (s.beam? bm).map (fun b => b.parked.map (·.2.cause)) = some [.answer [(7, 2 ^ 57, 2 ^ 57 + 5 * 2 ^ 50)] 4 1 5 7] ∧ s.mod.silent.contains 5 = true ∧ s.msgs = [] ∧
     7 + 2 ^ 24 = s.clockAt 0 ∧ s.MemWf ∧
     (s.wg? wk).map (fun g => (g.status, g.deadline)) = some (.resident, false)) :=
  ⟨by decide, parks_of (by decide), by decide, by decide, by decide, by decide, ⟨by decide, by decide⟩, by decide⟩

/-- A launch whose one workgroup is to be dispatched; one to start; launches that complete, with and without a completion word; a deadline and
a save; a page service. -/
theorem witness_WorkgroupsStartAndStop :
    (let s : State := { demoL (fun l => { l with nextWg := 0 }) with wgs := [] }
     s.mod.status = 1 ∧ s.dispatcherStalls = false ∧ s.candidates.map (·.1) = [1] ∧ (s.launch? 1).map (fun l => (l.nextWg, l.record.total, l.groups.isEmpty)) = some (0, 1, true) ∧
     (s.launch? 1).map (fun l => (l.record.cores l.nextWg).find? fun c => s.room c l.record.need fun _ => false) = some (some 0) ∧
     s.queuedOn (dieOfCore 0) < 64) ∧
    (let s := demoG fun g => { g with status := .queued }
     (s.wg? wk).map (fun g => (g.status, g.frame, g.core)) = some (.queued, none, 0) ∧ (s.core 0).lines = [] ∧ 0 < s.cores.length) ∧
    (let s : State := { demoL (fun l => { l with ended := [0] }) with wgs := [] }
     s.dispatcherStalls = false ∧ s.MemWf ∧ smSorted s.launches = true ∧
       (s.launch? 1).map (fun l => (l.node, l.rejected, l.record.compl, decide (l.record.total ≤ l.ended.length))) = some (none, false, 0, true) ∧
       (s.launch? 1).map (fun l => l.waiting.isNone) = some true) ∧
    (tables State.reset).reach dispatcherCore 0 0x3FFFFFFC .atomic = (.page (pg 0x3FFFFFFC), tables State.reset) ∧
    ((pg 0x3FFFFFFC).loc % 4 = 0 ∧ (tables State.reset).resolve (pg 0x3FFFFFFC).loc = (pg 0x3FFFFFFC).loc ∧
      (lccCheck ((tables State.reset).homeWord (pg 0x3FFFFFFC).loc)).data? = some 0) ∧
    (let s := ((withCtx demo 1).modWg wk fun g => { g with preempting := true, raised := 9 }).modIsland 40 fun x => { x with cycle := 50009 }
     (s.wg? wk).map (fun g => (g.status, g.preempting, g.deadline, g.buckets.isEmpty, g.due.isEmpty)) = some (.resident, true, false, true, true) ∧
     (s.ctxEntry? 0).map (fun e => 9 + (if e.pdead = 0 then 50 else e.pdead) * 1000) = some s.serviceClock) ∧
    (let s := (withCtx demo 1).modWg wk fun g => { g with preempting := true, deadline := true, frame := some 0 }
     (s.wg? wk).map (fun g => (g.preempting, g.deadline, g.frame, g.yieldedAll)) = some (true, true, some 0, false) ∧ (s.ctxEntry? 0).isSome = true ∧
     s.engineHolds wk = false) ∧
    (let s := parkedFor (.page [⟨0, 0x40000000, 3⟩] 0x40000000 1)
     (∃ b r, s.beam? bm = some b ∧ ParksOne b 63 r ⟨0x10000, 0, 0x80, .parked 63, 0⟩) ∧
     (s.beam? bm).map (fun b => b.parked.map (·.2.cause)) = some [.page [⟨0, 0x40000000, 3⟩] 0x40000000 1] ∧
     (⟨0, 0x40000000, 3⟩ : Span).holds 0 0x7FFF0000 = true ∧ (s.wg? wk).map (fun g => (g.status, g.beams.map (·.1))) = some (.resident, [0])) := by
  refine ⟨by decide, by decide, ⟨by decide, ⟨by decide, by decide⟩, by decide⟩, rfl, by decide, by decide, by decide, parks_of (by decide), by decide,
    by decide, by decide⟩

/-- A lantern core with room, with a full queue, and with a ticket given out; a retry in its turn and one out of it. -/
theorem witness_TicketsOfRequests :
    (let s : State := { State.reset with msgs := [.request 127 ask] }
     s.firstOnRoute 0 = true ∧ (s.lantern 127).queue.length + 0 < 256 ∧ (s.lantern 127).outstanding = [] ∧ s.lanterns.length = 128) ∧
    (let s := ({ State.reset with msgs := [.request 127 ask] } : State).modLantern 127 fun l => { l with queue := List.replicate 256 ask }
     s.firstOnRoute 0 = true ∧ ¬ (s.lantern 127).queue.length < 256) ∧
    (let s := ({ State.reset with msgs := [.retry 127 5 1 ask] } : State).modLantern 127 fun l => { l with next := 6, serve := 5, outstanding := [5] }
     s.firstOnRoute 0 = true ∧ (s.lantern 127).serve = 5 ∧ (5 + 1) % 2 ^ 32 = (s.lantern 127).next ∧ (s.lantern 127).voids = [] ∧
     4 ≠ (s.lantern 127).serve) ∧
    (let s := ({ State.reset with msgs := [.cancel 127 6] } : State).modLantern 127 fun l => { l with next := 7, serve := 5, outstanding := [5, 6] }
     6 ∈ (s.lantern 127).outstanding ∧ 6 ≠ (s.lantern 127).serve ∧ (s.lantern 127).serve ∈ (s.lantern 127).outstanding ∧
     7 ∉ (s.lantern 127).outstanding) ∧ ask.slot ≠ 8 ∧ (Msg.wake 127 5).isBackoff 127 5 = false ∧
    (let s : State := { demo with msgs := [.nack 127 5 1 ask] }
     (s.wg? ask.wg).map (fun g => (g.status, g.findThread ask.thread)) = some (.resident, some (0, 3)) ∧
     (s.beam? bm).map (fun x => (x.inh, x.kept, x.parked.length, x.frontier.all fun y => y.kind == .runnable,
       (x.frontier.find? fun y => y.kind == .runnable && y.lanes.testBit 3).isSome)) = some (false, none, 0, true, true)) ∧
    (let s := parkedFor .ship
     let r := { ask with thread := 7 }
     r.slot ≠ 8 ∧ s.msgs.any (Msg.nackedOf r.wg r.thread) = false ∧ (s.wg? r.wg).map (·.findThread r.thread) = some (some (0, 7)) ∧
     (∃ b p, s.beam? bm = some b ∧ ParksOne b 63 p ⟨0x10000, 0, 0x80, .parked 63, 0⟩) ∧
     (s.beam? bm).map (fun b => b.parked.map fun p => (p.2.cause, p.2.lanes, p.2.pc)) = some [(.ship, 2 ^ 7, 0x10000)]) := by
  refine ⟨by decide, by decide, by decide, by decide, by decide, by decide, by decide, by decide, by decide, by decide, parks_of (by decide),
    by decide⟩

/-- A request in the queue of an idle lantern core; a section one short of its limit, and at it. -/
theorem witness_SectionsRun :
    (let s := (withCtx State.reset 0).modLantern 127 fun l => { l with queue := [ask] }
     (s.lantern 127).running.isNone = true ∧ (s.lantern 127).queue = [ask] ∧ (s.ctx ask.ctx).cached.isSome = true ∧ (s.ctxEntry? ask.ctx).isSome = true ∧
     (s.core (288 + 127)).lines = [] ∧ ask.args.length ≤ 8 ∧ s.lanterns.length = 128 ∧ s.cores.length = 416) ∧
    (let s := sect fun r => { r with steps := 2 ^ 20 - 1 }
     (s.section? 0).map (fun r => (r.wait, decide (r.steps < s.stepLimit 0))) = some ([], true)) ∧
    (let s := sect fun r => { r with steps := 2 ^ 20 }
     (s.section? 0).map (fun r => (r.wait, decide (s.stepLimit 0 ≤ r.steps), r.ending.isNone)) = some ([], true, true) ∧
     s.MemWf ∧ (s.core (lanternIx 0)).lines = [] ∧ (s.core (lanternIx 0)).flights = [] ∧ s.Maps (lanternIx 0) 0 .atomic ask.lock (pg 0x40) ∧
     (pg 0x40).loc % 8 = 0 ∧ s.resolve (pg 0x40).loc = (pg 0x40).loc ∧ (lccCheck (s.homeWord (pg 0x40).loc)).data? = some 0 ∧
     (lccCheck (s.homeWord ((pg 0x40).loc + 4))).data? = some 0) := by
  refine ⟨by decide, by decide, by decide, ⟨by decide, by decide⟩, by decide, by decide, maps_of (by decide), by decide, by decide, by decide,
    by decide⟩

/-- A result in flight to a register; a section's result to slot 2 of a thread that waits for it and of one that has exited; a far lane. -/
theorem witness_ResultsArrive :
    (let s := demoB fun b => { b with outstanding := [⟨.v 3 5 (CW.make 1), 8⟩] }
     ((s.beam? bm).map fun b => b.outstanding[0]?.isSome) = some true) ∧
    (let s := { demoB fun b => b.modLane 3 fun x => x.setSlot 2 ⟨.pending, 0, 0, [], 3, 0x40, .empty⟩ with msgs := [.result ask 0 4 [CW.make 1] .empty] }
     ask.module = none ∧ (s.wg? ask.wg).map (fun g => (g.findThread ask.thread, g.findThread 8, g.status)) = some (some (0, 3), none, .resident) ∧
     s.msgs[0]? = some (.result ask 0 4 [CW.make 1] .empty) ∧ ask.slot < 8 ∧
     (s.beam? bm).map (fun b => (b.kept, b.lanes.map (·.slots.length), b.frontier.all fun e => e.kind == .runnable)) =
       some (none, List.replicate 8 9, true) ∧ (s.beam? bm).map (fun b => ((b.lane 3).slot ask.slot).state) = some .pending) ∧
    (let s := parkedFor (.split [(7, 0x3FFFFFF0)] 60 4)
     (∃ b r, s.beam? bm = some b ∧ ParksOne b 63 r ⟨0x10000, 0, 0x80, .parked 63, 0⟩) ∧ 0x80 = 2 ^ 7 ∧ s.MemWf ∧
     (s.beam? bm).map (fun b => b.parked.map (·.2.cause)) = some [.split [(7, 0x3FFFFFF0)] 60 4] ∧
     (s.wg? wk).map (fun g => (g.status, g.deadline, g.core, g.ctx)) = some (.resident, false, 0, 0) ∧ (s.core 0).lines = [] ∧ (s.core 0).flights = [] ∧
     s.Maps 0 0 .load 0x3FFFFFF0 (pg 0x3FFFFFF0) ∧ s.resolve (pg 0x3FFFFFF0).loc = (pg 0x3FFFFFF0).loc ∧ (pg 0x3FFFFFF0).loc % 4 = 0 ∧
     (pg 0x3FFFFFF0).rd = false) := by
  refine ⟨by decide, by decide, parks_of (by decide), by decide, ⟨by decide, by decide⟩, by decide, by decide, by decide, by decide,
    maps_of (by decide), by decide, by decide, by decide⟩

/-- The workgroup's beam has a command at the head of the sub-queue of quarter 0. -/
def withQ (copy : Bool) (op : EngOp) (step : Nat) : State :=
  (demoG fun g => { g with acc := 2 }).setSubQueue copy 0 0 [⟨wk, 0, 0, 0x10000, op, 0, 0, step, 0, 0, [], []⟩]

/-- One step of the least shape, 16 × 16 × 32 of f64, that starts its tile afresh, its operands in an empty scratchpad. -/
def mulOp : EngOp := .multiply 0 4 0 [0x2000, 0, 0, 0] 0 [] 0 0 false
def mulEntry : EngEntry := ⟨wk, 0, 0, 0x10000, mulOp, 0, 0, 0, 0, 0, [], []⟩
def mulStep : MStep := ⟨⟨0, [0x2000, 0, 0, 0]⟩, ⟨16, 16, 32, 64⟩, 0, 0, [], 0, .ofWord 0, false, 0⟩

theorem empty_word (k : Nat) : Mem.empty.word k = .zero := by
  simp only [Mem.word, Mem.byte, Mem.empty, cellGet, smGet?, Option.getD_none]
  decide

theorem mul_runs (s : State) (pl : Place) (g : Wg) (hg : s.wg? pl.wg = some g) (hp : g.pool = []) (hm : g.scratch = .empty) (hn : g.sp = 1) :
    ∃ ws, (mulStep.run ⟨s, 0, [], 0, false, false⟩ pl).1 = .ok ws := by
  have hs : s.scratchOf pl.wg = (.empty, 16384) := by simp [State.scratchOf, hg, hm, hn]
  have hd : ∀ p, s.drainPool pl.wg p = s := fun p => by simp [State.drainPool, hg, hp]
  have hq : ∀ off, s.copyUnderWay pl.wg off = false := fun off => by simp [State.copyUnderWay, hg, hp]
  have hw : ∀ a, 0 ≤ a → a + 256 ≤ 16384 →
      ∃ ws, (⟨s, 0, [], 0, true, false⟩ : EngWork).words pl false a 64 = (.ok ws, ⟨s, 0, [], 0, true, false⟩) := fun a h0 h1 =>
    EngWork.words_clean 64 a fun k hk => ⟨.zero, 0, by
      have h2 : ¬ (a + 4 * (k : Int) < 0 ∨ 16384 < (a + 4 * (k : Int)).toNat + 4) := by omega
      simp only [State.engRead, State.engSlot, hs, h2, Bool.false_eq_true, if_false, State.poolRead, hd, empty_word], by decide, hq _⟩
  have hr : ∀ as : List Int, (∀ a ∈ as, 0 ≤ a ∧ a + 256 ≤ 16384) →
      ∃ rs, (⟨s, 0, [], 0, true, false⟩ : EngWork).rows pl false 64 as = (.ok rs, ⟨s, 0, [], 0, true, false⟩) := fun as ha =>
    EngWork.rows_clean as fun a hm => hw a (ha a hm).1 (ha a hm).2
  obtain ⟨rs, h1⟩ : ∃ rs, mulStep.readA ⟨s, 0, [], 0, false, false⟩ pl = (.ok rs, ⟨s, 0, [], 0, true, false⟩) :=
    hr ((List.range 16).map fun i => mulStep.aBase + (i * mulStep.x.aStride : Nat)) (by decide)
  obtain ⟨cs, h2⟩ : ∃ cs, mulStep.readB ⟨s, 0, [], 0, true, false⟩ pl = (.ok cs, ⟨s, 0, [], 0, true, false⟩) :=
    hr ((List.range 16).map fun j => mulStep.bBase + (j * mulStep.x.bStride : Nat)) (by decide)
  have h0 : mulStep.readMeta ⟨s, 0, [], 0, false, false⟩ pl = (.ok [], ⟨s, 0, [], 0, false, false⟩) := rfl
  have h3 : mulStep.newScales = [] := by decide
  have h4 : mulStep.tileWords s pl.wg = [] := rfl
  have h5 : ¬ mulStep.x.op = 4 := by decide
  exact ⟨_, by simp only [MStep.run, h0, h1, h2, h3, h5, if_false, EngWork.checks, h4]; rfl⟩

/-- Each command at the head, with the budget unlimited; a spent budget; an empty queue. -/
theorem witness_EngineSteps :
    (let s := demo.modIsland 0 fun i => { i with unlimited := false, level := -1 }
     s.mayStart 0 = false ∧ (s.core 0).matrixQ = [[], [], [], []] ∧
     (demo.wg? wk).map (fun g => (g.status, smSorted g.tiles, g.pool)) = some (.resident, true, [])) ∧
    (let e : EngEntry := ⟨wk, 0, 0, 0x10000, .accz 1, 0, 0, 0, 0, 0, [], []⟩
     let s := withQ false (.accz 1) 0
     s.mayStart 0 = true ∧ (s.core 0).matrixQ = (List.replicate 4 []).set 0 [e] ∧ 0 < s.cores.length ∧ e.waits = false ∧ s.stillReads e = true) ∧
    (let op := EngOp.transfer false 1 64 256 false
     let s := withQ false op 63
     (s.core 0).matrixQ = (List.replicate 4 []).set 0 [⟨wk, 0, 0, 0x10000, op, 0, 0, 63, 0, 0, [], []⟩] ∧ 63 < 64 ∧
     64 + 62 * 256 + 256 ≤ 1 * 16384) ∧
    (let op := EngOp.write 1 [(0, 5), (4095, 6)]
     let s := withQ false op 0
     (s.core 0).matrixQ = (List.replicate 4 []).set 0 [⟨wk, 0, 0, 0x10000, op, 0, 0, 0, 0, 0, [], []⟩] ∧ s.mayStart 0 = true ∧
     ∀ y ∈ [((0 : Nat), (5 : Nat)), (4095, 6)], y.1 < 4096) ∧
    (let e : EngEntry := ⟨wk, 0, 0, 0x10000, .read 1 0xFF, 0, 0, 0, 0, 0, [], []⟩
     let s := withQ false (.read 1 0xFF) 0
     (s.core 0).matrixQ = (List.replicate 4 []).set 0 [e] ∧ s.mayStart 0 = true ∧ s.stillReads e = true) ∧
    (let s := withQ false mulOp 0
     let u := (s.notePassed 0 ⟨0, s.toggle mulEntry, 0, 0⟩).wick 0 (s.wgPlace wk).ctx (s.toggle mulEntry) mulStep.g.clocks
     mulEntry.mstep = some mulStep ∧ (s.core 0).matrixQ = (List.replicate 4 []).set 0 [mulEntry] ∧
     ∃ ws, (mulStep.run ⟨u, 0, [], 0, false, false⟩ (s.wgPlace wk)).1 = .ok ws) ∧
    (let op := EngOp.copy 16380 0 4 1 0 0 true true
     let s := withQ true op 0
     s.subQueue true 0 0 = [⟨wk, 0, 0, 0x10000, op, 0, 0, 0, 0, 0, [], []⟩] ∧ 4 * 0 < 4 * 1 ∧ 16380 + 4 ≤ 1 * 16384) :=
  ⟨by decide, by decide, by decide, by decide, by decide, ⟨rfl, by decide, mul_runs _ _ _ rfl rfl rfl rfl⟩, by decide⟩

/-- Waits one clock short of their limits, and at them; the `pause` that a loop stands at; a cause of the engines. -/
theorem witness_WatchdogsAndDelivery :
    (let s := demoB fun b => { b with regWait := 2 ^ 20, barStall := 2 ^ 26, frontier := [⟨0x10000, 0, 0x0F, .extAcq, 0⟩, ⟨0x10004, 0, 0xF0, .barWg, 0⟩] }
     (s.beam? bm).map (fun b => (b.inh, b.frontier.find? fun x => x.kind == .extAcq)) = some (false, some ⟨0x10000, 0, 0x0F, .extAcq, 0⟩) ∧
     (s.beam? bm).map (fun b => (b.frontier[1]?, b.frontier.take 1)) = some (some ⟨0x10004, 0, 0xF0, .barWg, 0⟩, [⟨0x10000, 0, 0x0F, .extAcq, 0⟩]) ∧
     (s.wg? wk).map (fun g => (g.trapvec, g.extQueue.all fun x => x.1 == 0)) = some (0x20000, true) ∧ s.mod.bsl = 26) ∧
    (let s := demoB fun b => { b with barStall := 2 ^ 26, frontier := [⟨0x10000, 0, 0xFF, .barCon 255, 0⟩] }
     (s.beam? bm).map (fun b => (b.frontier[0]?, b.inh, b.frontier.take 0)) = some (some ⟨0x10000, 0, 0xFF, .barCon 255, 0⟩, false, [])) ∧
    ((demo.beam? bm).map (fun b => (decide (b.regWait < 2 ^ 20), decide (b.barStall < 2 ^ 26), decide (b.pauseLoop < 2 ^ 26))) =
      some (true, true, true)) ∧
    (let s := ({ State.reset.placeWords 0x65000001 0 with agenda := [] } : State).modBeam bm fun b => { b with pauseLoop := 2 ^ 26 }
     s.mod.pll = 26 ∧ ((s.beam? bm).bind fun b => (firstOf b.frontier).bind fun e => (s.peek (s.place bm) e.pc).map fun w => w.toNat / 2 ^ 24 % 2 ^ 7)
       = some 0x65) ∧
    (let s := demoB fun b => { b with pendD := [⟨.plain 0x0A, 0x10000, 2⟩] }
     (s.beam? bm).map (fun b => (b.pendD.length, (b.entry? false).map (·.lanes), b.canRun)) = some (1, some 0xFF, true)) := by
  decide

/-- No wrong bit, one, two, and all four of a nibble. -/
theorem witness_CheckCodes : ∀ e ∈ [((0 : BitVec 40), 0), (2 ^ 39, 1), (2 ^ 39 + 1, 2), (15, 4)],
    ((List.range 40).filter fun i => e.1.getLsbD i).length = e.2 := by decide

theorem witness_EncodingRoundTrip : (Instr.add32 ⟨true, some { p0 with k := 7, z := true, hold := 2 }⟩ 127 126 125).wellFormed = true ∧
    decodeWords [0x01004103, 5] = .ok (.add32 m0 1 2 3, [5]) := by decide

theorem pair_of {α β : Type} {x : α × β} {a : α} (h : x.1 = a) : x = (a, x.2) := Prod.ext h rfl

/-- The one beam's turn: what stands where it issues, and the state its quarter's choice leaves. -/
def turnOf (w0 w1 : Nat) (f : Beam → Beam) : State :=
  { (State.reset.placeWords w0 w1).modBeam bm f with agenda := [], moves := 1 }

/-- Whether a quarter chooses the beam, and its ports offer these entries. -/
def choosesB (s : State) (p : Option Entry × Option Entry) : Bool :=
  let r := s.chosen 0 0 []
  r.1 == some bm && (r.2.boundary bm).isNone && (r.2.beam? bm).map (·.ports) == some p

/-- The one beam's turn, at a `nop`, at a word that is no instruction, and at a bad prefix; a turn of one port and of both, at a `nop` and at
traps; a section's turn. -/
theorem witness_StepRunsDecodedInstruction :
    (let e := Entry.run 0x10000 0 0xFF 0
     (∃ v, (turnOf 0x78800000 0 id).fetch bm e.pc 0 = (.words [0x78800000], v)) ∧ decodeWords [0x78800000] = .ok (.nop m0, []) ∧
     (∃ v, (turnOf 0 0 id).fetch bm e.pc 0 = (.words [0], v)) ∧ decodeWords [0] = .error .illegalInstruction ∧
     (∃ v, (turnOf 0x7F000001 0x78800000 id).fetch bm e.pc 0 = (.words [0x7F000001, 0x78800000], v)) ∧
     decodeWords [0x7F000001, 0x78800000] = .error .illegalPrefix) ∧
    (let e := Entry.run 0x10000 0 0x0F 0
     let e' := Entry.run 0x10004 0 0xF0 0
     let two := fun (b : Beam) => { b with ord := false, frontier := [e, e'] }
     (State.reset.placeWords 0x78800000 0).agenda = .issue 0 0 [] 0 false :: [] ∧
     choosesB (turnOf 0x78800000 0x78800000 id) (some (.run 0x10000 0 0xFF 0), none) = true ∧
     (∀ w0 ∈ [0x78800000, 0x78000005], ∀ w1 ∈ [0x78800000, 0x78000005],
       let s := (turnOf w0 w1 two)
       let u := (s.chosen 0 0 []).2
       choosesB s (some e, some e') = true ∧
       (match u.issueEntry bm e false 0 none with
        | .next t => u.stoppedFrom t bm == (w0 == 0x78000005)
        | _ => false) = true ∧
       (match u.issueEntry bm e' true 0 none with
        | .next t => u.stoppedFrom t bm == (w1 == 0x78000005) && !u.leftFrom t bm
        | _ => false) = true)) ∧
    (let s : State := { lant with agenda := [.lantern 0 0], cur := none }
     (s.section? 0).map (fun r => (r.ending.isNone, r.beam.entry? false)) = some (true, some (.run 0x10000 0 1 0)) ∧
     s.mayIssue (.lantern 0) = true ∧ s.spent (.lantern 0) = false) ∧
    (let s := turnOf 0x78800000 0x78800000 id
     let p := turnOf 0x7F000001 0x78800000 id
     (0x10000 + 4 < 2 ^ 72) ∧ (∃ v, s.reach (s.place bm).core (s.place bm).ctx 0x10000 .fetching = (.page (pg 0x10000), v) ∧
       v.codeWord (s.place bm) 0x10000 (pg 0x10000).loc false = CW.make 0x78800000) ∧
     (∃ v, p.reach (p.place bm).core (p.place bm).ctx 0x10000 .fetching = (.page (pg 0x10000), v) ∧
       v.codeWord (p.place bm) 0x10000 (pg 0x10000).loc false = CW.make 0x7F000001 ∧
       ∃ w, v.reach (p.place bm).core (p.place bm).ctx 0x10004 .fetching = (.page (pg 0x10004), w) ∧
         w.codeWord (p.place bm) 0x10004 (pg 0x10004).loc false = CW.make 0x78800000) ∧
     isPrefix 0x78800000 = false ∧ isPrefix 0x7F000001 = true) := by
  refine ⟨⟨⟨_, pair_of (by decide)⟩, by decide, ⟨_, pair_of (by decide)⟩, by decide, ⟨_, pair_of (by decide)⟩, by decide⟩, ⟨rfl, by decide, by decide⟩,
    by decide, by decide, ⟨_, pair_of (by decide), by decide⟩, ⟨_, pair_of (by decide), by decide, _, pair_of (by decide), by decide⟩, by decide, by decide⟩

/-- A step from a state in canonical form that answers a next state. -/
theorem witness_StepKeepsMemoryWf : (State.reset.placeWords 0x78800000 0).MemWf ∧
    (match step (State.reset.placeWords 0x78800000 0) with
      | .next _ => true
      | _ => false) = true := by
  refine ⟨⟨by decide, by decide⟩, by decide⟩


/-- The core holds the line at 0x40, one word of it dirty, and a write to 0x2000 is in flight. The base s5 is that line's; the offsets in v1 are 0,
but lane 7's is the next line's, in v2 0 for all; s6 is the word in flight. -/
def warm : State :=
  (demoW [.s 5 (mkS 0x40), .s 6 (mkS 0x2000), .v 7 1 (CW.make 0x1000)]).modCore 0 fun c => { c with
    lines := [(1, ⟨List.replicate 16 (CW.make 5), [(0, (4, [wk]))], 0, 0, .demand, []⟩)]
    flights := [{ deviceWrite 0x2000 (CW.make 9) with wgs := [wk] }] }

/-- Accesses to a held line, by words, each lane's own and all at one place; a scalar access; a split gather with seven lanes near and one far;
an atomic on the held line; and accesses of a core that holds no line, whose write is in flight. -/
theorem witness_HeldLines :
    let s := warm
    let f := frameOf s m0
    let none_ := (warm.modCore 0 fun c => { c with lines := [] })
    let k := frameOf none_ m0
    let sp := fun (l : Nat) => indexed l [0x40, if l = 7 then 0x1000 else 0]
    f.Ready s m0 ∧ f.Steady s ∧ f.Fits [.s 5, .v 1 1, .v 2 1, .v 60 4] ∧ f.Reads [.s 5] (fun _ => [0x40]) ∧ f.Reads [.s 5, .v 2 1] (fun _ => [0x40, 0]) ∧
    (∀ acc ∈ [Access.load, .store], f.Reaches s acc 4 (fun l => strided 4 0 l [0x40]) (fun l => pg (strided 4 0 l [0x40]))) ∧
    (∀ l ∈ f.lanes, f.NeedsNoLine s (strided 4 0 l [0x40]) (pg (strided 4 0 l [0x40]))) ∧
    (∀ l ∈ f.lanes, (loadOut 60 4 s f l 0x40 (s.coreRange f.pl.core (wordLoc (pg 0x40).loc) 1)).isSome = true) ∧
    (∃ v, storeSeq 4 (fun l => wordLoc (pg (strided 4 0 l [0x40])).loc)
      (fun l => storeNew 60 4 s f l (strided 4 0 l [0x40])) f.lanes (s.coreWord f.pl.core) = some v) ∧
    (f.ReachesOne s .load 8 0x40 (pg 0x40) ∧ f.ReachesOne s .store 8 0x40 (pg 0x40) ∧ f.value f.elected (.s 5) = some 0x40 ∧
      (loadScalar 8 0x40 (s.coreRange f.pl.core (wordLoc (pg 0x40).loc) 2)).isSome = true) ∧
    (f.lantern = false ∧ f.b.parked = [] ∧ f.Reads [.s 5, .v 1 1] (fun l => [0x40, if l = 7 then 0x1000 else 0]) ∧
      f.Reaches s .load 4 sp (fun l => pg (sp l)) ∧ (∀ l ∈ f.lanes, (pg (sp l)).loc % 64 = sp l % 64 ∧ (pg (sp l)).cached = true) ∧
      (f.lanes.filter fun l => (pg (sp l)).cached && !s.Holds f.pl.core (pg (sp l)).loc) = [7]) ∧
    (f.Reaches s .atomic 4 (fun l => indexed l [0x40, 0]) (fun l => pg (indexed l [0x40, 0])) ∧
      (rmwSeq 1 (fun _ => wordLoc (pg 0x40).loc) (fun l mem => match dataOf mem, f.value l (.v 2 1) with
        | some x, some v => some (f.put l (.v 2 1) x, some ((wordsOfNat 1 (atomSum 0 x v)).map CW.make))
        | _, _ => none) f.lanes (s.pastCache f.pl.core)).isSome = true) ∧
    (k.Ready none_ m0 ∧ k.Steady none_ ∧ (none_.core k.pl.core).lines = [] ∧ k.ReachesOne none_ .load 4 0x2000 (pg 0x2000) ∧
      k.value k.elected (.s 6) = some 0x2000 ∧ none_.coreRange k.pl.core (wordLoc (pg 0x2000).loc) 1 = [CW.make 9]) := by
  refine ⟨ready_of (by decide), steady_of (by decide), fits_of (by decide), reads_of (by decide), reads_of (by decide), ?_, by unfold Frame.NeedsNoLine; decide, by decide,
    storeSeq_of (by decide), ⟨reachesOne_of (by decide), reachesOne_of (by decide), by decide, by decide⟩,
    ⟨by decide, by decide, reads_of (by decide), reaches_of (by decide), by decide, by decide⟩, ⟨reaches_of (by decide), by decide⟩,
    ready_of (by decide), steady_of (by decide), by decide, reachesOne_of (by decide), by decide, by decide⟩
  intro acc h
  simp only [List.mem_cons, List.not_mem_nil, or_false] at h
  rcases h with rfl | rfl <;> exact reaches_of (by decide)

/-- A second leaf allows nothing. Offsets in v1: lane 3's is odd, lane 4's reaches that leaf, lane 5's is uncorrectable, and the others' are 0.
s7 and s8 are a base and a bound of 1. -/
def faulty (b4 : Nat) : State :=
  (demoW [.s 5 (mkS 0x1000), .s 7 (mkS 0x1000), .s 8 (mkS 1), .s 9 ⟨0x3C800000, 0x40, lccMake 0, lccMake 0⟩, .v 3 1 (CW.make 2),
    .v 4 1 (CW.make (.ofNat 32 b4)), .v 5 1 ⟨0x3C800000, 0x40⟩]).modCore 0 fun c => { c with tlb := ⟨0, 0x40000000, 3, 0x03⟩ :: c.tlb }

def denied : Nat := 0x40000000 - 0x1000

/-- Lanes of one access that complete, are misaligned, denied, or cannot read their index; all misaligned; lanes at and past a bound. -/
theorem witness_LaneFaults :
    let s := faulty denied
    let f := frameOf s m0
    let x := fun (l : Nat) => [0x1000, if l = 3 then 2 else if l = 4 then denied else 0]
    let cs := fun (acc : Access) (l : Nat) => if l = 3 then some (⟨0x09, 0, 0, 0x1002, 0⟩ : Cause)
      else if l = 4 then some ⟨0x0A, acc.bits, 0, 0x40000000, 0⟩ else if l = 5 then some (lccOf ⟨0x3C800000, 0x40⟩) else none
    let p := fun (l : Nat) => pg (indexed l (x l))
    let odd := demoW [.s 5 (mkS 0x1001)]
    let o := frameOf odd m0
    let co := fun (l : Nat) => some (⟨0x09, 0, 0, strided 4 0 l [0x1001], 0⟩ : Cause)
    let t := faulty 1
    let h := frameOf t m0
    let y := fun (l : Nat) => [0x1000, 1, if l = 3 then 2 else if l = 4 then 1 else 0]
    let index := fun (v : List Nat) => if v.getD 2 0 < v.getD 1 0 % 2 ^ 64 then none else some (v.getD 2 0)
    let cb := fun (l : Nat) => if l = 3 then some (⟨0x0B, 0, 0, 2, 0⟩ : Cause) else if l = 4 then some ⟨0x0B, 0, 0, 1, 0⟩
      else if l = 5 then some (lccOf ⟨0x3C800000, 0x40⟩) else none
    (f.Ready s m0 ∧ f.Quiet s ∧ f.Fits [.s 5, .v 1 1, .v 2 1] ∧ (∃ g, f.MayTrap s g) ∧
      (∀ q ∈ [Opnd.s 5, .v 1 1], q.perBeam = true → f.value f.elected q ≠ none) ∧
      (∀ acc ∈ [Access.load, .store, .atomic], (∀ l ∈ f.lanes, f.LaneFate s [.s 5, .v 1 1] (some 1) acc 4 indexed (fun _ => none) x p l (cs acc l)) ∧
        f.Decides (cs acc) ⟨0x09, 0, 0, 0x1002, 0⟩ ∧ f.completing (cs acc) = [0, 1, 2, 6, 7]) ∧
      (∃ v, storeSeq 4 (fun l => wordLoc (p l).loc) (fun l => storeNew 2 4 s f l (indexed l (x l))) [0, 1, 2, 6, 7] (s.coreWord f.pl.core) = some v) ∧
      (rmwSeq 1 (fun l => wordLoc (p l).loc) (fun l mem => match dataOf mem, f.value l (.v 2 1) with
        | some x, some v => some (f.put l (.v 2 1) x, some ((wordsOfNat 1 (atomSum 0 x v)).map CW.make))
        | _, _ => none) [0, 1, 2, 6, 7] (s.coreWord f.pl.core)).isSome = true) ∧
    (o.Ready odd m0 ∧ o.Quiet odd ∧ o.Fits [.s 5, .v 2 1] ∧ (∃ g, o.MayTrap odd g) ∧
      (∀ acc ∈ [Access.load, .store], ∀ l ∈ o.lanes,
        o.LaneFate odd [.s 5] none acc 4 (strided 4 0) (fun _ => none) (fun _ => [0x1001]) (fun _ => pg 0) l (co l)) ∧
      o.Decides co ⟨0x09, 0, 0, 0x1001, 0⟩ ∧ o.completing co = []) ∧
    (h.Ready t m0 ∧ h.Quiet t ∧ h.Fits [.s 7, .s 8, .v 1 1, .v 2 1] ∧ (∃ g, h.MayTrap t g) ∧
      (∀ l ∈ h.lanes, h.LaneFate t [.s 7, .s 8, .v 1 1] (some 1) .atomic 4
        (fun _ v => wrap 72 ((v.getD 0 0 : Int) + 4 * (v.getD 2 0 : Nat))) index y (fun _ => pg 0x1000) l (cb l)) ∧
      h.Decides cb ⟨0x0B, 0, 0, 2, 0⟩ ∧ h.completing cb = [0, 1, 2, 6, 7]) ∧
    (f.b.sreg 9).words.find? (fun y => ((lccCheck y).data?).isNone) = some ⟨0x3C800000, 0x40⟩ := by
  refine ⟨⟨ready_of (by decide), quiet_of (by decide), fits_of (by decide), may_of (by decide), by decide, ?_, storeSeq_of (by decide), by decide⟩,
    ⟨ready_of (by decide), quiet_of (by decide), fits_of (by decide), may_of (by decide), ?_, decides_of (l := 0) (by decide), by decide⟩,
    ⟨ready_of (by decide), quiet_of (by decide), fits_of (by decide), may_of (by decide), ?_, decides_of (l := 3) (by decide), by decide⟩, by decide⟩
  · intro acc h
    simp only [List.mem_cons, List.not_mem_nil, or_false] at h
    rcases h with rfl | rfl | rfl <;> exact ⟨fates_of (by decide), decides_of (l := 3) (by decide), by decide⟩
  · intro acc h
    simp only [List.mem_cons, List.not_mem_nil, or_false] at h
    rcases h with rfl | rfl <;> exact fates_of (by decide)
  · exact fates_of (by decide)

/-- A register past the file; a result outstanding that an operand names, and one that the prefix's mask names, with HCK = 1. -/
theorem witness_PathFaults :
    (let s := demoB fun b => { b with hck := true, outstanding := [⟨.v 3 5 (CW.make 1), 8⟩, ⟨.s 6 (mkS 1), 0xFF⟩] }
     let f := frameOf s m0
     s.frame? m0 = some f ∧ s.beam? f.a = some f.b ∧ f.active ≠ 0 ∧ (∃ g, f.MayTrap s g) ∧ ¬ f.Fits [.v 255 1] ∧ f.Fits [.v 5 1, .v 1 1, .v 2 1] ∧
     f.b.hck = true ∧ (f.lanes.filter fun l => f.b.outstanding.any fun y => y.lanes.testBit l &&
       (([Opnd.v 5 1, .v 1 1, .v 2 1].flatMap f.names).contains y.write.name || false)) = [3] ∧
     (f.lanes.filter fun l => f.b.outstanding.any fun y => y.lanes.testBit l &&
       (([Opnd.s 6, .v 1 1].flatMap f.names).contains y.write.name || false)) ≠ []) ∧
    (let m : Mods := ⟨false, some { p0 with k := 2 }⟩
     let s := (demoW [.k 2 (mkK 8 0xFF)]).modBeam bm fun b => { b with hck := true, outstanding := [⟨.k 2 (mkK 8 0), 1⟩] }
     let f := frameOf s m
     s.frame? m = some f ∧ s.beam? f.a = some f.b ∧ f.active ≠ 0 ∧ (∃ g, f.MayTrap s g) ∧ f.b.hck = true ∧ f.Fits [] ∧
     (f.lanes.filter fun l => f.b.outstanding.any fun y => y.lanes.testBit l && (([] : List Opnd).flatMap f.names).contains y.write.name ||
       y.write.name == .k 2) ≠ []) := by
  refine ⟨⟨some_getD _ (by decide), by decide, by decide, may_of (by decide), by unfold Frame.Fits; decide, fits_of (by decide), by decide, by decide,
    by decide⟩, some_getD _ (by decide), by decide, by decide, may_of (by decide), by decide, fits_of (by decide), by decide⟩

/-- The base of a load has no leaf, and its walk meets no table. -/
theorem witness_PageFault :
    let s := demoW [.s 5 (mkS (2 ^ 60))]
    let f := frameOf s m0
    f.Ready s m0 ∧ f.lantern = false ∧ f.b.parked = [] ∧ f.Fits [.s 5, .v 63 1] ∧ f.Reads [.s 5] (fun _ => [2 ^ 60]) ∧
    (∀ l ∈ f.lanes, strided 4 0 l [2 ^ 60] % 4 = 0 ∧ spanBase 5 (strided 4 0 l [2 ^ 60]) = 2 ^ 60) ∧
    (match (s.reach f.pl.core f.pl.ctx (strided 4 0 f.elected [2 ^ 60]) .load).1 with
      | .fault _ level => level == 5
      | _ => false) = true := by
  refine ⟨ready_of (by decide), by decide, by decide, fits_of (by decide), reads_of (by decide), by decide, by decide⟩

/-- Nodes of the workgroup on core 0: 0 a FLAG node with one arrival to come, whose successors are 1 and 63; 1 a held one with two, 63 with fifteen;
2 a LAUNCH node with one to come; 3 a FLAG node that arrives at flag 255; 4 a LAUNCH node that is launched, due, its record at 0x20000, for queue
63, which has room. -/
def noded : State :=
  (demo.modCore 0 fun c => { c with nodes :=
    [(0, ⟨.held, wk, false, 0, none, [1, 63], 1, 0, 0, false, none, .empty⟩), (1, ⟨.held, wk, false, 0, none, [], 2, 0, 0, false, none, .empty⟩),
     (2, ⟨.held, wk, true, 62, none, [], 1, 0x20000, 0, false, none, .empty⟩), (3, ⟨.held, wk, false, 0, some 255, [], 1, 0, 0, false, none, .empty⟩),
     (4, ⟨.launched, wk, true, 63, none, [1], 0, 0x20000, 0, true, none, .empty⟩), (63, ⟨.held, wk, false, 0, none, [], 15, 0, 0, false, none, .empty⟩)] })
    |>.modLq 63 fun q => { q with en := true, device := true, log2 := 4, base := 0x30000, tail := 15 }

/-- Decrements, a completion, and an append. -/
theorem witness_NodesSignalled :
    let s := noded
    (s.wg? wk).map (·.status) = some .resident ∧ 0 < s.cores.length ∧ smSorted (s.core 0).nodes = true ∧ s.node? 0 62 = none ∧
    s.node? 0 0 = some ⟨.held, wk, false, 0, none, [1, 63], 1, 0, 0, false, none, .empty⟩ ∧
    ([1, 63].Nodup ∧ ∀ k ∈ [1, 63], k ≠ 0 ∧ (s.node? 0 k).all (fun z => z.wg == wk && z.state == .held && z.count != 1)) ∧
    (s.node? 0 1).map (fun x => decide (1 < x.count)) = some true ∧ (s.node? 0 2).map (fun x => (x.count, x.launchKind)) = some (1, true) ∧
    (s.node? 0 3).map (fun x => (x.count, x.launchKind, x.flag, x.succs)) = some (1, false, some 255, []) ∧
    (s.node? 0 4).map (fun x => (x.state, x.flag, x.succs, x.due, x.lq)) = some (.launched, none, [1], true, 63) ∧
    ((s.core 0).lines = [] ∧ (s.core 0).flights = [] ∧ s.MemWf ∧ 63 < s.lqs.length ∧ (s.lq 63).takes 0 = true ∧ (s.lq 63).pending < (s.lq 63).slots) ∧
    ∀ s', s' = s → (∃ ws, s'.homeRead 0 0 0x20000 64 = (.ok ws, s')) ∧ (∃ p, s'.reach 0 (s'.lq 63).ctx ((s'.lq 63).slotAddr (s'.lq 63).tail) .store = (.page p, s') ∧
      p.loc % 256 = 0 ∧ s'.resolve p.loc = p.loc) := by
  refine ⟨by decide, by decide, by decide, by decide, by decide, by decide, by decide, by decide, by decide, by decide,
    ⟨by decide, by decide, ⟨by decide, by decide⟩, by decide, by decide, by decide⟩, ?_⟩
  rintro _ rfl
  exact ⟨⟨_, rfl⟩, pg 0x30F00, rfl, by decide, by decide⟩

/-- A section whose context has an entry, which its context's ring can take a record of. -/
theorem witness_SectionsEnd :
    let s := withCtx lant 0
    let f := frameOf s m0
    f.Ready s m0 ∧ f.a = .lantern 0 ∧ f.lantern = true ∧ (s.section? 0).map (fun r => (r.wait, r.ending)) = some ([], none) ∧ (s.section? 0).map (·.req) = some ask ∧ f.Fits [.v 252 4] ∧ f.Quiet s ∧
    (s.ctxEntry? ask.ctx).isSome = true ∧ s.Maps f.pl.core f.pl.ctx .atomic ask.lock (pg 0x40) ∧ s.resolve (pg 0x40).loc = (pg 0x40).loc ∧
    (pg 0x40).loc % 8 = 0 ∧ (lccCheck (s.homeWord (pg 0x40).loc)).data? = some 0 ∧ (lccCheck (s.homeWord ((pg 0x40).loc + 4))).data? = some 0 ∧
    f.pl.core = lanternIx 0 ∧ s.MemWf :=
  ⟨ready_of (by decide), by decide, by decide, by decide, by decide, fits_of (by decide), quiet_of (by decide), by decide, maps_of (by decide), by decide,
   by decide, by decide, by decide, by decide, ⟨by decide, by decide⟩⟩

/-- An address register that cannot be read, over a held line. -/
theorem witness_CacheFormsWithoutAddress :
    let s := lined.modBeam bm (·.writes [.s 9 ⟨0x3C800000, 0x40, lccMake 0, lccMake 0⟩])
    let f := frameOf s m0
    f.Ready s m0 ∧ (s.core f.pl.core).LinesWf ∧ s.MemWf ∧ (s.core f.pl.core).flights = [] ∧ f.pl.core < s.cores.length ∧
    f.value f.elected (.s 9) = none :=
  ⟨ready_of (by decide), ⟨by decide, by decide⟩, ⟨by decide, by decide⟩, by decide, by decide, by decide⟩

/-- A save with a frame given, with one still free, with nothing under way, and with a request that would pass one that is held. -/
theorem witness_Saves :
    let e := withCtx demo 1
    let s := e.modWg wk fun g => { g with preempting := true, deadline := true, frame := some 0 }
    let y := (e.modWg wk fun g => { g with preempting := false }).modBeam bm fun b => { b with yielded := true }
    let late : State := { s with msgs := [.request 127 { ask with ordinal := 2 }, .backoff 127 5 1 { ask with ordinal := 1, nacked := true }] }
    (s.wg? wk).map (fun g => (g.status, s.saveFrame g, g.deadline)) = some (.resident, some 0, true) ∧ (s.ctxEntry? 0).isSome = true ∧
    s.engineHolds wk = false ∧ s.straggles wk = false ∧
    (y.wg? wk).map (fun g => (g.status, y.saveFrame g, g.yieldedAll)) = some (.resident, some 0, true) ∧ y.straggles wk = false ∧
    late.straggles wk = true ∧ (late.wg? wk).isSome = true := by decide

/-- Lanes that are parked, all of them unexited, outside a handler that the workgroup has. -/
theorem witness_TrapsParked :
    let s := parkedFor (.page [⟨0, 0x40000000, 3⟩] 0x40000000 1)
    (s.beam? bm).map (fun b => (b.inh, b.parked.map fun y => y.2.lanes &&& b.live)) = some (false, [0x80]) ∧
    (s.wg? wk).map (fun g => (g.trapvec, g.status, g.deadline)) = some (0x20000, .resident, false) := by decide

/-- A backoff one clock short of its 64, and at it; a wake with a backoff to wake, and one that waits behind a NACK under way; a thread that has
gone; a `ship.t` that waits for its lane. -/
theorem witness_Backoffs :
    let s := fun (c : Nat) => ({ demo with msgs := [.backoff 127 5 1 ask] } : State).modIsland (islandOfCore 0) fun x => { x with cycle := c }
    ¬ (ask.module.isSome = true ∨ ask.sent + 64 * 2 ^ min (1 - 1) 6 ≤ (s 63).clockAt ask.core) ∧
    ask.sent + 64 * 2 ^ min (1 - 1) 6 ≤ (s 64).clockAt ask.core ∧
    ([Msg.nack 127 5 1 ask].any (Msg.isNack 127 5) = true ∧ [Msg.wake 127 5, .backoff 127 5 1 ask].any (Msg.isNack 127 5) = false) ∧
    ((s 0).wg? ask.wg).map (fun g => (g.findThread 8, g.status, g.deadline, g.findThread ask.thread)) = some (none, .resident, false, some (0, 3)) ∧
    ((s 0).beam? bm).map (fun x => (x.parked.length, (x.frontier.find? fun y => y.kind == .runnable && y.lanes.testBit 3).isSome)) = some (0, true) ∧
    ask.slot ≠ 8 ∧ ask.module = none := by decide

/-- A failed part with no spare left, and one with spares. -/
theorem witness_ResetFindings :
    (let s := tasked (.reset ⟨true, [0]⟩) []
     s.mod.task = some (.reset ⟨true, [0]⟩) ∧ partPlace 0 = some (0, 0, 0) ∧ sparesLeft s.mod.chart 0 0 ≠ 0) ∧
    (let s := (tasked (.reset ⟨true, [0]⟩) []).modMod fun m => { m with chart := (List.range (classSpares 0)).map fun i => (chartKey 0 0 (36 + i), UnitState.inUse) }
     sparesLeft s.mod.chart 0 0 = 0) := by decide

/-- The self-test of a quiesce point finds a part bad, and no channel's threshold can be passed. -/
theorem witness_SelfTestSubstitutes :
    let s := (tasked (.quiesce false 3 [0]) []).modMod fun m => { m with thresholds := m.thresholds.map fun _ => 2 ^ 32 - 1 }
    s.mod.task = some (.quiesce false 3 [0]) ∧ s.mod.candidates = [] ∧ (∀ x ∈ s.mod.thresholds, x = 2 ^ 32 - 1) ∧
    partPlace 0 = some (0, 0, 0) ∧ 0 < sparesLeft s.mod.chart 0 0 := by decide

/-- A pause with clocks left and with none; no fatal cause waits; a section that a quiescing module does not start. -/
theorem witness_Standing :
    ((demoB fun b => { b with paused := some 0 }).beam? bm).map (·.paused) = some (some 0) ∧
    ((demoB fun b => { b with paused := some 1 }).beam? bm).map (·.paused) = some (some 1) ∧
    (demo.beam? bm).map (fun b => (b.fatals.isEmpty, b.inh)) = some (true, false) ∧
    (let s := ({ withCtx State.reset 0 with mod := { (withCtx State.reset 0).mod with status := 3 } } : State).modLantern 127 fun l => { l with queue := [ask] }
     s.mod.status = 3 ∧ (s.lantern 127).queue = [ask] ∧ (s.ctxEntry? ask.ctx).isSome = true) ∧
    (let far := [(6, 0x3FFFFFC4), (7, 0x3FFFFFF0)]
     (∀ x ∈ far, x.2 / 64 = 0x3FFFFFC0 / 64 ∧ (pg x.2).loc % 4 = 0) ∧ (far.map (·.1)).Nodup ∧ maskOf (far.map (·.1)) = 0xC0) := by decide

/-- Encodings of each class, the largest finite one among them, and exact values that are proper. -/
theorem witness_ExactValues :
    (IFmt.fp32.infBits < 2 ^ 32 ∧ IFmt.fp32.infBits - 1 < IFmt.fp32.infBits ∧ 0 < IFmt.fp32.infBits - 1) ∧ (FVal.fin true 1 3).Proper ∧
    (FVal.zero false).Proper ∧ (FVal.fin true 1 3).rat ≠ 0 ∧ (FVal.add .rdn (.fin true 1 3) (.fin false 1 3)).isZero = true ∧
    (IFmt.fp16.decode 0x7E00).isNaN = true ∧ (IFmt.fp16.decode 0x8000).isZero = true := by
  refine ⟨by decide, ⟨by decide, by decide⟩, trivial, by norm_num [FVal.rat], by decide, by decide, by decide⟩
/-! ## Single steps, their results worked out by hand from the rules -/

noncomputable def after (i : Instr) (s : State) (p : State → Bool) : Bool :=
  match exec i s with
  | .next t => p t
  | _ => false

/-- A test of the beam after an instruction. -/
noncomputable def afterB (i : Instr) (s : State) (p : Beam → Bool) : Bool := after i s fun t => ((t.beam? bm).map p).getD false

/-- A lane's data word in a register that has been written at once, or is outstanding. -/
def dat (b : Beam) (l n : Nat) : Word := (b.writes (b.outstanding.map (·.write))).vreg l n |>.data

def vs (l : Nat) (xs : List (BitVec 32)) : List RegWrite := xs.mapIdx fun i x => .v l (i + 1) (CW.make x)

/-- R76, R488: the placed word is fetched, decoded and run, and the path goes on. -/
theorem test_step_runs_placed_word : (match step (State.reset.withFetchWord 32 0x78800000) with
    | .next t => ((t.beam? bm).map fun b => b.frontier.map fun e => (e.pc, e.lanes)) == some [(0x10004, 0xFF)]
    | _ => false) = true := by decide

/-- R181: sums wrap, and carry into the high half of a pair only. -/
theorem test_add : afterB (.add32 m0 3 1 2) (demoW (vs 0 [0xFFFFFFFF, 1])) (fun b => dat b 0 3 == 0 && dat b 1 3 == 0) = true := by decide
theorem test_add64 : afterB (.add64 m0 4 2 6) (demoW [.v 7 2 (CW.make 0xFFFFFFFF), .v 7 6 (CW.make 1)])
    (fun b => dat b 7 4 == 0 && dat b 7 5 == 1) = true := by decide

/-- R181: the quotient of −2^31 and −1 wraps; one by 0 is all ones, and the remainder is the dividend. -/
theorem test_div : afterB (.divS32 m0 3 1 2) (demoW (vs 0 [0x80000000, 0xFFFFFFFF] ++ vs 1 [5, 0]))
    (fun b => dat b 0 3 == 0x80000000 && dat b 1 3 == 0xFFFFFFFF && b.outstanding.length == 8) = true := by decide
theorem test_rem : afterB (.remS32 m0 3 1 2) (demoW (vs 0 [0xFFFFFFF9, 2] ++ vs 1 [5, 0]))
    (fun b => dat b 0 3 == 0xFFFFFFFF && dat b 1 3 == 5) = true := by decide

/-- R182: a count of 32 or more leaves zeros, or copies of the sign. -/
theorem test_shifts : afterB (.shl32 m0 3 1 2) (demoW (vs 0 [1, 32] ++ vs 1 [1, 31])) (fun b => dat b 0 3 == 0 && dat b 1 3 == 0x80000000) = true := by
  decide
theorem test_sar : afterB (.sar32 m0 3 1 2) (demoW (vs 0 [0x80000000, 255] ++ vs 1 [0x80000000, 4]))
    (fun b => dat b 0 3 == 0xFFFFFFFF && dat b 1 3 == 0xF8000000) = true := by decide

/-- R183: signed and unsigned order differ; a masked-off lane's bit stays. -/
theorem test_cmp : (afterB (.cmpLtS32 m0 2 1 2) (demoW (vs 0 [0xFFFFFFFF, 1])) (fun b => (b.kreg 2).v == 1) &&
    afterB (.cmpLtZ32 (px { p0 with k := 1 }) 2 1 2) (demoW (vs 0 [0, 1] ++ vs 7 [0, 1] ++ [.k 1 (mkK 8 1), .k 2 (mkK 8 0x40)]))
      (fun b => (b.kreg 2).v == 0x41)) = true := by decide

/-- R88: Z zeroes the lanes that the mask leaves out. -/
theorem test_zeroing : afterB (.movVv (px { p0 with k := 1, z := true }) 3 1) (demoW ((List.range 8).flatMap (vs · [7]) ++ [.k 1 (mkK 8 0x0F), .v 7 3 (CW.make 9)]))
    (fun b => dat b 3 3 == 7 && dat b 7 3 == 0) = true := by decide

/-- R191: a lane from outside the participants is a zero word. -/
theorem test_vshfl : afterB (.vshfl m0 3 1 2) (demoW ((List.range 8).flatMap fun l => vs l [.ofNat 32 (10 + l), .ofNat 32 (l + 1)]))
    (fun b => dat b 0 3 == 11 && dat b 7 3 == 0) = true := by decide

/-- R40, R205, R207: 1 + 2^-24 is halfway: to even toward nearest, up with RM = up. -/
theorem test_fadd : (afterB (.faddF32 m0 3 1 2) (demoW (vs 0 [0x3F800000, 0x33800000])) (fun b => dat b 0 3 == 0x3F800000) &&
    afterB (.faddF32 (px { p0 with rm := 3 }) 3 1 2) (demoW (vs 0 [0x3F800000, 0x33800000])) (fun b => dat b 0 3 != 0x3F800000)) = true := by decide

/-- R208: one rounding: (1 + 2^-12)^2 − 1 keeps the last term. -/
theorem test_fma : afterB (.fmaF32 (px { p0 with c := 4 }) 3 1 2) (demoW (vs 0 [0x3F800800, 0x3F800800] ++ [.v 0 4 (CW.make 0xBF800000)]))
    (fun b => dat b 0 3 == 0x3A000400) = true := by decide

/-- R301, R307: lanes take their own words; R304: a word that is not aligned traps for the lanes it concerns. -/
theorem test_ld : afterB (.ld m0 3 5 0 2 0) (let s := demoW [.s 5 (mkS 0x20000)]
    { s with mem := s.mem.setWord ((pg 0x20004).loc) (CW.make 77) }) (fun b => dat b 0 3 == 0 && dat b 1 3 == 77) = true := by decide
theorem test_ld_misaligned : afterB (.ld m0 3 5 0 2 0) (demoW [.s 5 (mkS 0x20002)])
    (fun b => b.inh && b.tcause == 0x09 && b.tlanes == 0xFF && b.taddr == 0x20002 && b.tpc == 0x10000 &&
      b.frontier.map (fun e => (e.pc, e.lanes)) == [(0x20000, 0xFF)]) = true := by decide

/-- R306, R310: lanes store in ascending order: the highest wins. -/
theorem test_sts : after (.sts m0 1 5 0 0) (demoW ((List.range 8).flatMap (fun l => vs l [.ofNat 32 (0x40 + l)])))
    (fun t => ((t.wg? wk).map fun g => (g.scratchWord 0).data) == some 0x43424140) = true := by decide

/-- R320: separate read-modify-writes in lane order: each lane gets the sum of those before it. -/
theorem test_atom_add : after (.atomAdd m0 1 1 2 1 5) (demoW ((.s 5 (mkS 0x20000)) :: (List.range 8).flatMap fun l => vs l [1]))
    (fun t => ((t.beam? bm).map fun b => (List.range 8).map fun l => (dat b l 1).toNat) == some (List.range 8) &&
      (t.homeWord (pg 0x20000).loc).data == 8) = true := by decide

/-- R448: taken lanes at the branch's own address plus 4 × 16, the others after it. -/
theorem test_bra : afterB (.bra m0 1 16) (demoW [.k 1 (mkK 8 0x0F)])
    (fun b => (b.frontier.find? fun e => e.pc == 0x10040).map (·.lanes) == some 0x0F &&
      (b.frontier.find? fun e => e.pc == 0x10004).map (·.lanes) == some 0xF0) = true := by decide

/-- R162, R168: a trap, and the return to the instruction after it. -/
theorem test_trap : afterB (.trap m0 9) demo (fun b => b.inh && b.tcause == 0x0914 && b.tpc == 0x10000 && b.held == 0xFF) = true := by decide
theorem test_tret_skip : afterB (.tretSkip m0) (handler 0x0914 0xFF) (fun b => !b.inh && b.frontier.map (fun e => (e.pc, e.lanes)) == [(0x10004, 0xFF)]) = true := by
  decide

/-- R454: all eight threads arrive at once. -/
theorem test_bar : after (.barWg m0) demo (fun t => ((t.wg? wk).map fun g => (g.barArrived, g.barGen)) == some (0, 1)) = true := by decide

/-- R401 to R403: COUNT of the lock's word is 1, and the result carries two words. -/
theorem test_sret : after (.sret m0 0 2) lant (fun t => (t.homeWord (pg 0x40).loc).data == 1 && (t.section? 0).isNone &&
    t.msgs.any fun m => match m with
      | .result r 0 2 ws _ => r == ask && ws.map (·.data) == [7, 0]
      | _ => false) = true := by decide

/-- R412: one word of a copy within the scratchpad. -/
theorem test_copy : after (.copyCommandRun 0 0 1) ((withQ true (.copy 0x100 0 4 1 0 0 true true) 0).modWg wk fun g => { g with scratch := g.scratch.setWord 0 (CW.make 5) })
    (fun t => ((t.wg? wk).map fun g => ((g.drainPool fun _ => true).scratch.word 0x100).data) == some 5 && (t.subQueue true 0 0).isEmpty) = true := by decide

/-- R478, R479, R483: DOMAIN sets the module's number, and the answer echoes the opcode with STATUS OK. -/
theorem test_domain : after (.domain false) (cmd false (0x10 + 2 ^ 64 * 3 + 2 ^ 72 * 8) State.reset)
    (fun t => t.mod.number == 3 && t.mod.domain == 8 && ((t.mod.mailbox false).slot 0).take 4 == [0x10, 0, 0, 0] && (t.mod.mailbox false).head == 1) = true := by
  decide

end Sys2Proof.Tests
end

section
/-!
Sys2Proof/Proofs/CheckCodes: the statement of the chapter "Numbers" about the lane check code (spec R69 to R73). The syndrome of a codeword
under an error is the XOR of the columns of the error's bits, whatever the data; each class of R72 is then a fact about the columns alone.
-/

namespace Sys2Proof.Proofs

open Sys2Proof Sys2Proof.Machine

/-- The columns of a codeword's 40 bits: the data bits', then the code bits' unit vectors (R69, R70). -/
def codewordColumns : List Nat := lccColumns ++ [1, 2, 4, 8, 16, 32, 64, 128]

/-- The syndrome that `lccCheck` looks up (R71). -/
def syndrome (w : CW) : Nat := (lccMake w.data ^^^ w.code).toNat

/-- The codeword of `d` with the bits of `e` wrong: data in bits 31 to 0, code in bits 39 to 32 (R69). -/
def damaged (d : Word) (e : BitVec 40) : CW := ⟨d ^^^ e.setWidth 32, lccMake d ^^^ e.extractLsb' 32 8⟩

/-- The wrong bits of an error, in ascending order. -/
def wrongBits (e : BitVec 40) : List Nat := (List.range 40).filter fun i => e.getLsbD i

/-- The number of 1 bits of a column. -/
def columnWeight (x : Nat) : Nat := ((List.range 8).filter x.testBit).length

/-! ## Parities of filtered lists -/

theorem length_filter_xor_mod_two {α : Type} (p q : α → Bool) (l : List α) :
    (l.filter fun a => p a ^^ q a).length % 2 = ((l.filter p).length + (l.filter q).length) % 2 := by
  induction l with
  | nil => rfl
  | cons a l ih => cases hp : p a <;> cases hq : q a <;> simp [hp, hq] <;> omega

theorem testBit_foldr_xor {α : Type} (f : α → Nat) (k : Nat) (l : List α) :
    ((l.map f).foldr (· ^^^ ·) 0).testBit k = decide ((l.filter fun a => (f a).testBit k).length % 2 = 1) := by
  induction l with
  | nil => simp
  | cons a l ih =>
    cases h : (f a).testBit k
    · simp [h, ih]
    · simp only [List.map_cons, List.foldr_cons, Nat.testBit_xor, h, ih, List.filter_cons_of_pos, List.length_cons, Bool.true_xor,
        ← decide_not, decide_eq_decide]
      omega

theorem columnWeight_xor_mod_two (x y : Nat) : columnWeight (x ^^^ y) % 2 = (columnWeight x + columnWeight y) % 2 := by
  have hbits : (x ^^^ y).testBit = fun i => x.testBit i ^^ y.testBit i := funext (Nat.testBit_xor x y)
  rw [columnWeight, hbits, length_filter_xor_mod_two]
  rfl

/-! ## The fold over the columns -/

/-- R69: the fold is the XOR of the columns of the bits set. -/
theorem lccFold_eq_foldr (hs : List Nat) (d : Nat) :
    lccFold hs d = (((List.range hs.length).filter d.testBit).map fun j => hs.getD j 0).foldr (· ^^^ ·) 0 := by
  induction hs generalizing d with
  | nil => rfl
  | cons h hs ih =>
    have hsucc : d.testBit ∘ Nat.succ = (d / 2).testBit := funext fun j => Nat.testBit_succ d j
    rw [lccFold, ih, List.length_cons, List.range_succ_eq_map, List.filter_cons, List.filter_map, hsucc]
    by_cases h0 : d % 2 = 1 <;> simp [h0, Function.comp_def]

theorem testBit_lccFold (hs : List Nat) (d k : Nat) : (lccFold hs d).testBit k =
    decide (((List.range hs.length).filter fun j => d.testBit j && (hs.getD j 0).testBit k).length % 2 = 1) := by
  rw [lccFold_eq_foldr, testBit_foldr_xor, List.filter_filter]
  simp only [Bool.and_comm]

theorem lccFold_xor (hs : List Nat) (a b : Nat) : lccFold hs (a ^^^ b) = lccFold hs a ^^^ lccFold hs b := by
  refine Nat.eq_of_testBit_eq fun k => ?_
  have hsplit (j : Nat) : ((a ^^^ b).testBit j && (hs.getD j 0).testBit k) =
      ((a.testBit j && (hs.getD j 0).testBit k) ^^ (b.testBit j && (hs.getD j 0).testBit k)) := by
    rw [Nat.testBit_xor, Bool.and_xor_distrib_right]
  rw [Nat.testBit_xor, testBit_lccFold, testBit_lccFold, testBit_lccFold]
  simp only [hsplit, length_filter_xor_mod_two]
  rw [Bool.eq_iff_iff]
  simp only [Bool.xor_iff_ne, ne_eq, decide_eq_decide, decide_eq_true_eq]
  omega

theorem lccFold_append (xs ys : List Nat) (d : Nat) : lccFold (xs ++ ys) d = lccFold xs d ^^^ lccFold ys (d / 2 ^ xs.length) := by
  induction xs generalizing d with
  | nil => simp [lccFold]
  | cons x xs ih =>
    rw [List.cons_append, lccFold, ih, lccFold, Nat.xor_assoc, List.length_cons, Nat.div_div_eq_div_mul, Nat.pow_succ, Nat.mul_comm 2]

theorem lccFold_mod (hs : List Nat) (d : Nat) : lccFold hs (d % 2 ^ hs.length) = lccFold hs d := by
  rw [lccFold_eq_foldr, lccFold_eq_foldr]
  congr 2
  refine List.filter_congr fun j hj => ?_
  simp [Nat.testBit_mod_two_pow, List.mem_range.mp hj]

theorem lccFold_lt {hs : List Nat} {n : Nat} (h : ∀ x ∈ hs, x < 2 ^ n) (d : Nat) : lccFold hs d < 2 ^ n := by
  induction hs generalizing d with
  | nil => exact Nat.two_pow_pos n
  | cons x hs ih =>
    have hx := h x List.mem_cons_self
    refine Nat.xor_lt_two_pow ?_ (ih (fun y hy => h y (List.mem_cons_of_mem x hy)) _)
    split
    · exact hx
    · exact Nat.two_pow_pos n

/-- Over the unit vectors the fold gives the bits back. -/
theorem lccFold_units (n c : Nat) : lccFold ((List.range n).map (2 ^ ·)) c = c % 2 ^ n := by
  induction n with
  | zero => simp [lccFold, Nat.mod_one]
  | succ n ih =>
    have hlast : lccFold [2 ^ n] (c / 2 ^ n) = if c.testBit n then 2 ^ n else 0 := by
      simp [lccFold, Nat.testBit_eq_decide_div_mod_eq]
    refine Nat.eq_of_testBit_eq fun k => ?_
    rw [List.range_succ, List.map_append, lccFold_append, ih, List.length_map, List.length_range, List.map_singleton, hlast,
      Nat.testBit_xor, Nat.testBit_mod_two_pow, Nat.testBit_mod_two_pow]
    by_cases hk : k = n
    · subst hk
      cases hset : c.testBit k <;> simp
    · have hother : (if c.testBit n then 2 ^ n else 0).testBit k = false := by
        split <;> simp [Ne.symm hk]
      have hlt : k < n ↔ k < n + 1 := by omega
      rw [hother, Bool.xor_false, decide_eq_decide.mpr hlt]

/-! ## The code and the syndrome -/

theorem toNat_lccMake (d : Word) : (lccMake d).toNat = lccFold lccColumns d.toNat := by
  rw [lccMake, BitVec.toNat_ofNat, Nat.mod_eq_of_lt (lccFold_lt (by decide) _)]

/-- R69: a code bit is the parity of the data bits whose column has it. -/
theorem getLsbD_lccMake (d : Word) (k : Nat) : (lccMake d).getLsbD k =
    decide (((List.range 32).filter fun j => d.getLsbD j && (lccColumns.getD j 0).testBit k).length % 2 = 1) := by
  rw [BitVec.getLsbD, toNat_lccMake, testBit_lccFold]
  rfl

theorem lccMake_xor (a b : Word) : lccMake (a ^^^ b) = lccMake a ^^^ lccMake b := by
  apply BitVec.eq_of_toNat_eq
  rw [BitVec.toNat_xor, toNat_lccMake, toNat_lccMake, toNat_lccMake, BitVec.toNat_xor, lccFold_xor]

/-- The data cancels: the syndrome depends on the error alone. -/
theorem syndrome_damaged (d : Word) (e : BitVec 40) : syndrome (damaged d e) = lccFold codewordColumns e.toNat := by
  have hcancel : lccMake (d ^^^ e.setWidth 32) ^^^ (lccMake d ^^^ e.extractLsb' 32 8) = lccMake (e.setWidth 32) ^^^ e.extractLsb' 32 8 := by
    rw [lccMake_xor, BitVec.xor_comm (lccMake d), BitVec.xor_assoc, ← BitVec.xor_assoc (lccMake d), BitVec.xor_self, BitVec.zero_xor]
  have hdata : (lccMake (e.setWidth 32)).toNat = lccFold lccColumns e.toNat := by
    rw [toNat_lccMake, BitVec.toNat_setWidth, ← lccFold_mod lccColumns e.toNat]
    rfl
  have hcode : (e.extractLsb' 32 8).toNat = lccFold [1, 2, 4, 8, 16, 32, 64, 128] (e.toNat / 2 ^ 32) := by
    rw [BitVec.extractLsb'_toNat, Nat.shiftRight_eq_div_pow, ← lccFold_units 8]
    rfl
  rw [syndrome, damaged, hcancel, BitVec.toNat_xor, hdata, hcode, codewordColumns, lccFold_append]
  rfl

/-- The syndrome is the XOR of the wrong bits' columns. -/
theorem syndrome_damaged_eq_foldr (d : Word) (e : BitVec 40) :
    syndrome (damaged d e) = ((wrongBits e).map fun i => codewordColumns.getD i 0).foldr (· ^^^ ·) 0 := by
  rw [syndrome_damaged, lccFold_eq_foldr]
  rfl

theorem mem_wrongBits {e : BitVec 40} {i : Nat} : i ∈ wrongBits e ↔ e.getLsbD i = true := by
  rw [wrongBits, List.mem_filter, List.mem_range, and_iff_right_iff_imp]
  exact BitVec.lt_of_getLsbD

theorem lt_of_mem_wrongBits {e : BitVec 40} {i : Nat} (h : i ∈ wrongBits e) : i < 40 :=
  BitVec.lt_of_getLsbD (mem_wrongBits.mp h)

theorem wrongBits_nodup (e : BitVec 40) : (wrongBits e).Nodup := List.nodup_range.filter _

/-! ## What a check answers for each syndrome -/

theorem lccCheck_of_syndrome_zero {w : CW} (h : syndrome w = 0) : lccCheck w = .ok w.data := by
  have h' : (lccMake w.data ^^^ w.code).toNat = 0 := h
  simp [lccCheck, h']

theorem lccCheck_of_syndrome_data {w : CW} {j : Nat} (hj : j < 32) (h : syndrome w = lccColumns.getD j 0) :
    lccCheck w = .corrected (w.data ^^^ 1#32 <<< j) := by
  have h' : (lccMake w.data ^^^ w.code).toNat = lccColumns.getD j 0 := h
  have hfind : ∀ j < 32, lccColumns.getD j 0 ≠ 0 ∧ lccColumns.findIdx? (· == lccColumns.getD j 0) = some j := by decide
  obtain ⟨hne, hfound⟩ := hfind j hj
  simp only [lccCheck, h', hfound, if_neg hne]

theorem lccCheck_of_syndrome_unit {w : CW} {k : Nat} (hk : k < 8) (h : syndrome w = 2 ^ k) : lccCheck w = .corrected w.data := by
  have h' : (lccMake w.data ^^^ w.code).toNat = 2 ^ k := h
  have hfind : ∀ k < 8, lccColumns.findIdx? (· == 2 ^ k) = none ∧ [1, 2, 4, 8, 16, 32, 64, 128].contains (2 ^ k) = true := by decide
  obtain ⟨hnone, hunit⟩ := hfind k hk
  simp only [lccCheck, h', hnone, hunit, if_neg (Nat.two_pow_pos k).ne', if_true]

theorem lccCheck_of_syndrome_foreign {w : CW} (h0 : syndrome w ≠ 0) (h : syndrome w ∉ codewordColumns) : lccCheck w = .uncorrectable := by
  obtain ⟨hdata, hcode⟩ := not_or.mp (mt List.mem_append.mpr h)
  have hnone : lccColumns.findIdx? (· == syndrome w) = none := by
    rw [List.findIdx?_eq_none_iff]
    exact fun x hx => beq_false_of_ne (ne_of_mem_of_not_mem hx hdata)
  have hunit : [1, 2, 4, 8, 16, 32, 64, 128].contains (syndrome w) = false := by
    rw [List.contains_eq_mem, decide_eq_false hcode]
  rw [syndrome] at h0 hnone hunit
  simp only [lccCheck, hnone, hunit, if_neg h0, Bool.false_eq_true, if_false]

/-! ## The form of the columns (R70) -/

theorem codewordColumns_nodup : codewordColumns.Nodup := by decide

theorem columnWeight_odd : ∀ x ∈ codewordColumns, columnWeight x % 2 = 1 := by decide

theorem lowNibble_columns : ∀ j < 16, lccColumns.getD j 0 % 16 = 2 ^ (j % 4) ∧ lccColumns.getD j 0 / 16 ≠ 0 ∧
    columnWeight (lccColumns.getD j 0 / 16) % 2 = 0 := by decide

theorem highNibble_columns : ∀ j < 32, 16 ≤ j → lccColumns.getD j 0 / 16 = 2 ^ (j % 4) ∧ lccColumns.getD j 0 % 16 ≠ 0 ∧
    columnWeight (lccColumns.getD j 0 % 16) % 2 = 0 := by decide

/-- Two columns sum to a value of even weight that is not zero, so to no column. -/
theorem xor_columns_foreign {x y : Nat} (hx : x ∈ codewordColumns) (hy : y ∈ codewordColumns) (hne : x ≠ y) :
    x ^^^ y ≠ 0 ∧ x ^^^ y ∉ codewordColumns := by
  refine ⟨mt Nat.xor_eq_zero_iff.mp hne, fun hmem => ?_⟩
  have hsum := columnWeight_xor_mod_two x y
  have hodd := columnWeight_odd _ hmem
  have hxodd := columnWeight_odd x hx
  have hyodd := columnWeight_odd y hy
  omega

/-- No two or more columns of one nibble sum to zero or to a column; `m` holds the nibble's wrong bits. -/
theorem nibble_columns_foreign : ∀ n < 10, ∀ m < 16, 2 ≤ (wrongBits (.ofNat 40 (m * 2 ^ (4 * n)))).length →
    lccFold codewordColumns (BitVec.ofNat 40 (m * 2 ^ (4 * n))).toNat ≠ 0 ∧
    lccFold codewordColumns (BitVec.ofNat 40 (m * 2 ^ (4 * n))).toNat ∉ codewordColumns := by decide

/-! ## The classes of errors (R72) -/

/-- R71, no wrong bit: the word's own data, accepted. -/
theorem lccCheck_of_no_error (d : Word) {e : BitVec 40} (h : wrongBits e = []) : lccCheck (damaged d e) = .ok d := by
  have hdata : e.setWidth 32 = 0#32 := by
    refine BitVec.eq_of_getLsbD_eq fun k hk => ?_
    have hk' : e.getLsbD k = false := by simpa [h] using mem_wrongBits (e := e) (i := k)
    simp [hk']
  rw [lccCheck_of_syndrome_zero (by rw [syndrome_damaged_eq_foldr, h]; rfl), damaged, hdata]
  simp

/-- The wrong data bits where one bit is wrong: none where that is a code bit. -/
theorem setWidth_of_single_error {e : BitVec 40} {i : Nat} (h : wrongBits e = [i]) : e.setWidth 32 = 1#32 <<< i := by
  refine BitVec.eq_of_getLsbD_eq fun k hk => ?_
  have hbit : k = i ↔ e.getLsbD k = true := by simpa [h] using mem_wrongBits (e := e) (i := k)
  have hshift : (1#32 <<< i).getLsbD k = true ↔ k = i := by
    simp [hk]
    omega
  rw [Bool.eq_iff_iff, hshift, hbit, BitVec.getLsbD_setWidth, decide_eq_true hk, Bool.true_and]

/-- R72: a wrong data bit is flipped back, and a wrong code bit leaves the data as it is. -/
theorem lccCheck_of_single_error (d : Word) {e : BitVec 40} {i : Nat} (h : wrongBits e = [i]) :
    lccCheck (damaged d e) = .corrected d := by
  have hi : i < 40 := lt_of_mem_wrongBits (h ▸ List.mem_singleton_self i)
  have hsyn : syndrome (damaged d e) = codewordColumns.getD i 0 := by
    rw [syndrome_damaged_eq_foldr, h]
    exact Nat.xor_zero _
  by_cases hdata : i < 32
  · have hcol : codewordColumns.getD i 0 = lccColumns.getD i 0 := List.getD_append _ _ _ _ hdata
    rw [lccCheck_of_syndrome_data hdata (hsyn.trans hcol), damaged, setWidth_of_single_error h, BitVec.xor_assoc, BitVec.xor_self,
      BitVec.xor_zero]
  · have hcol : ∀ k < 8, codewordColumns.getD (32 + k) 0 = 2 ^ k := by decide
    obtain ⟨k, rfl⟩ := Nat.exists_eq_add_of_le (not_lt.mp hdata)
    have hk : k < 8 := by omega
    have hnone : 1#32 <<< (32 + k) = 0#32 := BitVec.shiftLeft_eq_zero (by omega)
    rw [lccCheck_of_syndrome_unit hk (hsyn.trans (hcol k hk)), damaged, setWidth_of_single_error h, hnone, BitVec.xor_zero]

/-- R72: the two columns sum to an even weight. -/
theorem lccCheck_of_double_error (d : Word) {e : BitVec 40} {i j : Nat} (h : wrongBits e = [i, j]) :
    lccCheck (damaged d e) = .uncorrectable := by
  have hi : i < codewordColumns.length := lt_of_mem_wrongBits (e := e) (by simp [h])
  have hj : j < codewordColumns.length := lt_of_mem_wrongBits (e := e) (by simp [h])
  have hij : i ≠ j := by simpa [h] using wrongBits_nodup e
  have hsyn : syndrome (damaged d e) = codewordColumns[i] ^^^ codewordColumns[j] := by
    rw [syndrome_damaged_eq_foldr, h]
    simp [hi, hj]
  obtain ⟨hne, hforeign⟩ := xor_columns_foreign (List.getElem_mem hi) (List.getElem_mem hj)
    (mt (codewordColumns_nodup.getElem_inj_iff).mp hij)
  exact lccCheck_of_syndrome_foreign (hsyn ▸ hne) (hsyn ▸ hforeign)

theorem exists_nibble_of_wrongBits {e : BitVec 40} {n : Nat} (hin : ∀ i, e.getLsbD i = true → i / 4 = n) :
    ∃ m < 16, e = .ofNat 40 (m * 2 ^ (4 * n)) := by
  refine ⟨e.toNat / 2 ^ (4 * n) % 2 ^ 4, Nat.mod_lt _ (by decide), BitVec.eq_of_getLsbD_eq fun i hi => ?_⟩
  rw [BitVec.getLsbD_ofNat, Nat.testBit_mul_two_pow, Nat.testBit_mod_two_pow, Nat.testBit_div_two_pow]
  cases hbit : e.getLsbD i with
  | true =>
    have hnibble := hin i hbit
    have hlow : 4 * n ≤ i := by omega
    have hhigh : i - 4 * n < 4 := by omega
    have hsame : e.toNat.testBit i = true := hbit
    simp [hi, hlow, hhigh, hsame]
  | false =>
    have hsame : e.toNat.testBit i = false := hbit
    by_cases hlow : 4 * n ≤ i <;> simp [hlow, hsame]

/-- R72: two or more wrong bits of one nibble. -/
theorem lccCheck_of_nibble_error (d : Word) {e : BitVec 40} {n : Nat} (hn : n < 10) (hin : ∀ i, e.getLsbD i = true → i / 4 = n)
    (hw : 2 ≤ (wrongBits e).length) : lccCheck (damaged d e) = .uncorrectable := by
  obtain ⟨m, hm, rfl⟩ := exists_nibble_of_wrongBits hin
  obtain ⟨hne, hforeign⟩ := nibble_columns_foreign n hn m hm hw
  rw [← syndrome_damaged d] at hne hforeign
  exact lccCheck_of_syndrome_foreign hne hforeign

/-- Settles O55: the form of the columns, each class of errors over the columns of its wrong bits, and the spec's example. -/
theorem checkCodes : Obligations.CheckCodes := by
  refine ⟨fun d k _ => getLsbD_lccMake d k, codewordColumns_nodup, columnWeight_odd, lowNibble_columns,
    fun j hlow hj => highNibble_columns j hj hlow, fun d e => ⟨fun h => ?_, fun h => ?_, fun h => ?_, fun n hn hin hw => ?_⟩,
    by decide, by decide, by decide, by decide, by decide, by decide, by decide⟩
  · exact lccCheck_of_no_error d (List.length_eq_zero_iff.mp h)
  · obtain ⟨i, hi⟩ := List.length_eq_one_iff.mp h
    exact lccCheck_of_single_error d hi
  · obtain ⟨i, j, hij⟩ := List.length_eq_two.mp h
    exact lccCheck_of_double_error d hij
  · exact lccCheck_of_nibble_error d hn hin hw

end Sys2Proof.Proofs
end

section
/-!
Sys2Proof/Proofs/IntegerResults: the statement about the integer groups (spec R176 to R182).
The functions of `IntMath` are the table's, at every width; the counts and the field functions are read bit by bit; each instruction then has
the form of its group, on a function that is the table's.
-/

namespace Sys2Proof.Proofs

open Sys2Proof Sys2Proof.Machine

/-! ## Arithmetic and shifts as R181's table writes them -/

section Values

variable {w : Nat}

/-- Where a tie makes no difference, a choice by `<` is the choice by `≤`. -/
theorem ite_lt_eq_ite_le {α β : Type} [LinearOrder α] {x y : α} {u v : β} (htie : x = y → u = v) :
    (if x < y then u else v) = if x ≤ y then u else v := by
  rcases lt_trichotomy x y with h | h | h
  · rw [if_pos h, if_pos h.le]
  · rw [htie h, ite_self, ite_self]
  · rw [if_neg h.not_gt, if_neg h.not_ge]

theorem iMinS_eq : @iMinS w = fun a b => if a.toInt ≤ b.toInt then a else b := by
  funext a b
  simp only [iMinS, BitVec.slt_iff_toInt_lt, ite_lt_eq_ite_le BitVec.eq_of_toInt_eq]

theorem iMinZ_eq : @iMinZ w = fun a b => if a.toNat ≤ b.toNat then a else b := by
  funext a b
  simp only [iMinZ, BitVec.ult_iff_toNat_lt, ite_lt_eq_ite_le BitVec.eq_of_toNat_eq]

theorem iMaxS_eq : @iMaxS w = fun a b => if a.toInt ≤ b.toInt then b else a := by
  funext a b
  simp only [iMaxS, BitVec.slt_iff_toInt_lt, ite_lt_eq_ite_le fun h => (BitVec.eq_of_toInt_eq h).symm]

theorem iMaxZ_eq : @iMaxZ w = fun a b => if a.toNat ≤ b.toNat then b else a := by
  funext a b
  simp only [iMaxZ, BitVec.ult_iff_toNat_lt, ite_lt_eq_ite_le fun h => (BitVec.eq_of_toNat_eq h).symm]

theorem iAbs_eq : @iAbs w = fun a => .ofNat w a.toInt.natAbs := by
  funext a
  rw [← BitVec.ofInt_natCast, iAbs, BitVec.msb_eq_toInt]
  by_cases h : a.toInt < 0
  · rw [Int.ofNat_natAbs_of_nonpos h.le, BitVec.ofInt_neg, BitVec.ofInt_toInt]
    simp [h]
  · rw [Int.natAbs_of_nonneg (not_lt.mp h), BitVec.ofInt_toInt]
    simp [h]

theorem neg_eq_zero_sub : (fun a : BitVec w => -a) = fun a => 0 - a :=
  funext fun a => (BitVec.zero_sub a).symm

theorem iDivS_eq : @iDivS w = divSigned := by
  funext a b
  rw [iDivS, divSigned, ← BitVec.neg_one_eq_allOnes]
  rfl

theorem iDivZ_eq : @iDivZ w = fun a b => if b = 0 then .allOnes w else .ofNat w (a.toNat / b.toNat) := by
  funext a b
  rw [iDivZ, ← BitVec.neg_one_eq_allOnes, ← BitVec.toNat_udiv, BitVec.ofNat_toNat, BitVec.setWidth_eq]
  rfl

theorem iRemS_eq : @iRemS w = fun a b => if b = 0 then a else a - b * divSigned a b := by
  funext a b
  by_cases h : b = 0
  · simp [iRemS, h]
  · rw [iRemS, if_neg h, if_neg h, divSigned, if_neg h, Int.tmod_def, sub_eq_add_neg, BitVec.ofInt_add,
      BitVec.ofInt_neg, BitVec.ofInt_mul, BitVec.ofInt_toInt, BitVec.ofInt_toInt, BitVec.sub_eq_add_neg]

theorem iRemZ_eq : @iRemZ w = fun a b => if b = 0 then a else .ofNat w (a.toNat % b.toNat) := by
  funext a b
  rw [iRemZ, ← BitVec.toNat_umod, BitVec.ofNat_toNat, BitVec.setWidth_eq]

theorem iShl_eq : @iShl w = fun a b => .ofNat w (a.toNat * 2 ^ (b.toNat % 256)) := by
  funext a b
  exact BitVec.eq_of_toNat_eq (by simp [iShl, shiftCount, Nat.shiftLeft_eq])

theorem iShr_eq : @iShr w = fun a b => .ofNat w (a.toNat / 2 ^ (b.toNat % 256)) := by
  funext a b
  rw [← Nat.shiftRight_eq_div_pow, ← BitVec.toNat_ushiftRight, BitVec.ofNat_toNat, BitVec.setWidth_eq]
  rfl

theorem iSar_eq : @iSar w = fun a b => .ofInt w (a.toInt / 2 ^ (b.toNat % 256)) := by
  funext a b
  rw [iSar, BitVec.sshiftRight, Int.shiftRight_eq_div_pow]
  rfl

theorem iRotl_eq : @iRotl w = fun a b => a.rotateLeft (b.toNat % 256 % w) :=
  funext₂ fun _ _ => BitVec.rotateLeft_mod_eq_rotateLeft.symm

/-! ## Counts (R181) -/

theorem popCount_eq_length_filter (n x : Nat) : popCount n x = ((List.range n).filter x.testBit).length := by
  induction n generalizing x with
  | zero => rfl
  | succ n ih =>
    have hsucc : x.testBit ∘ Nat.succ = (x / 2).testBit := funext fun j => Nat.testBit_succ x j
    rw [popCount, ih, List.range_succ_eq_map, List.filter_cons, List.filter_map, hsucc, Nat.testBit_zero]
    by_cases h : x % 2 = 1 <;> simp [h] <;> omega

theorem trailingZeros_le (n x : Nat) : trailingZeros n x ≤ n := by
  induction n generalizing x with
  | zero => exact le_rfl
  | succ n ih =>
    have hhalf := ih (x / 2)
    rw [trailingZeros]
    split <;> omega

theorem trailingZeros_zero (n : Nat) : trailingZeros n 0 = n := by
  induction n with
  | zero => rfl
  | succ n ih => simp [trailingZeros, ih, Nat.add_comm]

theorem testBit_of_lt_trailingZeros {n x j : Nat} (h : j < trailingZeros n x) : x.testBit j = false := by
  induction n generalizing x j with
  | zero => exact absurd h (Nat.not_lt_zero j)
  | succ n ih =>
    by_cases hodd : x % 2 = 1
    · simp [trailingZeros, hodd] at h
    · rw [trailingZeros, if_neg hodd] at h
      cases j with
      | zero => simpa [Nat.testBit_zero] using hodd
      | succ j => rw [Nat.testBit_succ]; exact ih (by omega)

theorem testBit_trailingZeros {n x : Nat} (h0 : x ≠ 0) (h : x < 2 ^ n) : x.testBit (trailingZeros n x) = true := by
  induction n generalizing x with
  | zero => omega
  | succ n ih =>
    by_cases hodd : x % 2 = 1
    · simp [trailingZeros, hodd]
    · rw [trailingZeros, if_neg hodd, Nat.add_comm, Nat.testBit_succ]
      exact ih (by omega) (by omega)

theorem toNat_iPopc (a : BitVec w) : (iPopc a).toNat = ((List.range w).filter fun i => a.getLsbD i).length := by
  have hle : popCount w a.toNat ≤ w := by
    rw [popCount_eq_length_filter]
    exact (List.length_filter_le ..).trans List.length_range.le
  rw [iPopc, BitVec.toNat_ofNat, Nat.mod_eq_of_lt (hle.trans_lt Nat.lt_two_pow_self), popCount_eq_length_filter]
  rfl

theorem toNat_iCtz (a : BitVec w) : (iCtz a).toNat = trailingZeros w a.toNat := by
  rw [iCtz, BitVec.toNat_ofNat, Nat.mod_eq_of_lt ((trailingZeros_le ..).trans_lt Nat.lt_two_pow_self)]

theorem toNat_iClz (a : BitVec w) : (iClz a).toNat = if a = 0 then w else w - 1 - a.toNat.log2 := by
  have hle : (if a = 0 then w else w - 1 - a.toNat.log2) ≤ w := by split <;> omega
  rw [iClz, BitVec.toNat_ofNat, Nat.mod_eq_of_lt (hle.trans_lt Nat.lt_two_pow_self)]

theorem counts_of_zero : (iClz (0 : BitVec w)).toNat = w ∧ (iCtz (0 : BitVec w)).toNat = w :=
  ⟨by rw [toNat_iClz, if_pos rfl], by rw [toNat_iCtz]; exact trailingZeros_zero w⟩

/-- A word that is not 0 has a 1 to find. -/
theorem toNat_ne_zero {a : BitVec w} (h : a ≠ 0) : a.toNat ≠ 0 := BitVec.toNat_ne_iff_ne.mpr h

/-- The bit that `clz` finds is the highest 1. -/
theorem highest_iClz {a : BitVec w} (h : a ≠ 0) : w - 1 - (iClz a).toNat = a.toNat.log2 := by
  have hlt : a.toNat.log2 < w := (Nat.log2_lt (toNat_ne_zero h)).mpr a.isLt
  rw [toNat_iClz, if_neg h]
  omega

theorem getLsbD_log2 {a : BitVec w} (h : a ≠ 0) : a.getLsbD a.toNat.log2 = true :=
  Nat.testBit_log2 (toNat_ne_zero h)

theorem getLsbD_of_log2_lt {a : BitVec w} {j : Nat} (h : a.toNat.log2 < j) : a.getLsbD j = false :=
  Nat.testBit_lt_two_pow (Nat.lt_log2_self.trans_le (Nat.pow_le_pow_right Nat.two_pos h))

/-! ## Bit fields (R182) -/

theorem iBfxZ_eq_extract (a b : BitVec w) : iBfxZ a b = (a.extractLsb' (fieldPos b) (fieldLen b)).setWidth w :=
  BitVec.eq_of_toNat_eq (by simp [iBfxZ, BitVec.extractLsb'_toNat, Nat.shiftRight_eq_div_pow])

theorem iBfxS_eq_extract (a b : BitVec w) : iBfxS a b = (a.extractLsb' (fieldPos b) (fieldLen b)).signExtend w := by
  rw [iBfxS, BitVec.signExtend, BitVec.toInt_eq_toNat_cond, BitVec.extractLsb'_toNat, Nat.shiftRight_eq_div_pow]
  cases fieldLen b with
  | zero => simp [Nat.mod_one]
  | succ n =>
    have hsign (x : Nat) : 2 ^ n ≤ x ↔ ¬ 2 * x < 2 ^ (n + 1) := by omega
    simp only [Nat.add_sub_cancel, ne_eq, Nat.succ_ne_zero, not_false_eq_true, true_and, hsign, ite_not]
    norm_cast

theorem getLsbD_iBfxZ (a b : BitVec w) {i : Nat} (hi : i < w) :
    (iBfxZ a b).getLsbD i = (decide (i < fieldLen b) && a.getLsbD (fieldPos b + i)) := by
  rw [iBfxZ_eq_extract, BitVec.getLsbD_setWidth, BitVec.getLsbD_extractLsb', decide_eq_true hi, Bool.true_and]

theorem getLsbD_iBfxS (a b : BitVec w) {i : Nat} (hi : i < w) :
    (iBfxS a b).getLsbD i = (decide (0 < fieldLen b) && a.getLsbD (fieldPos b + min i (fieldLen b - 1))) := by
  rw [iBfxS_eq_extract, BitVec.getLsbD_signExtend, decide_eq_true hi, Bool.true_and, BitVec.msb_eq_getLsbD_last,
    BitVec.getLsbD_extractLsb', BitVec.getLsbD_extractLsb']
  split
  · next h => simp [h, Nat.zero_lt_of_lt h, Nat.le_sub_one_of_lt h]
  · next h => simp [show fieldLen b - 1 ≤ i by omega, show fieldLen b - 1 < fieldLen b ↔ 0 < fieldLen b by omega]

theorem getLsbD_fieldMask (n p i : Nat) :
    (BitVec.ofNat w ((2 ^ n - 1) * 2 ^ p)).getLsbD i = (decide (i < w) && decide (p ≤ i ∧ i < p + n)) := by
  have hfield : (p ≤ i ∧ i - p < n) ↔ (p ≤ i ∧ i < p + n) := by omega
  rw [BitVec.getLsbD_ofNat, Nat.testBit_mul_two_pow, Nat.testBit_two_pow_sub_one, ← Bool.decide_and, decide_eq_decide.mpr hfield]

theorem getLsbD_iBfi (a b c : BitVec w) {i : Nat} (hi : i < w) : (iBfi a b c).getLsbD i =
    if fieldPos b ≤ i ∧ i < fieldPos b + fieldLen b then a.getLsbD (i - fieldPos b) else c.getLsbD i := by
  simp only [iBfi, BitVec.getLsbD_or, BitVec.getLsbD_and, BitVec.getLsbD_not, BitVec.getLsbD_shiftLeft, getLsbD_fieldMask,
    decide_eq_true hi, Bool.true_and]
  by_cases h : fieldPos b ≤ i ∧ i < fieldPos b + fieldLen b <;> simp [h]

theorem getLsbD_iBrev (a : BitVec w) {i : Nat} (hi : i < w) : (iBrev a).getLsbD i = a.getLsbD (w - 1 - i) := by
  rw [iBrev, BitVec.getLsbD_reverse, BitVec.getMsbD_eq_getLsbD, decide_eq_true hi, Bool.true_and]

end Values

/-! ## The operand forms -/

/-- The two V forms at once: lanes of `w` bits, in the registers `w` bits take. -/
def laneOf (w : Nat) (m : Mods) (late : Bool) (d : BitVec 7) (src : Frame → List Nat) (g : List (BitVec w) → BitVec w) (s : State) :
    Host.Outcome State Fault Refusal :=
  coded m true (fun f s => s.laneOp f [] ((src f).map fun n => .v n (w / 32)) (.v d.toNat (w / 32)) late fun l _ vs =>
    .ok (f.put l (.v d.toNat (w / 32)) (g (vs.map (.ofNat w))).toNat)) s

theorem lane32_eq_laneOf : lane32 = laneOf 32 := rfl
theorem lane64_eq_laneOf : lane64 = laneOf 64 := rfl

/-- A source's number as a word; one that is not there counts as 0. -/
theorem arg_map_ofNat {w : Nat} (v : List Nat) (n : Nat) :
    arg (v.map (BitVec.ofNat w)) n = BitVec.ofNat w (v.getD n 0) := by
  cases h : v[n]? <;> simp [arg, h]

theorem laneForm_laneOf {w : Nat} {i : Instr} {m : Mods} {late : Bool} {d : BitVec 7} {src : Frame → List Nat}
    {g : List (BitVec w) → BitVec w} {val : State → Frame → Nat → List Nat → Nat} (he : ∀ s, exec i s = laneOf w m late d src g s)
    (hval : ∀ s f l v, val s f l v = (g (v.map (.ofNat w))).toNat) :
    LaneForm i m (fun f => (src f).map fun n => .v n (w / 32)) (.v d.toNat (w / 32)) late val :=
  laneForm_laneOp he fun s f l v => by rw [hval, LaneDone.ok]

section Forms

variable {w : Nat} {late : Bool} {mk : Mods → BitVec 7 → BitVec 7 → BitVec 7 → Instr} {mk1 : Mods → BitVec 7 → BitVec 7 → Instr}

theorem intLane2_of_eq {h g : BitVec w → BitVec w → BitVec w} (hg : h = g)
    (he : ∀ m d a b s, exec (mk m d a b) s =
      laneOf w m late d (fun _ => [a.toNat, b.toNat]) (fun v => h (arg v 0) (arg v 1)) s := by intros; rfl) :
    IntLane2 w late mk g := fun m d a b =>
  laneForm_laneOf (he m d a b) fun _ _ _ _ => by simp only [int2, arg_map_ofNat, hg]

theorem intLane1_of_eq {h g : BitVec w → BitVec w} (hg : h = g)
    (he : ∀ m d a s, exec (mk1 m d a) s = laneOf w m false d (fun _ => [a.toNat]) (fun v => h (arg v 0)) s := by intros; rfl) :
    IntLane1 w mk1 g := fun m d a =>
  laneForm_laneOf (he m d a) fun _ _ _ _ => by simp only [int1, arg_map_ofNat, hg]

theorem intLane3_of_eq {h g : BitVec w → BitVec w → BitVec w → BitVec w} (hg : h = g)
    (he : ∀ m d a b s, exec (mk m d a b) s =
      laneOf w m false d (fun f => [a.toNat, b.toNat, f.c d.toNat]) (fun v => h (arg v 0) (arg v 1) (arg v 2)) s := by intros; rfl) :
    IntLane3 w mk g := fun m d a b =>
  laneForm_laneOf (he m d a b) fun _ _ _ _ => by simp only [int3, arg_map_ofNat, hg]

theorem intScalar2_of_eq {h g : BitVec 64 → BitVec 64 → BitVec 64} (hg : h = g)
    (he : ∀ m d a b s, exec (mk m d a b) s = scalar_2 m late d a b h s := by intros; rfl) : IntScalar2 late mk g := fun m d a b => by
  simpa only [arg_map_ofNat, hg, sext72, List.map_cons, List.map_nil] using scalarForm_scalarOp (he m d a b)

theorem intScalar1_of_eq {h g : BitVec 64 → BitVec 64} (hg : h = g)
    (he : ∀ m d a s, exec (mk1 m d a) s = scalar_1 m d a h s := by intros; rfl) : IntScalar1 mk1 g := fun m d a => by
  simpa only [arg_map_ofNat, hg, sext72, List.map_cons, List.map_nil] using scalarForm_scalarOp (he m d a)

theorem intScalar3_of_eq {h g : BitVec 64 → BitVec 64 → BitVec 64 → BitVec 64} (hg : h = g)
    (he : ∀ m d a b s, exec (mk m d a b) s = scalar_3 m d a b h s := by intros; rfl) : IntScalar3 mk g := fun m d a b => by
  simpa only [arg_map_ofNat, hg, sext72, List.map_cons, List.map_nil] using scalarForm_scalarOp (he m d a b)

end Forms

/-- Settles O1: each instruction has the form of its group (R176 to R178), and what it computes is the table's function: the model's own
where `rfl` stands. The rows follow the statement's order. -/
theorem integerResults : Obligations.IntegerResults := by
  refine ⟨⟨intLane2_of_eq rfl, intLane2_of_eq rfl, intLane2_of_eq rfl, intLane2_of_eq rfl, intLane2_of_eq rfl,
      intLane2_of_eq iMinS_eq, intLane2_of_eq iMinZ_eq, intLane2_of_eq iMaxS_eq, intLane2_of_eq iMaxZ_eq,
      intLane2_of_eq iDivS_eq, intLane2_of_eq iDivZ_eq, intLane2_of_eq iRemS_eq, intLane2_of_eq iRemZ_eq,
      intLane2_of_eq rfl, intLane2_of_eq rfl, intLane2_of_eq rfl,
      intLane2_of_eq iShl_eq, intLane2_of_eq iShr_eq, intLane2_of_eq iSar_eq, intLane2_of_eq iRotl_eq,
      intLane2_of_eq rfl, intLane2_of_eq rfl,
      intLane1_of_eq iAbs_eq, intLane1_of_eq neg_eq_zero_sub, intLane1_of_eq rfl,
      intLane1_of_eq rfl, intLane1_of_eq rfl, intLane1_of_eq rfl, intLane1_of_eq rfl,
      intLane3_of_eq rfl, intLane3_of_eq rfl⟩,
    ⟨intLane2_of_eq rfl, intLane2_of_eq rfl, intLane2_of_eq rfl, intLane2_of_eq rfl, intLane2_of_eq rfl,
      intLane2_of_eq iMinS_eq, intLane2_of_eq iMinZ_eq, intLane2_of_eq iMaxS_eq, intLane2_of_eq iMaxZ_eq,
      intLane2_of_eq iDivS_eq, intLane2_of_eq iDivZ_eq, intLane2_of_eq iRemS_eq, intLane2_of_eq iRemZ_eq,
      intLane2_of_eq rfl, intLane2_of_eq rfl, intLane2_of_eq rfl,
      intLane2_of_eq iShl_eq, intLane2_of_eq iShr_eq, intLane2_of_eq iSar_eq, intLane2_of_eq iRotl_eq,
      intLane2_of_eq rfl, intLane2_of_eq rfl,
      intLane1_of_eq iAbs_eq, intLane1_of_eq neg_eq_zero_sub, intLane1_of_eq rfl,
      intLane1_of_eq rfl, intLane1_of_eq rfl, intLane1_of_eq rfl, intLane1_of_eq rfl,
      intLane3_of_eq rfl, intLane3_of_eq rfl⟩,
    ⟨intScalar2_of_eq rfl, intScalar2_of_eq rfl, intScalar2_of_eq rfl, intScalar2_of_eq rfl, intScalar2_of_eq rfl,
      intScalar2_of_eq iMinS_eq, intScalar2_of_eq iMinZ_eq, intScalar2_of_eq iMaxS_eq, intScalar2_of_eq iMaxZ_eq,
      intScalar2_of_eq iDivS_eq, intScalar2_of_eq iDivZ_eq, intScalar2_of_eq iRemS_eq, intScalar2_of_eq iRemZ_eq,
      intScalar2_of_eq rfl, intScalar2_of_eq rfl, intScalar2_of_eq rfl,
      intScalar2_of_eq iShl_eq, intScalar2_of_eq iShr_eq, intScalar2_of_eq iSar_eq, intScalar2_of_eq iRotl_eq,
      intScalar2_of_eq rfl, intScalar2_of_eq rfl,
      intScalar1_of_eq iAbs_eq, intScalar1_of_eq neg_eq_zero_sub, intScalar1_of_eq rfl,
      intScalar1_of_eq rfl, intScalar1_of_eq rfl, intScalar1_of_eq rfl, intScalar1_of_eq rfl,
      intScalar3_of_eq rfl, intScalar3_of_eq rfl⟩,
    fun w a b c _ => ⟨toNat_iPopc a, ?_, fun h => ⟨?_, fun j hj => ?_, ?_, fun j hj => ?_⟩, fun i => getLsbD_iBfxZ a b,
      fun i => getLsbD_iBfxS a b, fun i => getLsbD_iBfi a b c, fun i => getLsbD_iBrev a⟩⟩
  · rintro rfl
    exact counts_of_zero
  · rw [highest_iClz h]
    exact getLsbD_log2 h
  · rw [highest_iClz h] at hj
    exact getLsbD_of_log2_lt hj
  · rw [toNat_iCtz]
    exact testBit_trailingZeros (toNat_ne_zero h) a.isLt
  · rw [toNat_iCtz] at hj
    exact testBit_of_lt_trailingZeros hj

end Sys2Proof.Proofs
end
